-- ==== Sys2Proof/Word.lean ====
section
/-! DEFINITION. The word types of the Fyska-88 and their plainest arithmetic (R4, R7, R50).
Little-endian, bit 0 least significant (R4); arithmetic is exact on integers and narrowed at assignment (R7). -/
namespace Sys2Proof

/-- A lane register, a CSR, a memory word of 64 bits (R48). -/
abbrev Word := BitVec 64
/-- A byte of memory (R4). -/
abbrev Byte := BitVec 8
/-- A virtual address, bits [55:0] (R106, R107). -/
abbrev VAddr := BitVec 56
/-- One bit per lane of a gang (R48: rejoin masks, loop mask). -/
abbrev LaneBits := BitVec 32
/-- A mask register: one bit per byte of the gang's 32 lanes (R55). -/
abbrev MaskBits := BitVec 256

/-- `sint(x)` of R7 for the low `w` bits of `n`. -/
def sintN (w n : Nat) : Int :=
  let m := n % 2 ^ w
  if m < 2 ^ (w - 1) then (m : Int) else (m : Int) - (2 ^ w : Nat)

/-- The low `w` bits of an integer, as a natural number: what assigning it to `bits(w)` keeps (R7). -/
def lowBits (w : Nat) (i : Int) : Nat := (i % ((2 ^ w : Nat) : Int)).toNat

/-- The integer clamped to `lo`..`hi`: the saturation R155 writes as sat_i and sat_n. -/
def clampInt (lo hi i : Int) : Int := if i < lo then lo else if i > hi then hi else i

/-- Bits [hi:lo] of a natural number. -/
def bitsOf (n hi lo : Nat) : Nat := n / 2 ^ lo % 2 ^ (hi + 1 - lo)

/-- The `n` little-endian bytes of a natural number (R4). -/
def leBytes : Nat → Nat → List Byte
  | 0, _ => []
  | n + 1, v => BitVec.ofNat 8 v :: leBytes n (v / 256)

/-- The natural number whose little-endian bytes are given (R4). -/
def ofLeBytes : List Byte → Nat
  | [] => 0
  | b :: bs => b.toNat + 256 * ofLeBytes bs

end Sys2Proof
end

