-- ==== Sys2Proof/Fields.lean ====
section
/-! DEFINITION. The operand fields of an instruction word, decoded (R50, R53, R56, R61, R175, R188, R195, R216 to R225),
and the operands of the steps that other agents take (R332, R349, R351, R361, R365). -/
namespace Sys2Proof

/-- A sub-element width (R50, R165): 8, 16, 32 or 64 bits. -/
inductive Width | b8 | b16 | b32 | b64
  deriving DecidableEq, Repr

/-- The width in bits. -/
def Width.bits : Width → Nat
  | .b8 => 8 | .b16 => 16 | .b32 => 32 | .b64 => 64

/-- Sub-elements of a lane register, n = 64 / w (R50). -/
def Width.elems : Width → Nat
  | .b8 => 8 | .b16 => 4 | .b32 => 2 | .b64 => 1

/-- The width in bytes. -/
def Width.bytes : Width → Nat
  | .b8 => 1 | .b16 => 2 | .b32 => 4 | .b64 => 8

/-- A source register field (R53); 123 is no constructor. -/
inductive Src | v (i : Fin 96) | k (i : Fin 24) | z | lid | gnid | ix (n : Fin 4)
  deriving DecidableEq, Repr

/-- A destination register field (R53): the read-only values are no constructor. -/
inductive Dst | v (i : Fin 96) | z | ix (n : Fin 4)
  deriving DecidableEq, Repr

/-- A destination field read as a source: an instruction that reads its destination (R63, R168). -/
def Dst.src : Dst → Src
  | .v i => .v i | .z => .z | .ix n => .ix n

/-- A mask register number m0 to m7 (R48). -/
abbrev MaskNo := Fin 8
/-- A rejoin mask number j0 to j7 (R48). -/
abbrev JNo := Fin 8

/-- The floating-point register formats of R173. -/
inductive FFmt | f32 | bf16
  deriving DecidableEq, Repr

/-- Fence and ordering scopes (R188). -/
inductive Scope | gang | block | ens | tower | dev | dom
  deriving DecidableEq, Repr

/-- Fence semantics (R198). -/
inductive Sem | acq | rel | ar | sc
  deriving DecidableEq, Repr

/-- Atomic semantics (R195). -/
inductive ASem | plain | acq | rel | ar
  deriving DecidableEq, Repr

/-- The conditions of `monw` (R202). -/
inductive Cond | eq | ne | ltI | geI | ltN | geN
  deriving DecidableEq, Repr

/-- Rounding modes (R10). -/
inductive RMode | rne | rz | rd | ru
  deriving DecidableEq, Repr

/-- Conversion formats (R175). -/
inductive CvtFmt | i8 | n8 | i16 | n16 | i32 | n32 | i64 | n64 | f32 | bf16 | e4m3 | e5m2
  deriving DecidableEq, Repr

/-- Element classes of the matrix path (R91). -/
inductive Cls | i8 | i16 | n8 | i4
  deriving DecidableEq, Repr

/-- Register drain output formats (R224). -/
inductive Ofmt | f32 | bf16 | e4m3 | e5m2
  deriving DecidableEq, Repr

/-- The atomic operations (R195). -/
inductive AtomOp
  | aadd | aand | aor | axor | axch | acas | aminI | amaxI
  | aminN | amaxN | aincw | adecw | aaddb | fadda | amaxm | amaxrs
  deriving DecidableEq, Repr

/-- What Plovaeben writes beside the state code of a bind record (R332). -/
structure BindFields where
  lrec  : VAddr
  smode : Bool
  etag  : BitVec 32
  block : BitVec 32
  save  : BitVec 44
  part  : Fin 16
  asid  : BitVec 16
  /-- The reserved bits, from B0[58:56] up to B3[63:24] (R332). -/
  reserved : BitVec 67 := 0
  deriving DecidableEq, Repr

/-- An incoming UALink transaction (R361), at a package physical address of this module. -/
inductive PeerReq
  | read (addr n : Nat)
  | write (addr : Nat) (bytes : List (Option Byte))
  | atomic (op : AtomOp) (wide : Bool) (addr : Nat) (v c : Word)
  | message
  deriving DecidableEq, Repr

/-- The outgoing peer transaction that fails (R362): an access word of a gang (the lane names the held
word), a store already issued (its operation), or an engine command. -/
inductive PeerTx
  | word (core gang lane : Nat)
  | store (core gang op : Nat)
  | command (cmd : Nat)
  deriving DecidableEq, Repr

/-- A transfer on an elevator column of which a beat arrives damaged (R12, R367): residues that an access of an operation brings to the
residue scratchpad, by its place in its operation; those that units of a command do, by their offset and length; those that a held drain
reads of its slot; those that an access of an `rpst` reads, or a staged `rpst`; those of the residue scratchpad, or of a slot, that a save
takes away or a resume brings back. -/
inductive Lift
  | up (k : Nat)
  | copy (off n : Nat)
  | drain
  | down (k : Nat)
  | staged
  | area
  | areaSlot
  deriving DecidableEq, Repr

/-- A stored bit that changes of itself (R110, R126). -/
inductive Upset
  | residue (core channel elem : Nat) (value : Byte)
  | slot (core gang slot channel row col : Nat) (value : Byte)
  | corrected (granule : Nat)
  | uncorrectable (granule : Nat)
  | scratchGroup (core group : Nat)
  deriving DecidableEq, Repr

/-- Management and mailbox registers that have no row of their own in the operation table
(R351, R357, R365, R377). -/
inductive MgmtReg
  | ctxbase | flogged (tower : Nat) | fdropped (tower : Nat) | asythr (tower : Nat)
  | apbase | h2dbase | h2dsize | d2hsize | pwrlim | tlim | bar0Other
  deriving DecidableEq, Repr

end Sys2Proof
end

