-- ==== Sys2Proof/Machine/Float.lean ====
section
/-! DEFINITION. Floating point (R79 to R83, R86, R87): the formats, exact values as dyadic numbers, the one rounding, and the
operations of R173 on bit patterns. -/
namespace Sys2Proof.Machine

/-- A floating-point format: its width, its precision, the exponent of its smallest subnormal, the largest finite
magnitude, its infinity if it has one, its canonical NaN, and the lowest magnitude that is a NaN (R79, R81, R82). -/
structure FloatFmt where
  width : Nat
  prec : Nat
  qmin : Int
  maxFinite : Nat
  inf : Option Nat
  nan : Nat
  nanFrom : Nat
  deriving DecidableEq, Repr

/-- binary32 (R79). -/
def fmtF32 : FloatFmt := ⟨32, 24, -149, 0x7F7FFFFF, some 0x7F800000, 0x7FC00000, 0x7F800001⟩
/-- bf16 (R81). -/
def fmtBf16 : FloatFmt := ⟨16, 8, -133, 0x7F7F, some 0x7F80, 0x7FC0, 0x7F81⟩
/-- e4m3 (R82). -/
def fmtE4m3 : FloatFmt := ⟨8, 4, -9, 0x7E, none, 0x7F, 0x7F⟩
/-- e5m2 (R82). -/
def fmtE5m2 : FloatFmt := ⟨8, 3, -16, 0x7B, some 0x7C, 0x7E, 0x7D⟩

/-- The register format of R173. -/
def floatFmt : FFmt → FloatFmt
  | .f32 => fmtF32 | .bf16 => fmtBf16

/-- The width of a register format. -/
def floatWidth : FFmt → Width
  | .f32 => .b32 | .bf16 => .b16

/-- A floating-point value: (-1)^neg × m × 2^e when finite. -/
inductive FVal | nan | inf (neg : Bool) | fin (neg : Bool) (m : Nat) (e : Int)
  deriving DecidableEq, Repr

/-- The value of a bit pattern (R79, R81, R82). -/
def FloatFmt.val (f : FloatFmt) (x : Nat) : FVal :=
  let neg := decide (x / 2 ^ (f.width - 1) % 2 = 1)
  let mag := x % 2 ^ (f.width - 1)
  if f.nanFrom ≤ mag then .nan
  else if f.inf = some mag then .inf neg
  else if mag < 2 ^ (f.prec - 1) then .fin neg mag f.qmin
  else .fin neg (2 ^ (f.prec - 1) + mag % 2 ^ (f.prec - 1)) (f.qmin + ((mag / 2 ^ (f.prec - 1) - 1 : Nat) : Int))

/-- A bit pattern from a sign and a magnitude. -/
def FloatFmt.signed (f : FloatFmt) (neg : Bool) (mag : Nat) : Nat := (if neg then 2 ^ (f.width - 1) else 0) + mag

/-- Whether to step away from zero when discarding `rem` of `2 ^ sh`, with something below it if `sticky` (R10). -/
def roundsUp (rm : RMode) (neg odd : Bool) (rem sh : Nat) (sticky : Bool) : Bool :=
  let inexact := rem != 0 || sticky
  match rm with
  | .rne => decide (2 ^ sh < 2 * rem) || (decide (2 ^ sh = 2 * rem) && (sticky || odd))
  | .rz => false
  | .rd => neg && inexact
  | .ru => !neg && inexact

/-- `m × 2^(-sh)`, and a little more if `sticky`, rounded to an integer magnitude (R7, R10). -/
def roundShift (rm : RMode) (neg : Bool) (m sh : Nat) (sticky : Bool) : Nat :=
  let k := m / 2 ^ sh
  if roundsUp rm neg (k % 2 == 1) (m % 2 ^ sh) sh sticky then k + 1 else k

/-- A magnitude beyond the largest finite one (R80, R83): by the mode, or saturated. -/
def FloatFmt.overflow (f : FloatFmt) (rm : RMode) (sat neg : Bool) : Nat :=
  let toInf := match rm with
    | .rne => true | .rz => false | .rd => neg | .ru => !neg
  if sat || !toInf then f.signed neg f.maxFinite
  else match f.inf with
    | some i => f.signed neg i
    | none => f.nan

/-- The exact finite value rounded once to the format (R80, R83); `sticky` says that the true value lies a little further
from zero than `m × 2^e`. -/
def FloatFmt.round (f : FloatFmt) (rm : RMode) (sat neg : Bool) (m : Nat) (e : Int) (sticky : Bool := false) : Nat :=
  if m = 0 ∧ !sticky then f.signed neg 0
  else
    let q := max f.qmin ((Nat.log2 m : Int) + e - ((f.prec - 1 : Nat) : Int))
    let k := if q ≤ e then m * 2 ^ (e - q).toNat else roundShift rm neg m (q - e).toNat sticky
    let mag := (q - f.qmin).toNat * 2 ^ (f.prec - 1) + k
    if f.maxFinite < mag then f.overflow rm sat neg else f.signed neg mag

/-- A value converted to the format (R80, R83, R86). -/
def FloatFmt.ofVal (f : FloatFmt) (rm : RMode) (sat : Bool) : FVal → Nat
  | .nan => f.nan
  | .inf neg =>
    if sat then f.signed neg f.maxFinite
    else match f.inf with
      | some i => f.signed neg i
      | none => f.nan
  | .fin neg m e => f.round rm sat neg m e

/-- The sign of a value; a NaN has none. -/
def FVal.neg : FVal → Bool
  | .nan => false | .inf n => n | .fin n _ _ => n

/-- The value with its sign inverted. -/
def FVal.negate : FVal → FVal
  | .nan => .nan | .inf n => .inf !n | .fin n m e => .fin (!n) m e

/-- The integer (-1)^neg × m. -/
def signedNat (neg : Bool) (m : Nat) : Int := if neg then -(m : Int) else m

/-- The exact product (R80). -/
def FVal.mul : FVal → FVal → FVal
  | .nan, _ => .nan
  | _, .nan => .nan
  | .inf a, .inf b => .inf (a != b)
  | .inf a, .fin b m _ => if m = 0 then .nan else .inf (a != b)
  | .fin a m _, .inf b => if m = 0 then .nan else .inf (a != b)
  | .fin a m e, .fin b n g => .fin (a != b) (m * n) (e + g)

/-- The exact sum, a zero with the sign of R80. -/
def FVal.add (rm : RMode) : FVal → FVal → FVal
  | .nan, _ => .nan
  | _, .nan => .nan
  | .inf a, .inf b => if a = b then .inf a else .nan
  | .inf a, .fin _ _ _ => .inf a
  | .fin _ _ _, .inf b => .inf b
  | .fin a m e, .fin b n g =>
    let lo := min e g
    let x := signedNat a m * ((2 ^ (e - lo).toNat : Nat) : Int) + signedNat b n * ((2 ^ (g - lo).toNat : Nat) : Int)
    if x = 0 then .fin (if m = 0 ∧ n = 0 ∧ a = b then a else rm == .rd) 0 0
    else .fin (decide (x < 0)) x.natAbs lo

/-- The IEEE 754 order of two values, −0 equal to +0: the first is below the second (R173). -/
def FVal.lt : FVal → FVal → Bool
  | .nan, _ => false
  | _, .nan => false
  | .inf a, .inf b => a && !b
  | .inf a, .fin _ _ _ => a
  | .fin _ _ _, .inf b => !b
  | .fin a m e, .fin b n g =>
    let lo := min e g
    decide (signedNat a m * ((2 ^ (e - lo).toNat : Nat) : Int) < signedNat b n * ((2 ^ (g - lo).toNat : Nat) : Int))

/-- The value is a NaN. -/
def FVal.isNan : FVal → Bool
  | .nan => true
  | _ => false

/-- The value is a zero. -/
def FVal.isZero : FVal → Bool
  | .fin _ m _ => m == 0
  | _ => false

/-- The order in which −0 lies below +0 (R80). -/
def FVal.below (x y : FVal) : Bool := x.lt y || (x.isZero && y.isZero && x.neg && !y.neg)

/-- `m × 2^e` with a sign, rounded to an integer (R7, R10). -/
def roundInt (rm : RMode) (neg : Bool) (m : Nat) (e : Int) : Int :=
  signedNat neg (if 0 ≤ e then m * 2 ^ e.toNat else roundShift rm neg m (-e).toNat false)

/-- `add` (R173). -/
def fAdd (f : FloatFmt) (rm : RMode) (a b : Nat) : Nat := f.ofVal rm false ((f.val a).add rm (f.val b))
/-- `sub` (R173). -/
def fSub (f : FloatFmt) (rm : RMode) (a b : Nat) : Nat := f.ofVal rm false ((f.val a).add rm (f.val b).negate)
/-- `mul` (R173). -/
def fMul (f : FloatFmt) (rm : RMode) (a b : Nat) : Nat := f.ofVal rm false ((f.val a).mul (f.val b))
/-- `fma` (R173). -/
def fFma (f : FloatFmt) (rm : RMode) (a b c : Nat) : Nat :=
  f.ofVal rm false (((f.val a).mul (f.val b)).add rm (f.val c))
/-- `fms` (R173). -/
def fFms (f : FloatFmt) (rm : RMode) (a b c : Nat) : Nat :=
  f.ofVal rm false (((f.val a).mul (f.val b)).add rm (f.val c).negate)
/-- `fnma` (R173). -/
def fFnma (f : FloatFmt) (rm : RMode) (a b c : Nat) : Nat :=
  f.ofVal rm false ((f.val c).add rm ((f.val a).mul (f.val b)).negate)
/-- `min`: IEEE 754 minimum (R80). -/
def fMin (f : FloatFmt) (a b : Nat) : Nat :=
  if (f.val a).isNan || (f.val b).isNan then f.nan else if (f.val b).below (f.val a) then b else a
/-- `max`: IEEE 754 maximum (R80). -/
def fMax (f : FloatFmt) (a b : Nat) : Nat :=
  if (f.val a).isNan || (f.val b).isNan then f.nan else if (f.val a).below (f.val b) then b else a
/-- The magnitude of a bit pattern. -/
def FloatFmt.mag (f : FloatFmt) (a : Nat) : Nat := a % 2 ^ (f.width - 1)
/-- `abs` (R173). -/
def fAbs (f : FloatFmt) (a : Nat) : Nat := if (f.val a).isNan then f.nan else f.mag a
/-- `neg` (R173). -/
def fNeg (f : FloatFmt) (a : Nat) : Nat :=
  if (f.val a).isNan then f.nan else f.signed (!decide (a / 2 ^ (f.width - 1) % 2 = 1)) (f.mag a)
/-- `csgn`: a NaN in either operand gives the canonical NaN, since no NaN's sign passes to a result (R80, R173; log entry 22). -/
def fCsgn (f : FloatFmt) (a b : Nat) : Nat :=
  if (f.val a).isNan || (f.val b).isNan then f.nan else f.signed (decide (b / 2 ^ (f.width - 1) % 2 = 1)) (f.mag a)
/-- `rint` (R173). -/
def fRint (f : FloatFmt) (rm : RMode) (a : Nat) : Nat :=
  match f.val a with
  | .nan => f.nan
  | .inf _ => a
  | .fin neg m e => if 0 ≤ e then a else f.round rm false neg (roundInt rm neg m e).natAbs 0
/-- `ceq` (R173). -/
def fCeq (f : FloatFmt) (a b : Nat) : Bool :=
  !(f.val a).isNan && !(f.val b).isNan && !(f.val a).lt (f.val b) && !(f.val b).lt (f.val a)
/-- `clt` (R173). -/
def fClt (f : FloatFmt) (a b : Nat) : Bool := (f.val a).lt (f.val b)
/-- `cle` (R173). -/
def fCle (f : FloatFmt) (a b : Nat) : Bool := fClt f a b || fCeq f a b
/-- `cun` (R173). -/
def fCun (f : FloatFmt) (a b : Nat) : Bool := (f.val a).isNan || (f.val b).isNan

/-- The node of an absolute maximum (R181): NaN, or the larger magnitude. -/
def fAmaxNode (a b : Nat) : Nat :=
  if fCun fmtF32 a b then fmtF32.nan else max (fmtF32.mag a) (fmtF32.mag b)

/-- A conversion between floating-point and integer formats (R86): the format's parts. -/
inductive NumFmt | int (w : Nat) (sgn : Bool) | flt (f : FloatFmt)
  deriving DecidableEq, Repr

/-- The format of a conversion code (R175). -/
def numFmt : CvtFmt → NumFmt
  | .i8 => .int 8 true | .n8 => .int 8 false | .i16 => .int 16 true | .n16 => .int 16 false
  | .i32 => .int 32 true | .n32 => .int 32 false | .i64 => .int 64 true | .n64 => .int 64 false
  | .f32 => .flt fmtF32 | .bf16 => .flt fmtBf16 | .e4m3 => .flt fmtE4m3 | .e5m2 => .flt fmtE5m2

/-- An integer clamped to a type (R176). -/
def clampTo (w : Nat) (sgn : Bool) (x : Int) : Nat :=
  lowBits w (if sgn then clampInt (-(2 ^ (w - 1) : Nat)) ((2 ^ (w - 1) : Nat) - 1) x else clampInt 0 ((2 ^ w : Nat) - 1) x)

/-- An integer read by its type (R78). -/
def readInt (w : Nat) (sgn : Bool) (x : Nat) : Int := if sgn then sintN w x else ((x % 2 ^ w : Nat) : Int)

/-- `cvt` and, with `sat` false, `cvto` (R86, R176); the saturating form is that of the 8-bit formats (R83). -/
def convert (fr tgt : NumFmt) (rm : RMode) (sat : Bool) (x : Nat) : Nat :=
  match fr, tgt with
  | .int w s, .int v t => clampTo v t (readInt w s x)
  | .int w s, .flt f => f.round rm (sat && f.width == 8) (decide (readInt w s x < 0)) (readInt w s x).natAbs 0
  | .flt f, .int v t =>
    match f.val x with
    | .nan => 0
    | .inf neg => clampTo v t (signedNat neg (2 ^ 64))
    | .fin neg m e => clampTo v t (roundInt rm neg m e)
  | .flt f, .flt g => g.ofVal rm (sat && g.width == 8) (f.val x)

/-- The value an integer or a float format's pattern has. -/
def NumFmt.val (f : NumFmt) (x : Nat) : FVal :=
  match f with
  | .int w s => .fin (decide (readInt w s x < 0)) (readInt w s x).natAbs 0
  | .flt g => g.val x

/-- The amax update by one value before its conversion (R87): magnitude and NaN bit. -/
def amaxStep (a : Nat × Bool) (v : FVal) : Nat × Bool :=
  match v with
  | .nan => (a.1, true)
  | .inf _ => a
  | .fin _ m e => (max a.1 (fmtF32.round .rz false false m e), a.2)

end Sys2Proof.Machine
end

