-- ==== Sys2Proof/Config.lean ====
section
/-! DEFINITION. What is fixed for the machine, and the free values: constants without a body, so that nothing can
be proved of the value an open point of the spec takes (log entry 6). -/
namespace Sys2Proof.Config

/-- Towers of the largest part (R2, R3). -/
def maxTowers : Nat := 8
/-- Cores of a tower (R2). -/
def coresPerTower : Nat := 32
/-- Lanes of a gang (R18). -/
def lanes : Nat := 32
/-- Bytes of package memory of a tower: four stacks of 64 GiB (R17, R344). -/
def towerBytes : Nat := 2 ^ 38
/-- Bytes of L2 of a tower: eight slices of 16 MiB (R2). -/
def towerL2Bytes : Nat := 2 ^ 27
/-- Entries of the Teller buffer (R148). -/
def tellerEntries : Nat := 512
/-- Entries of a commit stage (R194). -/
def commitEntries : Nat := 16
/-- The quantum (R42, R335). -/
def quantum : Nat := 2 ^ 20
/-- Moduli of the eight channels (R89). -/
def moduli : List Nat := [223, 227, 229, 233, 239, 241, 251, 255]
/-- M of R90. -/
def bigM : Nat := 155574017562503
/-- H of R90. -/
def bigH : Nat := 77787008781251

/-- FREE VALUE (log entry 6): the EPOCH a module reset proposes (R357: nonzero, different after every reset; the two
limits are applied where it is used). -/
opaque freshEpoch : Nat → BitVec 64
/-- FREE VALUE (log entry 6): the module's own attestation key (R376): the start of chain `ch` of the one-time key `leaf`. -/
opaque attestSecret (leaf ch : Nat) : List (BitVec 8)
/-- FREE VALUE (log entry 6): the part of the attestation key that randomises a signature. -/
opaque attestPrf : List (BitVec 8)
/-- FREE VALUE (log entry 6): the public SEED of the attestation key. -/
opaque attestSeed : List (BitVec 8)
/-- FREE VALUE (log entry 6): the key hash in the control-die fuses (R375). -/
opaque fusedKeyHash : Nat → List (BitVec 8)
/-- FREE VALUE (log entry 6): the firmware images in the two banks at manufacture (R370, R373). -/
opaque bootImage : Nat → List (BitVec 8)
/-- FREE VALUE (log entry 6): the module number and the domain size that Plovaeben sets at stage 7 (R361, R370), before they
are brought into their ranges (R20). -/
opaque fabricNumbers : Nat × Nat
/-- FREE VALUE (log entry 9): whether a byte of a failed, killed or abandoned transfer holds its new value (true) or its old one
(R251, R259, R265, R324, R362), whether an access that a kill leaves is performed (R152), and the other choices of log entry 9;
the argument is a counter that every use advances. -/
opaque freeChoice : Nat → Bool
/-- FREE VALUE (log entry 10): how much of a message's text was written before a fault (R282 step 2), the fault offsets that
R282 does not fix, the entry a lookup in an unordered merge table finds (R279), and where a save stops an `mxm` (R231; log
entry 51). -/
opaque freeCount : Nat → Nat
/-- FREE VALUE: TINFO of the access-violation that `nbar` raises (R201; log entry 23), the address of an event of kind 2 for a
scratchpad (R364; log entry 62), and which of the values of a byte an `mxm` reads (R146; log entry 18). -/
opaque freeWord : Nat → BitVec 64

end Sys2Proof.Config
end

