-- ==== Sys2Proof/Syntax.lean ====
section
/-! DEFINITION. The instructions: one constructor for each row of spec/opcode_table.json. The 235 rows with
an encoding are instruction words (R56); the other 85 are the steps that the device's other agents take
(95_what_each_step_holds.md), whose operands say which tower, core, gang, command or register acts. -/
namespace Sys2Proof

/-- One instruction word, decoded, or one step of another agent. Register fields are constructors (R53),
so no reserved value of a register field is an operand. -/
inductive Instr
  /-- `br`, R159: Conditional branch on a mask bit, optionally recording the active lanes in a rejoin mask. -/
  | br (m : MaskNo) (inv : Bool) (rejoin : Option JNo) (disp : BitVec 16)
  /-- `jmp`, R159: Unconditional jump. -/
  | jmp (rejoin : Option JNo) (disp : BitVec 16)
  /-- `call`, R159: Call: links into allotment register A − 1 and jumps. -/
  | call (rejoin : Option JNo) (disp : BitVec 16)
  /-- `jr`, R160: Jump to a per-lane register target. -/
  | jr (a : Src)
  /-- `calr`, R160: Call through a register. -/
  | calr (a : Src)
  /-- `ret`, R160: Return to the link register. -/
  | ret
  /-- `exit`, R161: Each active lane exits. -/
  | exit
  /-- `nop`, R161: No operation. -/
  | nop
  /-- `yield`, R161: Lets the arbiter change gangs after this word. -/
  | yield
  /-- `trap`, R162: Raises a software trap, cause 0x14. -/
  | trap (i : BitVec 8)
  /-- `brk`, R162: Raises a breakpoint trap, cause 0x15. -/
  | brk (i : BitVec 8)
  /-- `loopt`, R163: Counts down each lane's trip count and loops, or parks the lane at the loop's exit. -/
  | loopt (c : Dst) (disp : BitVec 15)
  /-- `loopt.b`, R163: Opens a trip-count loop, setting the loop mask. -/
  | looptB (c : Src) (disp : BitVec 15)
  /-- `split`, R164: ORs the active lanes into a rejoin mask. -/
  | split (n : JNo)
  /-- `join`, R164: Clears the arriving lanes' bits in a rejoin mask and parks them. -/
  | join (n : JNo)
  /-- `waitj`, R164: Parks lanes on a rejoin mask without clearing bits. -/
  | waitj (n : JNo)
  /-- `jget`, R164: Reads a rejoin mask into a register. -/
  | jget (d : Dst) (n : JNo)
  /-- `jset`, R164: Writes a rejoin mask from a register of the lowest active lane. -/
  | jset (n : JNo) (a : Src)
  /-- `add.tW`, R166: Integer add, wrapping. -/
  | add (w : Width) (d : Dst) (a : Src) (b : Src)
  /-- `sub.tW`, R166: Integer subtract, wrapping. -/
  | sub (w : Width) (d : Dst) (a : Src) (b : Src)
  /-- `adds.iW`, R166: Signed saturating add. -/
  | addsI (w : Width) (d : Dst) (a : Src) (b : Src)
  /-- `adds.nW`, R166: Unsigned saturating add. -/
  | addsN (w : Width) (d : Dst) (a : Src) (b : Src)
  /-- `subs.iW`, R166: Signed saturating subtract. -/
  | subsI (w : Width) (d : Dst) (a : Src) (b : Src)
  /-- `subs.nW`, R166: Unsigned saturating subtract. -/
  | subsN (w : Width) (d : Dst) (a : Src) (b : Src)
  /-- `absd.iW`, R166: Signed absolute difference. -/
  | absdI (w : Width) (d : Dst) (a : Src) (b : Src)
  /-- `absd.nW`, R166: Unsigned absolute difference. -/
  | absdN (w : Width) (d : Dst) (a : Src) (b : Src)
  /-- `mul.tW`, R166: Integer multiply, low half. -/
  | mul (w : Width) (d : Dst) (a : Src) (b : Src)
  /-- `mulh.iW`, R166: Signed multiply, high half. -/
  | mulhI (w : Width) (d : Dst) (a : Src) (b : Src)
  /-- `mulh.nW`, R166: Unsigned multiply, high half. -/
  | mulhN (w : Width) (d : Dst) (a : Src) (b : Src)
  /-- `muls.iW`, R166: Signed saturating multiply. -/
  | mulsI (w : Width) (d : Dst) (a : Src) (b : Src)
  /-- `mad.tW`, R166: Integer multiply-add, wrapping. -/
  | mad (w : Width) (d : Dst) (a : Src) (b : Src)
  /-- `muls.nW`, R166: Unsigned saturating multiply. -/
  | mulsN (w : Width) (d : Dst) (a : Src) (b : Src)
  /-- `min.iW`, R166: Signed minimum. -/
  | minI (w : Width) (d : Dst) (a : Src) (b : Src)
  /-- `min.nW`, R166: Unsigned minimum. -/
  | minN (w : Width) (d : Dst) (a : Src) (b : Src)
  /-- `max.iW`, R166: Signed maximum. -/
  | maxI (w : Width) (d : Dst) (a : Src) (b : Src)
  /-- `max.nW`, R166: Unsigned maximum. -/
  | maxN (w : Width) (d : Dst) (a : Src) (b : Src)
  /-- `abs.iW`, R166: Integer absolute value, wrapping. -/
  | absI (w : Width) (d : Dst) (a : Src)
  /-- `abss.iW`, R166: Saturating absolute value. -/
  | abss (w : Width) (d : Dst) (a : Src)
  /-- `neg.tW`, R166: Integer negate, wrapping. -/
  | neg (w : Width) (d : Dst) (a : Src)
  /-- `negs.iW`, R166: Saturating negate. -/
  | negs (w : Width) (d : Dst) (a : Src)
  /-- `div.iW`, R166: Signed divide, truncating. -/
  | divI (w : Width) (d : Dst) (a : Src) (b : Src)
  /-- `div.nW`, R166: Unsigned divide. -/
  | divN (w : Width) (d : Dst) (a : Src) (b : Src)
  /-- `rem.iW`, R166: Signed remainder. -/
  | remI (w : Width) (d : Dst) (a : Src) (b : Src)
  /-- `rem.nW`, R166: Unsigned remainder. -/
  | remN (w : Width) (d : Dst) (a : Src) (b : Src)
  /-- `and.tW`, R166: Bitwise AND. -/
  | and (w : Width) (d : Dst) (a : Src) (b : Src)
  /-- `or.tW`, R166: Bitwise OR. -/
  | or (w : Width) (d : Dst) (a : Src) (b : Src)
  /-- `xor.tW`, R166: Bitwise XOR. -/
  | xor (w : Width) (d : Dst) (a : Src) (b : Src)
  /-- `andn.tW`, R166: AND with the complement of b. -/
  | andn (w : Width) (d : Dst) (a : Src) (b : Src)
  /-- `orn.tW`, R166: OR with the complement of b. -/
  | orn (w : Width) (d : Dst) (a : Src) (b : Src)
  /-- `xnor.tW`, R166: Bitwise XNOR. -/
  | xnor (w : Width) (d : Dst) (a : Src) (b : Src)
  /-- `not.tW`, R166: Bitwise NOT. -/
  | not (w : Width) (d : Dst) (a : Src)
  /-- `bsel.tW`, R166: Bitwise select under c. -/
  | bsel (w : Width) (d : Dst) (a : Src) (b : Src)
  /-- `shl.tW`, R166: Shift left by a register. -/
  | shl (w : Width) (d : Dst) (a : Src) (b : Src)
  /-- `shr.nW`, R166: Logical shift right by a register. -/
  | shrN (w : Width) (d : Dst) (a : Src) (b : Src)
  /-- `shr.iW`, R166: Arithmetic shift right by a register. -/
  | shrI (w : Width) (d : Dst) (a : Src) (b : Src)
  /-- `rol.tW`, R166: Rotate left. -/
  | rol (w : Width) (d : Dst) (a : Src) (b : Src)
  /-- `ror.tW`, R166: Rotate right. -/
  | ror (w : Width) (d : Dst) (a : Src) (b : Src)
  /-- `shli.tW`, R167: Shift left by an immediate. -/
  | shli (w : Width) (d : Dst) (a : Src) (i : BitVec 8)
  /-- `shri.nW`, R167: Logical shift right by an immediate. -/
  | shriN (w : Width) (d : Dst) (a : Src) (i : BitVec 8)
  /-- `shri.iW`, R167: Arithmetic shift right by an immediate. -/
  | shriI (w : Width) (d : Dst) (a : Src) (i : BitVec 8)
  /-- `rori.tW`, R167: Rotate right by an immediate. -/
  | rori (w : Width) (d : Dst) (a : Src) (i : BitVec 8)
  /-- `popc.tW`, R168: Population count. -/
  | popc (w : Width) (d : Dst) (a : Src)
  /-- `clz.tW`, R168: Count leading zeros. -/
  | clz (w : Width) (d : Dst) (a : Src)
  /-- `ctz.tW`, R168: Count trailing zeros. -/
  | ctz (w : Width) (d : Dst) (a : Src)
  /-- `brev.tW`, R168: Bit reverse. -/
  | brev (w : Width) (d : Dst) (a : Src)
  /-- `bfx.nW`, R168: Extract a bit field, zero-extended. -/
  | bfxN (w : Width) (d : Dst) (a : Src) (b : Src)
  /-- `bfx.iW`, R168: Extract a bit field, sign-extended. -/
  | bfxI (w : Width) (d : Dst) (a : Src) (b : Src)
  /-- `bfi.tW`, R168: Insert a bit field. -/
  | bfi (w : Width) (d : Dst) (a : Src) (b : Src)
  /-- `ceq.tW`, R169: Integer compare for equality into a mask. -/
  | ceq (w : Width) (d : MaskNo) (a : Src) (b : Src)
  /-- `cne.tW`, R169: Integer compare for inequality into a mask. -/
  | cne (w : Width) (d : MaskNo) (a : Src) (b : Src)
  /-- `clt.iW`, R169: Signed less-than into a mask. -/
  | cltI (w : Width) (d : MaskNo) (a : Src) (b : Src)
  /-- `cge.iW`, R169: Signed greater-or-equal into a mask. -/
  | cgeI (w : Width) (d : MaskNo) (a : Src) (b : Src)
  /-- `clt.nW`, R169: Unsigned less-than into a mask. -/
  | cltN (w : Width) (d : MaskNo) (a : Src) (b : Src)
  /-- `cge.nW`, R169: Unsigned greater-or-equal into a mask. -/
  | cgeN (w : Width) (d : MaskNo) (a : Src) (b : Src)
  /-- `ctst.tW`, R169: Bit test into a mask. -/
  | ctst (w : Width) (d : MaskNo) (a : Src) (b : Src)
  /-- `sel.tW`, R170: Element select under a mask register. -/
  | sel (w : Width) (m : MaskNo) (d : Dst) (a : Src) (b : Src)
  /-- `addi.tW`, R171: Add a sign-extended immediate. -/
  | addi (w : Width) (d : Dst) (a : Src) (i : BitVec 8)
  /-- `andi.tW`, R171: AND with an immediate. -/
  | andi (w : Width) (d : Dst) (a : Src) (i : BitVec 8)
  /-- `ori.tW`, R171: OR with an immediate. -/
  | ori (w : Width) (d : Dst) (a : Src) (i : BitVec 8)
  /-- `movi.tW`, R171: Move an immediate. -/
  | movi (w : Width) (d : Dst) (i : BitVec 8)
  /-- `lea`, R172: Address add with a scaled register. -/
  | lea (s : Fin 4) (d : Dst) (a : Src) (b : Src)
  /-- `leai`, R172: Address add with a scaled immediate. -/
  | leai (s : Fin 4) (d : Dst) (a : Src) (i : BitVec 8)
  /-- `mov`, R172: Register move. -/
  | mov (d : Dst) (a : Src)
  /-- `add.f32`, R173: f32 or bf16 add. -/
  | addF (t : FFmt) (d : Dst) (a : Src) (b : Src)
  /-- `sub.f32`, R173: Floating-point subtract. -/
  | subF (t : FFmt) (d : Dst) (a : Src) (b : Src)
  /-- `mul.f32`, R173: Floating-point multiply. -/
  | mulF (t : FFmt) (d : Dst) (a : Src) (b : Src)
  /-- `min.f32`, R173: IEEE 754 minimum. -/
  | minF (t : FFmt) (d : Dst) (a : Src) (b : Src)
  /-- `max.f32`, R173: IEEE 754 maximum. -/
  | maxF (t : FFmt) (d : Dst) (a : Src) (b : Src)
  /-- `fma.f32`, R173: Fused multiply-add. -/
  | fmaF (t : FFmt) (d : Dst) (a : Src) (b : Src)
  /-- `fms.f32`, R173: Fused multiply-subtract. -/
  | fmsF (t : FFmt) (d : Dst) (a : Src) (b : Src)
  /-- `fnma.f32`, R173: Fused negated multiply-add, c − a × b. -/
  | fnmaF (t : FFmt) (d : Dst) (a : Src) (b : Src)
  /-- `abs.f32`, R173: Clear the sign. -/
  | absF (t : FFmt) (d : Dst) (a : Src)
  /-- `neg.f32`, R173: Invert the sign. -/
  | negF (t : FFmt) (d : Dst) (a : Src)
  /-- `csgn.f32`, R173: Copy the sign of b onto the magnitude of a. -/
  | csgn (t : FFmt) (d : Dst) (a : Src) (b : Src)
  /-- `rint.f32`, R173: Round to an integral value. -/
  | rint (t : FFmt) (d : Dst) (a : Src)
  /-- `ceq.f32`, R173: Floating-point equality into a mask. -/
  | ceqF (t : FFmt) (d : MaskNo) (a : Src) (b : Src)
  /-- `cne.f32`, R173: Floating-point inequality into a mask. -/
  | cneF (t : FFmt) (d : MaskNo) (a : Src) (b : Src)
  /-- `clt.f32`, R173: Floating-point less-than into a mask. -/
  | cltF (t : FFmt) (d : MaskNo) (a : Src) (b : Src)
  /-- `cle.f32`, R173: Floating-point less-or-equal into a mask. -/
  | cleF (t : FFmt) (d : MaskNo) (a : Src) (b : Src)
  /-- `cun.f32`, R173: Unordered test into a mask. -/
  | cun (t : FFmt) (d : MaskNo) (a : Src) (b : Src)
  /-- `rcp.f32`, R174: Correctly rounded reciprocal. -/
  | rcp (d : Dst) (a : Src)
  /-- `rsq.f32`, R174: Reciprocal square root. -/
  | rsq (d : Dst) (a : Src)
  /-- `sqrt.f32`, R174: Square root. -/
  | sqrt (d : Dst) (a : Src)
  /-- `exp2.f32`, R174: Power of two. -/
  | exp2 (d : Dst) (a : Src)
  /-- `log2.f32`, R174: Base-2 logarithm. -/
  | log2 (d : Dst) (a : Src)
  /-- `sin2pi.f32`, R174: sin(2πx). -/
  | sin2pi (d : Dst) (a : Src)
  /-- `cos2pi.f32`, R174: cos(2πx). -/
  | cos2pi (d : Dst) (a : Src)
  /-- `tanh.f32`, R174: Hyperbolic tangent. -/
  | tanh (d : Dst) (a : Src)
  /-- `sigm.f32`, R174: Logistic sigmoid. -/
  | sigm (d : Dst) (a : Src)
  /-- `cvt`, R176: Format conversion, saturating. -/
  | cvt (p : Fin 4) (d : Dst) (a : Src) (t : CvtFmt) (f : CvtFmt)
  /-- `cvto`, R176: Conversion to an 8-bit float with the overflow form. -/
  | cvto (p : Fin 4) (d : Dst) (a : Src) (t : CvtFmt) (f : CvtFmt)
  /-- `cvtt`, R176: Integer conversion, truncating. -/
  | cvtt (p : Fin 4) (d : Dst) (a : Src) (t : CvtFmt) (f : CvtFmt)
  /-- `qbx8`, R177: Quantise f32 sub-element 0 across the gang into bx8. -/
  | qbx8 (d : Dst) (a : Src)
  /-- `qbx8.h`, R177: Quantise f32 sub-element 1 into bx8. -/
  | qbx8H (d : Dst) (a : Src)
  /-- `qbx16`, R177: Quantise f32 sub-element 0 into bx16. -/
  | qbx16 (d : Dst) (a : Src)
  /-- `qbx16.h`, R177: Quantise f32 sub-element 1 into bx16. -/
  | qbx16H (d : Dst) (a : Src)
  /-- `dqbx8`, R177: Dequantise a bx8 element to f32. -/
  | dqbx8 (d : Dst) (a : Src)
  /-- `dqbx16`, R177: Dequantise a bx16 element to f32. -/
  | dqbx16 (d : Dst) (a : Src)
  /-- `amxr`, R178: Read the amax register. -/
  | amxr (d : Dst)
  /-- `amxrc`, R178: Read and clear the amax register. -/
  | amxrc (d : Dst)
  /-- `amxc`, R178: Clear the amax register. -/
  | amxc
  /-- `amxw`, R178: Write the amax register from the lowest enabled lane. -/
  | amxw (a : Src)
  /-- `shfl.tW`, R179: Shuffle by a per-element source index. -/
  | shfl (w : Width) (d : Dst) (a : Src) (b : Src)
  /-- `shfx.tW`, R179: Shuffle by XOR with an immediate. -/
  | shfx (w : Width) (d : Dst) (a : Src) (i : BitVec 8)
  /-- `shup.tW`, R179: Shuffle up by k elements. -/
  | shup (w : Width) (d : Dst) (a : Src) (i : BitVec 8)
  /-- `shdn.tW`, R179: Shuffle down by k elements. -/
  | shdn (w : Width) (d : Dst) (a : Src) (i : BitVec 8)
  /-- `ballot`, R180: Gather the active lanes' condition bits into a register. -/
  | ballot (d : Dst) (a : MaskNo)
  /-- `vany`, R180: Any-lane vote into a mask. -/
  | vany (d : MaskNo) (a : MaskNo)
  /-- `vall`, R180: All-lanes vote into a mask. -/
  | vall (d : MaskNo) (a : MaskNo)
  /-- `veq`, R180: All-lanes-equal vote into a mask. -/
  | veq (d : MaskNo) (a : Src)
  /-- `nact`, R180: Count the active lanes. -/
  | nact (d : Dst)
  /-- `lfirst`, R180: The lowest active lane number. -/
  | lfirst (d : Dst)
  /-- `gadd.f32`, R181: Gang tree sum of f32. -/
  | gaddF32 (d : Dst) (a : Src)
  /-- `gmax.f32`, R181: Gang tree maximum of f32. -/
  | gmaxF32 (d : Dst) (a : Src)
  /-- `gmin.f32`, R181: Gang tree minimum of f32. -/
  | gminF32 (d : Dst) (a : Src)
  /-- `gamax.f32`, R181: Gang tree absolute maximum of f32. -/
  | gamaxF32 (d : Dst) (a : Src)
  /-- `gadd.i32`, R181: Gang tree sum of i32. -/
  | gaddI32 (d : Dst) (a : Src)
  /-- `gadd.i64`, R181: Gang tree sum of i64. -/
  | gaddI64 (d : Dst) (a : Src)
  /-- `mand`, R182: Mask AND. -/
  | mand (d : MaskNo) (a : MaskNo) (b : MaskNo)
  /-- `mor`, R182: Mask OR. -/
  | mor (d : MaskNo) (a : MaskNo) (b : MaskNo)
  /-- `mxor`, R182: Mask XOR. -/
  | mxor (d : MaskNo) (a : MaskNo) (b : MaskNo)
  /-- `mandn`, R182: Mask AND-NOT. -/
  | mandn (d : MaskNo) (a : MaskNo) (b : MaskNo)
  /-- `mnot`, R182: Mask NOT. -/
  | mnot (d : MaskNo) (a : MaskNo)
  /-- `mmov`, R182: Mask move. -/
  | mmov (d : MaskNo) (a : MaskNo)
  /-- `mone`, R182: Set the active lanes' mask bits to ones. -/
  | mone (d : MaskNo)
  /-- `mzero`, R182: Set the active lanes' mask bits to zeros. -/
  | mzero (d : MaskNo)
  /-- `mget`, R182: Read a lane's mask bits into a register. -/
  | mget (d : Dst) (a : MaskNo)
  /-- `mlet`, R182: Write a lane's mask bits from a register. -/
  | mlet (d : MaskNo) (a : Src)
  /-- `qry`, R19: Query a selector given by an immediate. -/
  | qry (d : Dst) (s : BitVec 8)
  /-- `qry.x`, R19: Query a selector taken from each lane's register. -/
  | qryX (d : Dst) (a : Src)
  /-- `winb`, R68: Set the window base. -/
  | winb (i : BitVec 8)
  /-- `winb.rel`, R68: Move the window base relatively. -/
  | winbRel (i : BitVec 8)
  /-- `xset`, R68: Set an index register. -/
  | xset (n : Fin 4) (a : Src) (i : BitVec 8)
  /-- `xget`, R68: Read an index register. -/
  | xget (d : Dst) (n : Fin 4)
  /-- `ld.nW`, R189: Virtual load, zero-extending. -/
  | ldN (w : Width) (d : Dst) (a : Src) (i : BitVec 8)
  /-- `ld.iW`, R189: Virtual load, sign-extending. -/
  | ldI (w : Width) (d : Dst) (a : Src) (i : BitVec 8)
  /-- `st.tW`, R189: Virtual store, staged in deterministic mode. -/
  | st (w : Width) (d : Src) (a : Src) (i : BitVec 8)
  /-- `lds.nW`, R189: Scratchpad load, zero-extending. -/
  | ldsN (w : Width) (d : Dst) (a : Src) (i : BitVec 8)
  /-- `lds.iW`, R189: Scratchpad load, sign-extending. -/
  | ldsI (w : Width) (d : Dst) (a : Src) (i : BitVec 8)
  /-- `sts.tW`, R189: Scratchpad store. -/
  | sts (w : Width) (d : Src) (a : Src) (i : BitVec 8)
  /-- `lda`, R190: Acquire load at a scope. -/
  | lda (w : Width) (sc : Scope) (d : Dst) (a : Src)
  /-- `stl`, R190: Release store at a scope. -/
  | stl (w : Width) (sc : Scope) (a : Src) (b : Src)
  /-- `ldk`, R191: Read a uniform-table word by an immediate index. -/
  | ldk (d : Dst) (i : BitVec 8)
  /-- `ldk.x`, R191: Read a uniform-table word by a register index. -/
  | ldkX (d : Dst) (a : Src)
  /-- `ldg.add.f32`, R192: Group load of the f32 sum across the ensemble. -/
  | ldgAddF32 (d : Dst) (a : Src)
  /-- `ldg.add.i32`, R192: Group load of the i32 sum. -/
  | ldgAddI32 (d : Dst) (a : Src)
  /-- `ldg.add.i64`, R192: Group load of the i64 sum. -/
  | ldgAddI64 (d : Dst) (a : Src)
  /-- `ldg.max.f32`, R192: Group load of the f32 maximum. -/
  | ldgMaxF32 (d : Dst) (a : Src)
  /-- `ldg.min.f32`, R192: Group load of the f32 minimum. -/
  | ldgMinF32 (d : Dst) (a : Src)
  /-- `ldg.amax.f32`, R192: Group load of the f32 absolute maximum. -/
  | ldgAmaxF32 (d : Dst) (a : Src)
  /-- `rpld`, R193: Load residue blocks from the plane layout into the residue scratchpad. -/
  | rpld (d : Src) (a : Src) (n : BitVec 8)
  /-- `rpst`, R193: Store residue blocks to the plane layout. -/
  | rpst (d : Src) (a : Src) (n : BitVec 8)
  /-- `rpst.add`, R194: Stage a residue-plane reduce-store in the commit stage. -/
  | rpstAdd (d : Src) (a : Src) (n : BitVec 8)
  /-- `aadd`, R195: Atomic add. -/
  | aadd (wide : Bool) (sem : ASem) (d : Dst) (a : Src) (b : Src)
  /-- `aand`, R195: Atomic AND. -/
  | aand (wide : Bool) (sem : ASem) (d : Dst) (a : Src) (b : Src)
  /-- `aor`, R195: Atomic OR. -/
  | aor (wide : Bool) (sem : ASem) (d : Dst) (a : Src) (b : Src)
  /-- `axor`, R195: Atomic XOR. -/
  | axor (wide : Bool) (sem : ASem) (d : Dst) (a : Src) (b : Src)
  /-- `axch`, R195: Atomic exchange. -/
  | axch (wide : Bool) (sem : ASem) (d : Dst) (a : Src) (b : Src)
  /-- `acas`, R195: Atomic compare-and-swap. -/
  | acas (wide : Bool) (sem : ASem) (d : Dst) (a : Src) (b : Src)
  /-- `amin.iW`, R195: Atomic signed minimum. -/
  | aminI (wide : Bool) (sem : ASem) (d : Dst) (a : Src) (b : Src)
  /-- `amax.iW`, R195: Atomic signed maximum. -/
  | amaxI (wide : Bool) (sem : ASem) (d : Dst) (a : Src) (b : Src)
  /-- `amin.nW`, R195: Atomic unsigned minimum. -/
  | aminN (wide : Bool) (sem : ASem) (d : Dst) (a : Src) (b : Src)
  /-- `amax.nW`, R195: Atomic unsigned maximum. -/
  | amaxN (wide : Bool) (sem : ASem) (d : Dst) (a : Src) (b : Src)
  /-- `aincw`, R195: Atomic wrapping increment. -/
  | aincw (wide : Bool) (sem : ASem) (d : Dst) (a : Src) (b : Src)
  /-- `adecw`, R195: Atomic wrapping decrement. -/
  | adecw (wide : Bool) (sem : ASem) (d : Dst) (a : Src) (b : Src)
  /-- `aaddb`, R196: Atomic bounded add, with success bits in m7. -/
  | aaddb (wide : Bool) (sem : ASem) (d : Dst) (a : Src) (b : Src)
  /-- `fadda.f32`, R195: Atomic f32 add, staged in deterministic mode. -/
  | fadda (sem : ASem) (d : Dst) (a : Src) (b : Src)
  /-- `amaxm.f32`, R195: Atomic f32 magnitude maximum, staged in deterministic mode. -/
  | amaxm (sem : ASem) (d : Dst) (a : Src) (b : Src)
  /-- `amaxrs.f32`, R195: Atomically read and reset an f32 maximum to +0. -/
  | amaxrs (sem : ASem) (d : Dst) (a : Src)
  /-- `fence`, R198: Memory fence of a given scope and semantics. -/
  | fence (sc : Scope) (sem : Sem)
  /-- `bar.b`, R200: Block barrier arrival and wait. -/
  | barB
  /-- `bar.e`, R200: Ensemble barrier arrival and wait. -/
  | barE
  /-- `nbar`, R201: Arrive at a named barrier. -/
  | nbar (a : Src)
  /-- `nbnew`, R201: Create a named barrier object. -/
  | nbnew (d : Dst) (a : Src)
  /-- `nbfree`, R201: Destroy a named barrier object. -/
  | nbfree (a : Src)
  /-- `monw`, R202: Arm a condition at the home and wait for it. -/
  | monw (wide : Bool) (c : Cond) (d : Dst) (a : Src) (b : Src)
  /-- `secin`, R204: Enter a read section. -/
  | secin
  /-- `secout`, R204: Leave a read section. -/
  | secout
  /-- `clreq`, R204: Request a Clearing generation. -/
  | clreq (d : Dst)
  /-- `clwait`, R204: Wait for a Clearing generation. -/
  | clwait (a : Src)
  /-- `escrow`, R206: Request a generation and append entries to the Escrow ring. -/
  | escrow (a : Src) (b : Src)
  /-- `escpop`, R206: Take released Escrow entries. -/
  | escpop (d : Dst)
  /-- `dflush`, R207: Advance the gang's flush count. -/
  | dflush
  /-- `tcommit`, R208: Perform or discard the staged reduce-stores by commit number. -/
  | tcommit (a : Src)
  /-- `mxm`, R221: Accumulate a tile product into a slot. -/
  | mxm (n : Fin 8) (d : Src) (a : Src) (b : Src)
  /-- `mxclr`, R222: Clear a slot. -/
  | mxclr (n : Fin 8)
  /-- `mxdrn`, R224: Drain part of a slot into a register. -/
  | mxdrn (n : Fin 8) (d : Dst) (p : Fin 16) (o : Ofmt) (ren : Bool) (rm : RMode)
  /-- `mxdrs`, R225: Drain a whole slot to the scratchpad or to memory. -/
  | mxdrs (n : Fin 8) (d : Dst) (a : Src) (b : Src)
  /-- `mxgsum`, R226: Sum a slot across the ensemble. -/
  | mxgsum (n : Fin 8)
  /-- `enc`, R219: Encode register values into a residue tile. -/
  | enc (t : FFmt) (cls : Cls) (d : Dst) (a : Fin 96) (b : Src)
  /-- `mxfence`, R220: Operand-ready fence for scratchpad writes. -/
  | mxfence
  /-- `mxwait`, R220: Wait for the gang's earlier matrix words. -/
  | mxwait
  /-- `mxrel`, R220: Release the matrix lease. -/
  | mxrel
  /-- `asyr`, R228: Read a channel's Assay correction counter. -/
  | asyr (d : Dst) (c : Fin 8)
  /-- `cpy`, R261: Issue a copy command. -/
  | cpy (q : Fin 8) (d : Fin 93) (rel : Bool)
  /-- `cpycv`, R263: Issue a convert-copy into a residue tile. -/
  | cpycv (q : Fin 8) (d : Fin 93) (rel : Bool)
  /-- `cpyrd`, R262: Issue a reduce-copy command. -/
  | cpyrd (q : Fin 8) (d : Fin 93) (rel : Bool)
  /-- `coll`, R266: Issue a collective program command. -/
  | coll (q : Fin 8) (d : Fin 93) (rel : Bool)
  /-- `qbind`, R271: Bind or unbind a queue register to a port. -/
  | qbind (d : Dst) (a : Src) (n : Fin 4)
  /-- `qpop`, R273: Pop elements from a queue port. -/
  | qpop (d : Dst) (n : Fin 4)
  /-- `qpush`, R273: Push elements to a queue port. -/
  | qpush (a : Src) (n : Fin 4)
  /-- `qlen`, R272: Read a queue port's fill or room. -/
  | qlen (d : Dst) (n : Fin 4)
  /-- `cqstat`, R260: Read a command queue's status. -/
  | cqstat (d : Dst) (q : Fin 8)
  /-- `cqclr`, R260: Clear a command queue's failed state. -/
  | cqclr (q : Fin 8)
  /-- `tossmax`, R241: Maximum logit of a shard. -/
  | tossmax (t : FFmt) (d : Dst) (a : Src)
  /-- `tosscand`, R242: Weights and candidate list of a shard. -/
  | tosscand (t : FFmt) (d : Dst) (a : Src)
  /-- `tossmerge`, R243: Merge candidate lists, apply the cuts, and form running sums. -/
  | tossmerge (d : Dst) (a : Src)
  /-- `tossdraw`, R244: Draw a token from a merged list. -/
  | tossdraw (d : Dst) (a : Src)
  /-- `tossgen.hi`, R245: High 64 bits of the generator output per lane. -/
  | tossgenHi (d : Dst) (a : Src)
  /-- `tossgen.lo`, R245: Low 64 bits of the generator output per lane. -/
  | tossgenLo (d : Dst) (a : Src)
  /-- `csrr`, R302: Read a CSR. -/
  | csrr (d : Dst) (n : BitVec 8)
  /-- `csrw`, R302: Write a CSR. -/
  | csrw (a : Src) (n : BitVec 8)
  /-- `tret`, R312: Return from the handler to the trapping word. -/
  | tret
  /-- `tret.next`, R312: Return from the handler to the word after the trapping word. -/
  | tretNext
  /-- `tret.to`, R312: Return from the handler to a register target. -/
  | tretTo (a : Src)
  /-- Step UNASSIGNED_ENCODING_ISSUE, R65: A word whose major opcode, fn or fields no instruction entry assigns issues and raises an illegal-encoding trap. -/
  | unassignedEncodingIssue (w : BitVec 32)
  /-- Step MEMORY_OPERATION_COMPLETE, R185: A memory or engine operation completes, writes its destination, and decrements flag A of its clause instance. -/
  | memoryOperationComplete (core gang op : Nat)
  /-- Step SPECIAL_FUNCTION_COMPLETE, R156: The result of a special function is written to its register, and flag B decrements. -/
  | specialFunctionComplete (core gang op : Nat)
  /-- Step MXM_ACCUMULATE, R221: The arrays accumulate the K-steps of an mxm into the slot in every channel in service, and flag B then decrements. -/
  | mxmAccumulate (core gang slot : Nat)
  /-- Step ENC_WRITE_COMPLETE, R219: The residues and scale vector written by an enc are performed, and its flag B decrements. -/
  | encWriteComplete (core gang op : Nat)
  /-- Step DRAIN_DECISION, R223: The Mint reads the drained elements and decides them, then traps or scales, rounds, updates the Assay and releases the held lanes. -/
  | drainDecision (core gang op : Nat)
  /-- Step DRAIN_WRITE_COMPLETE, R223: Every result of a drain has been written or staged, and flag B decrements. -/
  | drainWriteComplete (core gang op : Nat)
  /-- Step MXGSUM_SUM, R227: Once every partner has arrived and every slot has completed, the participants are checked for scale and their slots receive the per-channel sum. -/
  | mxgsumSum (core gang slot : Nat)
  /-- Step TOSS_WORD_COMPLETE, R234: The Toss unit finishes a word, writes its outputs, and releases the held lanes with the result. -/
  | tossWordComplete (tower : Nat)
  /-- Step BLOCK_EXIT, R46: A block exits once all its gangs have exited and its memory, matrix and special-function operations have completed, and its state is released. -/
  | blockExit (core : Nat)
  /-- Step LAUNCH_SUBMISSION, R329: Dispatch reads a launch-queue entry in ring order; this is the launch's submission, and the checks of R27 are made on it. -/
  | launchSubmission (part : Fin 16) (prio : Fin 8) (asid : BitVec 16) (smode : Bool)
  /-- Step LAUNCH_DEQUEUE, R28: Once its semaphore is satisfied, dispatch reads the bound and uniform words of a launch, fixes its grid, and finishes a zero grid at once. -/
  | launchDequeue (lid : Nat)
  /-- Step ENSEMBLE_START, R31: Once every present member has a core, all members of an ensemble start together with their initial state. -/
  | ensembleStart (core : Nat)
  /-- Step LEASE_GRANT, R45: The matrix lease is granted to the gang whose request is oldest. -/
  | leaseGrant (core : Nat)
  /-- Step LEASE_PASS, R45: After 64 mxm operations the lease passes to a waiting gang, or its count restarts. -/
  | leasePass (core : Nat)
  /-- Step MONW_SATISFIED, R202: The armed condition of a monw holds at the home, and the lane continues with the satisfying value. -/
  | monwSatisfied (core gang lane : Nat)
  /-- Step QUEUE_WAIT_RELEASE, R273: A held qpop or qpush proceeds once its port holds an element or has room. -/
  | queueWaitRelease (core gang lane : Nat)
  /-- Step TELLER_FLUSH_APPLY, R150: Once its predecessors have been applied, the Teller performs the staged entries of a closed flush in gang, lane and program order. -/
  | tellerFlushApply (core : Nat)
  /-- Step REMOTE_UPDATE_APPLY, R141: A tower applies a remote line update to its L2 copy once its vector clock allows. -/
  | remoteUpdateApply (src dst : Nat) (clock : List Nat)
  /-- Step QUANTUM_EXPIRY, R335: A block has been resident for 2^20 counts of its core, and its ensemble becomes eligible for a save. -/
  | quantumExpiry (core : Nat)
  /-- Step YIELD_SUPPRESSION_END, R336: Eight cycles after a yield, the gang is again granted issue on equal terms. -/
  | yieldSuppressionEnd (core gang : Nat)
  /-- Step BIND_START, R333: Plovaeben writes the start code to a bind record. -/
  | bindStart (core : Nat) (b : BindFields)
  /-- Step BIND_RESUME, R333: Plovaeben writes the resume code to a bind record. -/
  | bindResume (core : Nat) (b : BindFields)
  /-- Step BIND_SAVE, R333: Plovaeben writes the save code to a bind record, which requests a context save. -/
  | bindSave (core : Nat)
  /-- Step CONTEXT_SAVE_COMPLETE, R313: Once the block's operations have quiesced and every ensemble member is ready, the save area is written and the record reads saved. -/
  | contextSaveComplete (core : Nat)
  /-- Step BIND_KILL, R333: Plovaeben writes the kill code to a bind record. -/
  | bindKill (core : Nat)
  /-- Step BIND_IDLE, R333: Plovaeben writes idle to a saved, exited or killed bind record, which frees the core. -/
  | bindIdle (core : Nat)
  /-- Step COMMAND_START, R253: A copy engine starts an accepted command in its queue order and checks it. -/
  | commandStart (cmd : Nat)
  /-- Step COMMAND_COMPLETE, R257: A command finishes, and its completion object receives its single update. -/
  | commandComplete (cmd : Nat)
  /-- Step COLL_SEND, R269: A collective send step increments its own ready counter with release. -/
  | collSend (cmd : Nat)
  /-- Step COLL_RECV, R269: A recv step waits for the peer's ready counter, copies the piece, and signals done. -/
  | collRecv (cmd : Nat)
  /-- Step COLL_RR, R269: A receive-reduce step waits for the peer's piece, reduces it into the local buffer, and signals done. -/
  | collRr (cmd : Nat)
  /-- Step COLL_RRS, R269: A receive-reduce-send step reduces the peer's piece, signals done, and signals its own piece ready. -/
  | collRrs (cmd : Nat)
  /-- Step COLL_COPY, R269: A copy step copies between local buffers. -/
  | collCopy (cmd : Nat)
  /-- Step COLL_WAIT, R269: A wait step waits until the done counter of a tag reaches the number of sends on it. -/
  | collWait (cmd : Nat)
  /-- Step COLL_LOOP, R269: A loop step opens a loop level with its trip count. -/
  | collLoop (cmd : Nat)
  /-- Step COLL_NEXT, R269: A next step advances the innermost loop counter, then loops back or closes the level. -/
  | collNext (cmd : Nat)
  /-- Step COLL_END, R269: An end step waits for every send to be consumed, zeroes its own counters, and updates the completion object. -/
  | collEnd (cmd : Nat)
  /-- Step INTAKE_MESSAGE_START, R276: The intake engine takes a pushed message descriptor, checks it, and begins decoding. -/
  | intakeMessageStart (tower stream : Nat)
  /-- Step CHUNK_DECODE_COMPLETE, R277: A decoder lane finishes a chunk, and the reorder buffer commits the chunks in index order. -/
  | chunkDecodeComplete (tower stream : Nat)
  /-- Step INTAKE_MESSAGE_END, R280: The engine writes the message's text and status, and pushes its end marker after its tokens. -/
  | intakeMessageEnd (tower stream : Nat)
  /-- Step MESSAGE_QUARANTINE, R282: A message that meets a fault is abandoned, and its status and quarantine element are written. -/
  | messageQuarantine (tower stream : Nat)
  /-- Step FBDONE_RETRY, R350: A write to FBDONE with action 0 frees a fault record and makes its requesters walk again. -/
  | fbdoneRetry (tower entry : Nat)
  /-- Step FBDONE_FAIL, R350: A write to FBDONE with action 1 frees a fault record and fails its requesters as permission failures. -/
  | fbdoneFail (tower entry : Nat)
  /-- Step REPLAY, R352: A write to REPLAY frees every fault record and entry, clears the dropped flag, and makes every requester walk again. -/
  | replay (tower : Nat)
  /-- Step TLBINV_ALL, R347: A write to TLBINV with scope 0 invalidates the entries of every context on every tower. -/
  | tlbinvAll
  /-- Step TLBINV_ASID, R347: A write to TLBINV with scope 1 invalidates the entries of one asid. -/
  | tlbinvAsid (asid : BitVec 16)
  /-- Step TLBINV_PAGE, R347: A write to TLBINV with scope 2 invalidates every entry that translates one 64 KiB page of one asid. -/
  | tlbinvPage (asid : BitVec 16) (page : BitVec 40)
  /-- Step INVALIDATION_COMPLETE, R347: Once no access uses a removed entry and the accesses translated with one have been performed, INVSTAT[0] clears. -/
  | invalidationComplete
  /-- Step H2DTAIL_WRITE, R358: A host write to H2DTAIL makes the device read and perform the ring entries up to the tail. -/
  | h2dtailWrite (v : Word)
  /-- Step SUBMIT_LAUNCH, R360: Host message kind 0x01 appends an entry to a launch queue. -/
  | submitLaunch
  /-- Step ABORT_LAUNCH, R360: Host message kind 0x02 kills or cancels the launch that names a given fate record. -/
  | abortLaunch
  /-- Step RETIREMENT_REQUEST, R360: Host message kind 0x03 requests the retirement of a channel of a tower. -/
  | retirementRequest
  /-- Step ELEVATOR_REMAP_REQUEST, R360: Host message kind 0x04 requests an elevator remap for a core. -/
  | elevatorRemapRequest
  /-- Step ASSAY_READ, R360: Host message kind 0x05 returns a tower's Assay registers in its response. -/
  | assayRead
  /-- Step PARTITION_CONFIG, R373: Host message kind 0x06 creates, reconfigures or destroys a partition. -/
  | partitionConfig (escBase : Nat) (queueBases : List Nat)
  /-- Step ATTESTATION_REQUEST, R376: Host message kind 0x07 advances the signature index and writes a signed attestation report. -/
  | attestationRequest
  /-- Step FIRMWARE_UPDATE, R375: Host message kind 0x08 verifies an image and writes it to the inactive bank. -/
  | firmwareUpdate
  /-- Step NEW_BRINGUP, R372: Host message kind 0x09 clears every bring-up record and starts a new bring-up. -/
  | newBringup
  /-- Step D2HBASE_WRITE, R359: A write to D2HBASE makes the device write again every unacknowledged entry into the new ring. -/
  | d2hbaseWrite (v : Word)
  /-- Step MODULE_RESET, R359: A module reset or power-on changes EPOCH, zeroes the ring counters, and starts bring-up on every tower. -/
  | moduleReset
  /-- Step BRINGUP_STAGE_COMPLETE, R370: A tower passes or fails a bring-up stage; on failure it records the stage and restarts with the next variant. -/
  | bringupStageComplete (tower : Nat) (passed : Bool) (detail : BitVec 16)
  /-- Step SERVICE_CLOCK_RISE, R371: At the first instant at which no block of the service tower runs, its clock rises to 3.0 GHz and STATUS[1] clears. -/
  | serviceClockRise
  /-- Step HOST_APERTURE_READ, R356: A host read through BAR2 is performed at the home of its physical address. -/
  | hostApertureRead (off n : Nat)
  /-- Step HOST_APERTURE_WRITE, R356: A host posted write through BAR2 is performed at its home in arrival order. -/
  | hostApertureWrite (off : Nat) (bytes : List Byte)
  /-- Step HOST_ATOMICOP_REJECT, R356: An AtomicOp that targets the module is rejected with Unsupported Request. -/
  | hostAtomicopReject
  /-- Step PEER_REQUEST, R361: An incoming UALink read, write, atomic or message from a peer module is performed here. -/
  | peerRequest (r : PeerReq)
  /-- Step PEER_TRANSACTION_TIMEOUT, R362: A peer transaction with no completion after 2^24 fabric cycles fails, as a trap, a command failure or a logged store failure. -/
  | peerTransactionTimeout (t : PeerTx)
  /-- Step PEER_ERROR_RESPONSE, R362: A peer transaction that returns an error fails, as for a timeout. -/
  | peerErrorResponse (t : PeerTx)
  /-- Step FLIT_CRC_RETRY, R364: A flit that fails its CRC is retried by the link layer, exactly once and in order. -/
  | flitCrcRetry (tower : Nat)
  /-- Step LANE_REPAIR, R363: Failed UCIe lanes are replaced by redundant lanes, or the link drops to half width; the event is logged as kind 6. -/
  | laneRepair (tower peer : Nat)
  /-- Step LINK_DOWN, R363: A link that cannot train at half width sets STATUS[2] and kills every live launch. -/
  | linkDown (tower peer : Nat)
  /-- Step ASYCNT_CLEAR, R365: A write to ASYCNTc clears the correction counter of channel c. -/
  | asycntClear (tower channel : Nat)
  /-- Step CONTAIN_RETIRE_REQUEST, R366: A write to CONTAIN with bit 8 set records a pending retirement of a channel. -/
  | containRetireRequest (tower : Nat) (v : Word)
  /-- Step CHANNEL_RETIREMENT, R366: At the first instant at which no block runs on the tower, the pending channel is retired. -/
  | channelRetirement (tower : Nat)
  /-- Step ELVMAP_WRITE, R369: A write to ELVMAP on an idle core remaps an elevator group to the spare; otherwise it is ignored. -/
  | elvmapWrite (core : Nat) (v : Word)
  /-- Step ELEVATOR_GROUP_ERROR, R367: After 16 consecutive parity failures, the transfer completes with the data as received and a kind 8 event is logged. -/
  | elevatorGroupError (core group gang : Nat) (lift : Lift) (op beat : Nat) (received : List Byte)
  /-- Step DUTY_TICK, R378: Each millisecond, a tower's duty falls or rises by one sixteenth according to power and junction temperature. -/
  | dutyTick (power : BitVec 16) (tj : List Byte)
  /-- Step THRCNT_CLEAR, R377: A write to THRCNT clears it. -/
  | thrcntClear
  /-- Step THERMAL_TRIP, R379: A junction at 110 °C or above sets STATUS[2], kills every launch, stops the clocks, and logs kind 10. -/
  | thermalTrip (tower : Nat)
  /-- Step REGISTER_WRITE, R6: A write to a management, mailbox or CSR register that has no row of its own sets its writable fields. -/
  | registerWrite (r : MgmtReg) (v : Word)
  /-- Step SOFT_ERROR, R126: A stored bit changes of itself: a residue on a channel die, or an HBM4E, L2 or scratchpad granule that becomes corrected or uncorrectable. -/
  | softError (u : Upset)
  /-- Step D2HACK_WRITE, R358: A host write to D2HACK lets the device write device-to-host entries that were held because s − D2HACK exceeded 2^size. -/
  | d2hackWrite (v : Word)
  /-- Step INTAKE_PIECE_TOKENISED, R279: The tokeniser finishes a piece and pushes its token ids into the stream's output port, or stalls when the port is full. -/
  | intakePieceTokenised (tower stream : Nat)
  /-- Step MANAGEMENT_CORE_STORE, R351: A store by the management core is performed in package memory, such as a page-table entry, a context entry or an edit to a save area. -/
  | managementCoreStore (addr : Nat) (bytes : List Byte)
  deriving DecidableEq, Repr

end Sys2Proof
end

