-- ==== Sys2Proof/WellFormed.lean ====
section
/-! DEFINITION. The checks on an instruction's operands that its type does not make: values that raise an
illegal-encoding trap by the instruction's own entry (R19, R167, R176, R179, R189, R224, R302). -/
namespace Sys2Proof

/-- The width of a conversion format (R175). -/
def CvtFmt.bits : CvtFmt → Nat
  | .i8 | .n8 | .e4m3 | .e5m2 => 8
  | .i16 | .n16 | .bf16 => 16
  | .i32 | .n32 | .f32 => 32
  | .i64 | .n64 => 64

/-- A conversion format is an integer format (R175). -/
def CvtFmt.isInt : CvtFmt → Bool
  | .i8 | .n8 | .i16 | .n16 | .i32 | .n32 | .i64 | .n64 => true
  | .f32 | .bf16 | .e4m3 | .e5m2 => false

/-- The part limit of a conversion (R176). -/
def cvtPartOk (p : Fin 4) (t f : CvtFmt) : Bool :=
  if f.bits > t.bits then decide (p.val < f.bits / t.bits)
  else if f.bits < t.bits then decide (p.val < t.bits / f.bits)
  else decide (p.val = 0)

/-- A source of a shuffle: not an indirect operand (R179). -/
def Src.notIx : Src → Bool
  | .ix _ => false
  | _ => true

/-- The CSR numbers R304 assigns. -/
def csrAssigned (n : Nat) : Bool := decide (n ≤ 0x07) || (decide (0x40 ≤ n) && decide (n ≤ 0x46))

/-- The CSRs a `csrw` may name: TKEEP0 and TKEEP1 (R302, R304). -/
def csrWritable (n : Nat) : Bool := n == 0x06 || n == 0x07

/-- The elements per lane of a register drain format (R224). -/
def Ofmt.elems : Ofmt → Nat
  | .f32 => 2 | .bf16 => 4 | .e4m3 => 8 | .e5m2 => 8

/-- The operand values an instruction's own entry admits. -/
def Instr.wf : Instr → Bool
  | .shli w _ _ i | .shriN w _ _ i | .shriI w _ _ i | .rori w _ _ i => decide (i.toNat < w.bits)
  | .ldI w _ _ _ | .ldsI w _ _ _ => decide (w ≠ .b64)
  | .cvt p _ _ t f => decide (t ≠ f) && cvtPartOk p t f
  | .cvto p _ _ t f =>
    decide (t ≠ f) && (decide (t = .e4m3) || decide (t = .e5m2)) && !f.isInt && cvtPartOk p t f
  | .cvtt p _ _ t f => decide (t ≠ f) && t.isInt && f.isInt && cvtPartOk p t f
  | .shfl _ _ a _ => a.notIx
  | .shfx w _ a i => a.notIx && decide (i.toNat < 32 * w.elems)
  | .shup _ _ a _ | .shdn _ _ a _ => a.notIx
  | .mxdrn _ _ p o ren rm => decide (p.val < 32 / o.elems) && (ren || decide (rm = .rne))
  | .csrr _ n => csrAssigned n.toNat
  | .csrw _ n => csrWritable n.toNat
  | .qry _ s => decide (s.toNat ≤ 0x1C)
  | _ => true

end Sys2Proof
end

