-- ==== Sys2Proof/Decode.lean ====
section
/-! DEFINITION. The decoder of instruction words, clause headers and prefix words, and after it the encoder, both
written from the encoding tables of 03_encoding.md (R53, R56, R59, R61) and of each instruction's entry.
A word is a natural number below 2^32. -/
namespace Sys2Proof

/-- Why a word is no instruction; every one of them is the illegal-encoding trap (R53, R65). -/
inductive Reject
  | unassignedOpcode | unassignedFn | reservedField | badRegister | readOnlyDestination | badFieldValue
  deriving DecidableEq, Repr

/-- Major opcode, bits [31:24] (R56). -/
def opOf (w : Nat) : Nat := w / 2 ^ 24 % 256
/-- R-form fn, bits [23:21]. -/
def rFn (w : Nat) : Nat := w / 2 ^ 21 % 8
/-- R-form d, bits [20:14]. -/
def rD (w : Nat) : Nat := w / 2 ^ 14 % 128
/-- R-form a, bits [13:7]. -/
def rA (w : Nat) : Nat := w / 2 ^ 7 % 128
/-- R-form b, bits [6:0]. -/
def rB (w : Nat) : Nat := w % 128
/-- I-form fn, bits [23:22]. -/
def iFn (w : Nat) : Nat := w / 2 ^ 22 % 4
/-- I-form d, bits [21:15]. -/
def iD (w : Nat) : Nat := w / 2 ^ 15 % 128
/-- I-form a, bits [14:8]. -/
def iA (w : Nat) : Nat := w / 2 ^ 8 % 128
/-- I-form imm8, bits [7:0]. -/
def iImm (w : Nat) : Nat := w % 256
/-- B-form invert, bit 20. -/
def bInv (w : Nat) : Nat := w / 2 ^ 20 % 2
/-- B-form rejoin, bits [19:16]. -/
def bRej (w : Nat) : Nat := w / 2 ^ 16 % 16
/-- B-form displacement, bits [15:0]. -/
def bDisp (w : Nat) : Nat := w % 2 ^ 16
/-- The displacement of a loop word, bits [14:0] (R163). -/
def lDisp (w : Nat) : Nat := w % 2 ^ 15

/-- A field marked 0 or reserved must be zero (R6, R155). -/
def zeroField (n : Nat) : Except Reject Unit := if n = 0 then .ok () else .error .reservedField

/-- A source register field (R53). -/
def srcField (n : Nat) : Except Reject Src :=
  if h : n < 96 then .ok (.v ⟨n, h⟩)
  else if h : n - 96 < 24 then .ok (.k ⟨n - 96, h⟩)
  else if n = 120 then .ok .z
  else if n = 121 then .ok .lid
  else if n = 122 then .ok .gnid
  else if n = 123 then .error .badRegister
  else if h : n - 124 < 4 then .ok (.ix ⟨n - 124, h⟩)
  else .error .badRegister

/-- A destination register field (R53). -/
def dstField (n : Nat) : Except Reject Dst :=
  if h : n < 96 then .ok (.v ⟨n, h⟩)
  else if n = 120 then .ok .z
  else if n < 123 then .error .readOnlyDestination
  else if n = 123 then .error .badRegister
  else if h : n - 124 < 4 then .ok (.ix ⟨n - 124, h⟩)
  else .error .badRegister

/-- A field below 8: a mask, rejoin mask, slot, queue or channel number (R53). -/
def fin8Field (n : Nat) : Except Reject (Fin 8) := if h : n < 8 then .ok ⟨n, h⟩ else .error .badFieldValue
/-- A field that names a mask register (R169, R180). -/
def maskField (n : Nat) : Except Reject MaskNo := fin8Field n
/-- A field that names a rejoin mask (R164). -/
def jField (n : Nat) : Except Reject JNo := fin8Field n
/-- A field below 4: an index register, a queue register, a scale or a part. -/
def fin4Field (n : Nat) : Except Reject (Fin 4) := if h : n < 4 then .ok ⟨n, h⟩ else .error .badFieldValue
/-- A field that must name a window register (R219). -/
def vField (n : Nat) : Except Reject (Fin 96) := if h : n < 96 then .ok ⟨n, h⟩ else .error .badFieldValue
/-- The base of a register group of four window registers (R254). -/
def groupField (n : Nat) : Except Reject (Fin 93) := if h : n < 93 then .ok ⟨n, h⟩ else .error .badFieldValue
/-- A mask number from three bits. -/
def maskOf (n : Nat) : MaskNo := ⟨n % 8, Nat.mod_lt _ (by decide)⟩
/-- A number below 16 from four bits. -/
def fin16Of (n : Nat) : Fin 16 := ⟨n % 16, Nat.mod_lt _ (by decide)⟩

/-- The B-form rejoin field: 0 to 7, or 0xF for none (R56). -/
def rejoinField (n : Nat) : Except Reject (Option JNo) :=
  if h : n < 8 then .ok (some ⟨n, h⟩) else if n = 15 then .ok none else .error .badFieldValue

/-- The width code of R165. -/
def widthOf (n : Nat) : Width := match n with | 0 => .b8 | 1 => .b16 | 2 => .b32 | _ => .b64
/-- The width code as an R-form fn, where 4 to 7 are not assigned (R179), or an I-form fn. -/
def widthField (n : Nat) : Except Reject Width := if n < 4 then .ok (widthOf n) else .error .unassignedFn
/-- The format bit of R173: even opcode f32, odd bf16. -/
def fmtOf (n : Nat) : FFmt := match n with | 0 => .f32 | _ => .bf16
/-- The format as an R-form fn (R233). -/
def fmtField (n : Nat) : Except Reject FFmt := if n < 2 then .ok (fmtOf n) else .error .unassignedFn
/-- The semantics of an atomic (R195). -/
def asemOf (n : Nat) : ASem := match n with | 0 => .plain | 1 => .acq | 2 => .rel | _ => .ar
/-- A scope code (R188). -/
def scopeField (n : Nat) : Except Reject Scope :=
  match n with
  | 0 => .ok .gang | 1 => .ok .block | 2 => .ok .ens | 3 => .ok .tower | 4 => .ok .dev | 5 => .ok .dom
  | _ => .error .unassignedFn
/-- The semantics field of a fence (R198). -/
def semField (n : Nat) : Except Reject Sem :=
  match n with | 0 => .ok .acq | 1 => .ok .rel | 2 => .ok .ar | 3 => .ok .sc | _ => .error .badFieldValue
/-- The condition of a monitor (R202). -/
def condField (n : Nat) : Except Reject Cond :=
  match n with
  | 0 => .ok .eq | 1 => .ok .ne | 2 => .ok .ltI | 3 => .ok .geI | 4 => .ok .ltN | 5 => .ok .geN
  | _ => .error .unassignedFn
/-- A conversion format code (R175). -/
def cvtField (n : Nat) : Except Reject CvtFmt :=
  match n with
  | 0 => .ok .i8 | 1 => .ok .n8 | 2 => .ok .i16 | 3 => .ok .n16 | 4 => .ok .i32 | 5 => .ok .n32
  | 6 => .ok .i64 | 7 => .ok .n64 | 8 => .ok .f32 | 9 => .ok .bf16 | 10 => .ok .e4m3 | 11 => .ok .e5m2
  | _ => .error .badFieldValue
/-- A rounding mode (R10, R61). -/
def rmodeField (n : Nat) : Except Reject RMode :=
  match n with | 0 => .ok .rne | 1 => .ok .rz | 2 => .ok .rd | 3 => .ok .ru | _ => .error .badFieldValue
/-- An element class code of `enc` (R219). -/
def clsField (n : Nat) : Except Reject Cls :=
  match n with | 0 => .ok .i8 | 1 => .ok .i16 | 2 => .ok .n8 | 3 => .ok .i4 | _ => .error .badFieldValue
/-- An output format of `mxdrn` (R224). -/
def ofmtField (n : Nat) : Except Reject Ofmt :=
  match n with | 0 => .ok .f32 | 1 => .ok .bf16 | 2 => .ok .e4m3 | 3 => .ok .e5m2 | _ => .error .badFieldValue

/-- Major opcodes 0x0 to 0xf: control flow (R159 to R163). -/
def decodeControl (w : Nat) : Except Reject Instr :=
  match opOf w with
  | 0x1 => do let j ← rejoinField (bRej w); pure (.br (maskOf (rFn w)) (decide (bInv w = 1)) j (BitVec.ofNat 16 (bDisp w)))
  | 0x2 => do zeroField (rFn w); zeroField (bInv w); let j ← rejoinField (bRej w); pure (.jmp j (BitVec.ofNat 16 (bDisp w)))
  | 0x3 => do zeroField (rFn w); zeroField (bInv w); let j ← rejoinField (bRej w); pure (.call j (BitVec.ofNat 16 (bDisp w)))
  | 0x4 =>
    match rFn w with
    | 0 => do zeroField (rD w); let a ← srcField (rA w); zeroField (rB w); pure (.jr a)
    | 1 => do zeroField (rD w); let a ← srcField (rA w); zeroField (rB w); pure (.calr a)
    | 2 => do zeroField (rD w); zeroField (rA w); zeroField (rB w); pure (.ret)
    | _ => .error .unassignedFn
  | 0x6 =>
    match iFn w with
    | 0 => do let c ← dstField (iD w); pure (.loopt c (BitVec.ofNat 15 (lDisp w)))
    | 1 => do let c ← srcField (iD w); pure (.looptB c (BitVec.ofNat 15 (lDisp w)))
    | _ => .error .unassignedFn
  | 0x8 =>
    match rFn w with
    | 0 => do zeroField (rD w); zeroField (rA w); zeroField (rB w); pure (.exit)
    | 1 => do zeroField (rD w); zeroField (rA w); zeroField (rB w); pure (.nop)
    | 2 => do zeroField (rD w); zeroField (rA w); zeroField (rB w); pure (.yield)
    | _ => .error .unassignedFn
  | 0x9 =>
    match iFn w with
    | 0 => do zeroField (iD w); zeroField (iA w); pure (.trap (BitVec.ofNat 8 (iImm w)))
    | 1 => do zeroField (iD w); zeroField (iA w); pure (.brk (BitVec.ofNat 8 (iImm w)))
    | _ => .error .unassignedFn
  | _ => .error .unassignedOpcode

/-- Major opcodes 0x10 to 0x3f: integer, address and immediate words (R165 to R172). -/
def decodeInteger (w : Nat) : Except Reject Instr :=
  match opOf w with
  | 0x10 | 0x11 | 0x12 | 0x13 =>
    match rFn w with
    | 0 => do let d ← dstField (rD w); let a ← srcField (rA w); let b ← srcField (rB w); pure (.add (widthOf (opOf w % 4)) d a b)
    | 1 => do let d ← dstField (rD w); let a ← srcField (rA w); let b ← srcField (rB w); pure (.sub (widthOf (opOf w % 4)) d a b)
    | 2 => do let d ← dstField (rD w); let a ← srcField (rA w); let b ← srcField (rB w); pure (.addsI (widthOf (opOf w % 4)) d a b)
    | 3 => do let d ← dstField (rD w); let a ← srcField (rA w); let b ← srcField (rB w); pure (.addsN (widthOf (opOf w % 4)) d a b)
    | 4 => do let d ← dstField (rD w); let a ← srcField (rA w); let b ← srcField (rB w); pure (.subsI (widthOf (opOf w % 4)) d a b)
    | 5 => do let d ← dstField (rD w); let a ← srcField (rA w); let b ← srcField (rB w); pure (.subsN (widthOf (opOf w % 4)) d a b)
    | 6 => do let d ← dstField (rD w); let a ← srcField (rA w); let b ← srcField (rB w); pure (.absdI (widthOf (opOf w % 4)) d a b)
    | 7 => do let d ← dstField (rD w); let a ← srcField (rA w); let b ← srcField (rB w); pure (.absdN (widthOf (opOf w % 4)) d a b)
    | _ => .error .unassignedFn
  | 0x14 | 0x15 | 0x16 | 0x17 =>
    match rFn w with
    | 0 => do let d ← dstField (rD w); let a ← srcField (rA w); let b ← srcField (rB w); pure (.mul (widthOf (opOf w % 4)) d a b)
    | 1 => do let d ← dstField (rD w); let a ← srcField (rA w); let b ← srcField (rB w); pure (.mulhI (widthOf (opOf w % 4)) d a b)
    | 2 => do let d ← dstField (rD w); let a ← srcField (rA w); let b ← srcField (rB w); pure (.mulhN (widthOf (opOf w % 4)) d a b)
    | 3 => do let d ← dstField (rD w); let a ← srcField (rA w); let b ← srcField (rB w); pure (.mulsI (widthOf (opOf w % 4)) d a b)
    | 4 => do let d ← dstField (rD w); let a ← srcField (rA w); let b ← srcField (rB w); pure (.mad (widthOf (opOf w % 4)) d a b)
    | 5 => do let d ← dstField (rD w); let a ← srcField (rA w); let b ← srcField (rB w); pure (.mulsN (widthOf (opOf w % 4)) d a b)
    | _ => .error .unassignedFn
  | 0x18 | 0x19 | 0x1a | 0x1b =>
    match rFn w with
    | 0 => do let d ← dstField (rD w); let a ← srcField (rA w); let b ← srcField (rB w); pure (.minI (widthOf (opOf w % 4)) d a b)
    | 1 => do let d ← dstField (rD w); let a ← srcField (rA w); let b ← srcField (rB w); pure (.minN (widthOf (opOf w % 4)) d a b)
    | 2 => do let d ← dstField (rD w); let a ← srcField (rA w); let b ← srcField (rB w); pure (.maxI (widthOf (opOf w % 4)) d a b)
    | 3 => do let d ← dstField (rD w); let a ← srcField (rA w); let b ← srcField (rB w); pure (.maxN (widthOf (opOf w % 4)) d a b)
    | 4 => do let d ← dstField (rD w); let a ← srcField (rA w); zeroField (rB w); pure (.absI (widthOf (opOf w % 4)) d a)
    | 5 => do let d ← dstField (rD w); let a ← srcField (rA w); zeroField (rB w); pure (.abss (widthOf (opOf w % 4)) d a)
    | 6 => do let d ← dstField (rD w); let a ← srcField (rA w); zeroField (rB w); pure (.neg (widthOf (opOf w % 4)) d a)
    | 7 => do let d ← dstField (rD w); let a ← srcField (rA w); zeroField (rB w); pure (.negs (widthOf (opOf w % 4)) d a)
    | _ => .error .unassignedFn
  | 0x1c | 0x1d | 0x1e | 0x1f =>
    match rFn w with
    | 0 => do let d ← dstField (rD w); let a ← srcField (rA w); let b ← srcField (rB w); pure (.divI (widthOf (opOf w % 4)) d a b)
    | 1 => do let d ← dstField (rD w); let a ← srcField (rA w); let b ← srcField (rB w); pure (.divN (widthOf (opOf w % 4)) d a b)
    | 2 => do let d ← dstField (rD w); let a ← srcField (rA w); let b ← srcField (rB w); pure (.remI (widthOf (opOf w % 4)) d a b)
    | 3 => do let d ← dstField (rD w); let a ← srcField (rA w); let b ← srcField (rB w); pure (.remN (widthOf (opOf w % 4)) d a b)
    | _ => .error .unassignedFn
  | 0x20 | 0x21 | 0x22 | 0x23 =>
    match rFn w with
    | 0 => do let d ← dstField (rD w); let a ← srcField (rA w); let b ← srcField (rB w); pure (.and (widthOf (opOf w % 4)) d a b)
    | 1 => do let d ← dstField (rD w); let a ← srcField (rA w); let b ← srcField (rB w); pure (.or (widthOf (opOf w % 4)) d a b)
    | 2 => do let d ← dstField (rD w); let a ← srcField (rA w); let b ← srcField (rB w); pure (.xor (widthOf (opOf w % 4)) d a b)
    | 3 => do let d ← dstField (rD w); let a ← srcField (rA w); let b ← srcField (rB w); pure (.andn (widthOf (opOf w % 4)) d a b)
    | 4 => do let d ← dstField (rD w); let a ← srcField (rA w); let b ← srcField (rB w); pure (.orn (widthOf (opOf w % 4)) d a b)
    | 5 => do let d ← dstField (rD w); let a ← srcField (rA w); let b ← srcField (rB w); pure (.xnor (widthOf (opOf w % 4)) d a b)
    | 6 => do let d ← dstField (rD w); let a ← srcField (rA w); zeroField (rB w); pure (.not (widthOf (opOf w % 4)) d a)
    | 7 => do let d ← dstField (rD w); let a ← srcField (rA w); let b ← srcField (rB w); pure (.bsel (widthOf (opOf w % 4)) d a b)
    | _ => .error .unassignedFn
  | 0x24 | 0x25 | 0x26 | 0x27 =>
    match rFn w with
    | 0 => do let d ← dstField (rD w); let a ← srcField (rA w); let b ← srcField (rB w); pure (.shl (widthOf (opOf w % 4)) d a b)
    | 1 => do let d ← dstField (rD w); let a ← srcField (rA w); let b ← srcField (rB w); pure (.shrN (widthOf (opOf w % 4)) d a b)
    | 2 => do let d ← dstField (rD w); let a ← srcField (rA w); let b ← srcField (rB w); pure (.shrI (widthOf (opOf w % 4)) d a b)
    | 3 => do let d ← dstField (rD w); let a ← srcField (rA w); let b ← srcField (rB w); pure (.rol (widthOf (opOf w % 4)) d a b)
    | 4 => do let d ← dstField (rD w); let a ← srcField (rA w); let b ← srcField (rB w); pure (.ror (widthOf (opOf w % 4)) d a b)
    | _ => .error .unassignedFn
  | 0x28 | 0x29 | 0x2a | 0x2b =>
    match iFn w with
    | 0 => do let d ← dstField (iD w); let a ← srcField (iA w); pure (.shli (widthOf (opOf w % 4)) d a (BitVec.ofNat 8 (iImm w)))
    | 1 => do let d ← dstField (iD w); let a ← srcField (iA w); pure (.shriN (widthOf (opOf w % 4)) d a (BitVec.ofNat 8 (iImm w)))
    | 2 => do let d ← dstField (iD w); let a ← srcField (iA w); pure (.shriI (widthOf (opOf w % 4)) d a (BitVec.ofNat 8 (iImm w)))
    | 3 => do let d ← dstField (iD w); let a ← srcField (iA w); pure (.rori (widthOf (opOf w % 4)) d a (BitVec.ofNat 8 (iImm w)))
    | _ => .error .unassignedFn
  | 0x2c | 0x2d | 0x2e | 0x2f =>
    match rFn w with
    | 0 => do let d ← dstField (rD w); let a ← srcField (rA w); zeroField (rB w); pure (.popc (widthOf (opOf w % 4)) d a)
    | 1 => do let d ← dstField (rD w); let a ← srcField (rA w); zeroField (rB w); pure (.clz (widthOf (opOf w % 4)) d a)
    | 2 => do let d ← dstField (rD w); let a ← srcField (rA w); zeroField (rB w); pure (.ctz (widthOf (opOf w % 4)) d a)
    | 3 => do let d ← dstField (rD w); let a ← srcField (rA w); zeroField (rB w); pure (.brev (widthOf (opOf w % 4)) d a)
    | 4 => do let d ← dstField (rD w); let a ← srcField (rA w); let b ← srcField (rB w); pure (.bfxN (widthOf (opOf w % 4)) d a b)
    | 5 => do let d ← dstField (rD w); let a ← srcField (rA w); let b ← srcField (rB w); pure (.bfxI (widthOf (opOf w % 4)) d a b)
    | 6 => do let d ← dstField (rD w); let a ← srcField (rA w); let b ← srcField (rB w); pure (.bfi (widthOf (opOf w % 4)) d a b)
    | _ => .error .unassignedFn
  | 0x30 | 0x31 | 0x32 | 0x33 =>
    match rFn w with
    | 0 => do let d ← maskField (rD w); let a ← srcField (rA w); let b ← srcField (rB w); pure (.ceq (widthOf (opOf w % 4)) d a b)
    | 1 => do let d ← maskField (rD w); let a ← srcField (rA w); let b ← srcField (rB w); pure (.cne (widthOf (opOf w % 4)) d a b)
    | 2 => do let d ← maskField (rD w); let a ← srcField (rA w); let b ← srcField (rB w); pure (.cltI (widthOf (opOf w % 4)) d a b)
    | 3 => do let d ← maskField (rD w); let a ← srcField (rA w); let b ← srcField (rB w); pure (.cgeI (widthOf (opOf w % 4)) d a b)
    | 4 => do let d ← maskField (rD w); let a ← srcField (rA w); let b ← srcField (rB w); pure (.cltN (widthOf (opOf w % 4)) d a b)
    | 5 => do let d ← maskField (rD w); let a ← srcField (rA w); let b ← srcField (rB w); pure (.cgeN (widthOf (opOf w % 4)) d a b)
    | 6 => do let d ← maskField (rD w); let a ← srcField (rA w); let b ← srcField (rB w); pure (.ctst (widthOf (opOf w % 4)) d a b)
    | _ => .error .unassignedFn
  | 0x34 | 0x35 | 0x36 | 0x37 => do let m ← maskField (rFn w); let d ← dstField (rD w); let a ← srcField (rA w); let b ← srcField (rB w); pure (.sel (widthOf (opOf w % 4)) m d a b)
  | 0x38 | 0x39 | 0x3a | 0x3b =>
    match iFn w with
    | 0 => do let d ← dstField (iD w); let a ← srcField (iA w); pure (.addi (widthOf (opOf w % 4)) d a (BitVec.ofNat 8 (iImm w)))
    | 1 => do let d ← dstField (iD w); let a ← srcField (iA w); pure (.andi (widthOf (opOf w % 4)) d a (BitVec.ofNat 8 (iImm w)))
    | 2 => do let d ← dstField (iD w); let a ← srcField (iA w); pure (.ori (widthOf (opOf w % 4)) d a (BitVec.ofNat 8 (iImm w)))
    | 3 => do let d ← dstField (iD w); zeroField (iA w); pure (.movi (widthOf (opOf w % 4)) d (BitVec.ofNat 8 (iImm w)))
    | _ => .error .unassignedFn
  | 0x3c => do let s ← fin4Field (rFn w); let d ← dstField (rD w); let a ← srcField (rA w); let b ← srcField (rB w); pure (.lea s d a b)
  | 0x3d => do let s ← fin4Field (iFn w); let d ← dstField (iD w); let a ← srcField (iA w); pure (.leai s d a (BitVec.ofNat 8 (iImm w)))
  | 0x3f =>
    match rFn w with
    | 0 => do let d ← dstField (rD w); let a ← srcField (rA w); zeroField (rB w); pure (.mov d a)
    | _ => .error .unassignedFn
  | _ => .error .unassignedOpcode

/-- Major opcodes 0x40 to 0x6f: floating point, special functions, conversions (R173 to R178). -/
def decodeFloat (w : Nat) : Except Reject Instr :=
  match opOf w with
  | 0x40 | 0x41 =>
    match rFn w with
    | 0 => do let d ← dstField (rD w); let a ← srcField (rA w); let b ← srcField (rB w); pure (.addF (fmtOf (opOf w % 2)) d a b)
    | 1 => do let d ← dstField (rD w); let a ← srcField (rA w); let b ← srcField (rB w); pure (.subF (fmtOf (opOf w % 2)) d a b)
    | 2 => do let d ← dstField (rD w); let a ← srcField (rA w); let b ← srcField (rB w); pure (.mulF (fmtOf (opOf w % 2)) d a b)
    | 3 => do let d ← dstField (rD w); let a ← srcField (rA w); let b ← srcField (rB w); pure (.minF (fmtOf (opOf w % 2)) d a b)
    | 4 => do let d ← dstField (rD w); let a ← srcField (rA w); let b ← srcField (rB w); pure (.maxF (fmtOf (opOf w % 2)) d a b)
    | 5 => do let d ← dstField (rD w); let a ← srcField (rA w); let b ← srcField (rB w); pure (.fmaF (fmtOf (opOf w % 2)) d a b)
    | 6 => do let d ← dstField (rD w); let a ← srcField (rA w); let b ← srcField (rB w); pure (.fmsF (fmtOf (opOf w % 2)) d a b)
    | 7 => do let d ← dstField (rD w); let a ← srcField (rA w); let b ← srcField (rB w); pure (.fnmaF (fmtOf (opOf w % 2)) d a b)
    | _ => .error .unassignedFn
  | 0x42 | 0x43 =>
    match rFn w with
    | 0 => do let d ← dstField (rD w); let a ← srcField (rA w); zeroField (rB w); pure (.absF (fmtOf (opOf w % 2)) d a)
    | 1 => do let d ← dstField (rD w); let a ← srcField (rA w); zeroField (rB w); pure (.negF (fmtOf (opOf w % 2)) d a)
    | 2 => do let d ← dstField (rD w); let a ← srcField (rA w); let b ← srcField (rB w); pure (.csgn (fmtOf (opOf w % 2)) d a b)
    | 3 => do let d ← dstField (rD w); let a ← srcField (rA w); zeroField (rB w); pure (.rint (fmtOf (opOf w % 2)) d a)
    | _ => .error .unassignedFn
  | 0x44 | 0x45 =>
    match rFn w with
    | 0 => do let d ← maskField (rD w); let a ← srcField (rA w); let b ← srcField (rB w); pure (.ceqF (fmtOf (opOf w % 2)) d a b)
    | 1 => do let d ← maskField (rD w); let a ← srcField (rA w); let b ← srcField (rB w); pure (.cneF (fmtOf (opOf w % 2)) d a b)
    | 2 => do let d ← maskField (rD w); let a ← srcField (rA w); let b ← srcField (rB w); pure (.cltF (fmtOf (opOf w % 2)) d a b)
    | 3 => do let d ← maskField (rD w); let a ← srcField (rA w); let b ← srcField (rB w); pure (.cleF (fmtOf (opOf w % 2)) d a b)
    | 4 => do let d ← maskField (rD w); let a ← srcField (rA w); let b ← srcField (rB w); pure (.cun (fmtOf (opOf w % 2)) d a b)
    | _ => .error .unassignedFn
  | 0x60 =>
    match rFn w with
    | 0 => do let d ← dstField (rD w); let a ← srcField (rA w); zeroField (rB w); pure (.rcp d a)
    | 1 => do let d ← dstField (rD w); let a ← srcField (rA w); zeroField (rB w); pure (.rsq d a)
    | 2 => do let d ← dstField (rD w); let a ← srcField (rA w); zeroField (rB w); pure (.sqrt d a)
    | 3 => do let d ← dstField (rD w); let a ← srcField (rA w); zeroField (rB w); pure (.exp2 d a)
    | 4 => do let d ← dstField (rD w); let a ← srcField (rA w); zeroField (rB w); pure (.log2 d a)
    | 5 => do let d ← dstField (rD w); let a ← srcField (rA w); zeroField (rB w); pure (.sin2pi d a)
    | 6 => do let d ← dstField (rD w); let a ← srcField (rA w); zeroField (rB w); pure (.cos2pi d a)
    | 7 => do let d ← dstField (rD w); let a ← srcField (rA w); zeroField (rB w); pure (.tanh d a)
    | _ => .error .unassignedFn
  | 0x61 =>
    match rFn w with
    | 0 => do let d ← dstField (rD w); let a ← srcField (rA w); zeroField (rB w); pure (.sigm d a)
    | _ => .error .unassignedFn
  | 0x68 => do let p ← fin4Field (iFn w); let d ← dstField (iD w); let a ← srcField (iA w); let t ← cvtField (iImm w / 16); let f ← cvtField (iImm w % 16); pure (.cvt p d a t f)
  | 0x69 => do let p ← fin4Field (iFn w); let d ← dstField (iD w); let a ← srcField (iA w); let t ← cvtField (iImm w / 16); let f ← cvtField (iImm w % 16); pure (.cvto p d a t f)
  | 0x6a => do let p ← fin4Field (iFn w); let d ← dstField (iD w); let a ← srcField (iA w); let t ← cvtField (iImm w / 16); let f ← cvtField (iImm w % 16); pure (.cvtt p d a t f)
  | 0x6b =>
    match rFn w with
    | 0 => do let d ← dstField (rD w); let a ← srcField (rA w); zeroField (rB w); pure (.qbx8 d a)
    | 1 => do let d ← dstField (rD w); let a ← srcField (rA w); zeroField (rB w); pure (.qbx8H d a)
    | 2 => do let d ← dstField (rD w); let a ← srcField (rA w); zeroField (rB w); pure (.qbx16 d a)
    | 3 => do let d ← dstField (rD w); let a ← srcField (rA w); zeroField (rB w); pure (.qbx16H d a)
    | 4 => do let d ← dstField (rD w); let a ← srcField (rA w); zeroField (rB w); pure (.dqbx8 d a)
    | 5 => do let d ← dstField (rD w); let a ← srcField (rA w); zeroField (rB w); pure (.dqbx16 d a)
    | _ => .error .unassignedFn
  | 0x6c =>
    match rFn w with
    | 0 => do let d ← dstField (rD w); zeroField (rA w); zeroField (rB w); pure (.amxr d)
    | 1 => do let d ← dstField (rD w); zeroField (rA w); zeroField (rB w); pure (.amxrc d)
    | 2 => do zeroField (rD w); zeroField (rA w); zeroField (rB w); pure (.amxc)
    | 3 => do zeroField (rD w); let a ← srcField (rA w); zeroField (rB w); pure (.amxw a)
    | _ => .error .unassignedFn
  | _ => .error .unassignedOpcode

/-- Major opcodes 0x70 to 0x7f: cross-lane, mask and rejoin words (R164, R179 to R182). -/
def decodeCross (w : Nat) : Except Reject Instr :=
  match opOf w with
  | 0x70 => do let wd ← widthField (rFn w); let d ← dstField (rD w); let a ← srcField (rA w); let b ← srcField (rB w); pure (.shfl wd d a b)
  | 0x71 => do let wd ← widthField (iFn w); let d ← dstField (iD w); let a ← srcField (iA w); pure (.shfx wd d a (BitVec.ofNat 8 (iImm w)))
  | 0x72 => do let wd ← widthField (iFn w); let d ← dstField (iD w); let a ← srcField (iA w); pure (.shup wd d a (BitVec.ofNat 8 (iImm w)))
  | 0x73 => do let wd ← widthField (iFn w); let d ← dstField (iD w); let a ← srcField (iA w); pure (.shdn wd d a (BitVec.ofNat 8 (iImm w)))
  | 0x74 =>
    match rFn w with
    | 0 => do let d ← dstField (rD w); let a ← maskField (rA w); zeroField (rB w); pure (.ballot d a)
    | 1 => do let d ← maskField (rD w); let a ← maskField (rA w); zeroField (rB w); pure (.vany d a)
    | 2 => do let d ← maskField (rD w); let a ← maskField (rA w); zeroField (rB w); pure (.vall d a)
    | 3 => do let d ← maskField (rD w); let a ← srcField (rA w); zeroField (rB w); pure (.veq d a)
    | 4 => do let d ← dstField (rD w); zeroField (rA w); zeroField (rB w); pure (.nact d)
    | 5 => do let d ← dstField (rD w); zeroField (rA w); zeroField (rB w); pure (.lfirst d)
    | _ => .error .unassignedFn
  | 0x75 =>
    match rFn w with
    | 0 => do let d ← dstField (rD w); let a ← srcField (rA w); zeroField (rB w); pure (.gaddF32 d a)
    | 1 => do let d ← dstField (rD w); let a ← srcField (rA w); zeroField (rB w); pure (.gmaxF32 d a)
    | 2 => do let d ← dstField (rD w); let a ← srcField (rA w); zeroField (rB w); pure (.gminF32 d a)
    | 3 => do let d ← dstField (rD w); let a ← srcField (rA w); zeroField (rB w); pure (.gamaxF32 d a)
    | 4 => do let d ← dstField (rD w); let a ← srcField (rA w); zeroField (rB w); pure (.gaddI32 d a)
    | 5 => do let d ← dstField (rD w); let a ← srcField (rA w); zeroField (rB w); pure (.gaddI64 d a)
    | _ => .error .unassignedFn
  | 0x78 =>
    match rFn w with
    | 0 => do let d ← maskField (rD w); let a ← maskField (rA w); let b ← maskField (rB w); pure (.mand d a b)
    | 1 => do let d ← maskField (rD w); let a ← maskField (rA w); let b ← maskField (rB w); pure (.mor d a b)
    | 2 => do let d ← maskField (rD w); let a ← maskField (rA w); let b ← maskField (rB w); pure (.mxor d a b)
    | 3 => do let d ← maskField (rD w); let a ← maskField (rA w); let b ← maskField (rB w); pure (.mandn d a b)
    | 4 => do let d ← maskField (rD w); let a ← maskField (rA w); zeroField (rB w); pure (.mnot d a)
    | 5 => do let d ← maskField (rD w); let a ← maskField (rA w); zeroField (rB w); pure (.mmov d a)
    | 6 => do let d ← maskField (rD w); zeroField (rA w); zeroField (rB w); pure (.mone d)
    | 7 => do let d ← maskField (rD w); zeroField (rA w); zeroField (rB w); pure (.mzero d)
    | _ => .error .unassignedFn
  | 0x79 =>
    match rFn w with
    | 0 => do let d ← dstField (rD w); let a ← maskField (rA w); zeroField (rB w); pure (.mget d a)
    | 1 => do let d ← maskField (rD w); let a ← srcField (rA w); zeroField (rB w); pure (.mlet d a)
    | _ => .error .unassignedFn
  | 0x7c =>
    match rFn w with
    | 0 => do let n ← jField (rD w); zeroField (rA w); zeroField (rB w); pure (.split n)
    | 1 => do let n ← jField (rD w); zeroField (rA w); zeroField (rB w); pure (.join n)
    | 2 => do let n ← jField (rD w); zeroField (rA w); zeroField (rB w); pure (.waitj n)
    | 3 => do let d ← dstField (rD w); let n ← jField (rA w); zeroField (rB w); pure (.jget d n)
    | 4 => do let n ← jField (rD w); let a ← srcField (rA w); zeroField (rB w); pure (.jset n a)
    | _ => .error .unassignedFn
  | _ => .error .unassignedOpcode

/-- Major opcodes 0x80 to 0x9f: loads and stores (R189 to R193). -/
def decodeMemory (w : Nat) : Except Reject Instr :=
  match opOf w with
  | 0x80 => do let wd ← widthField (iFn w); let d ← dstField (iD w); let a ← srcField (iA w); pure (.ldN wd d a (BitVec.ofNat 8 (iImm w)))
  | 0x81 => do let wd ← widthField (iFn w); let d ← dstField (iD w); let a ← srcField (iA w); pure (.ldI wd d a (BitVec.ofNat 8 (iImm w)))
  | 0x82 => do let wd ← widthField (iFn w); let d ← srcField (iD w); let a ← srcField (iA w); pure (.st wd d a (BitVec.ofNat 8 (iImm w)))
  | 0x84 | 0x85 | 0x86 | 0x87 => do let sc ← scopeField (rFn w); let d ← dstField (rD w); let a ← srcField (rA w); zeroField (rB w); pure (.lda (widthOf (opOf w % 4)) sc d a)
  | 0x88 | 0x89 | 0x8a | 0x8b => do let sc ← scopeField (rFn w); zeroField (rD w); let a ← srcField (rA w); let b ← srcField (rB w); pure (.stl (widthOf (opOf w % 4)) sc a b)
  | 0x90 => do let wd ← widthField (iFn w); let d ← dstField (iD w); let a ← srcField (iA w); pure (.ldsN wd d a (BitVec.ofNat 8 (iImm w)))
  | 0x91 => do let wd ← widthField (iFn w); let d ← dstField (iD w); let a ← srcField (iA w); pure (.ldsI wd d a (BitVec.ofNat 8 (iImm w)))
  | 0x92 => do let wd ← widthField (iFn w); let d ← srcField (iD w); let a ← srcField (iA w); pure (.sts wd d a (BitVec.ofNat 8 (iImm w)))
  | 0x94 =>
    match rFn w with
    | 0 => do let d ← dstField (rD w); let a ← srcField (rA w); zeroField (rB w); pure (.ldgAddF32 d a)
    | 1 => do let d ← dstField (rD w); let a ← srcField (rA w); zeroField (rB w); pure (.ldgAddI32 d a)
    | 2 => do let d ← dstField (rD w); let a ← srcField (rA w); zeroField (rB w); pure (.ldgAddI64 d a)
    | 3 => do let d ← dstField (rD w); let a ← srcField (rA w); zeroField (rB w); pure (.ldgMaxF32 d a)
    | 4 => do let d ← dstField (rD w); let a ← srcField (rA w); zeroField (rB w); pure (.ldgMinF32 d a)
    | 5 => do let d ← dstField (rD w); let a ← srcField (rA w); zeroField (rB w); pure (.ldgAmaxF32 d a)
    | _ => .error .unassignedFn
  | 0x98 =>
    match iFn w with
    | 0 => do let d ← srcField (iD w); let a ← srcField (iA w); pure (.rpld d a (BitVec.ofNat 8 (iImm w)))
    | 1 => do let d ← srcField (iD w); let a ← srcField (iA w); pure (.rpst d a (BitVec.ofNat 8 (iImm w)))
    | 2 => do let d ← srcField (iD w); let a ← srcField (iA w); pure (.rpstAdd d a (BitVec.ofNat 8 (iImm w)))
    | _ => .error .unassignedFn
  | 0x9c =>
    match iFn w with
    | 0 => do let d ← dstField (iD w); zeroField (iA w); pure (.ldk d (BitVec.ofNat 8 (iImm w)))
    | 1 => do let d ← dstField (iD w); let a ← srcField (iA w); zeroField (iImm w); pure (.ldkX d a)
    | _ => .error .unassignedFn
  | _ => .error .unassignedOpcode

/-- Major opcodes 0xa0 to 0xaf: atomics (R195). -/
def decodeAtomic (w : Nat) : Except Reject Instr :=
  match opOf w with
  | 0xa0 | 0xa1 | 0xa2 | 0xa3 | 0xa4 | 0xa5 | 0xa6 | 0xa7 =>
    match rFn w with
    | 0 => do let d ← dstField (rD w); let a ← srcField (rA w); let b ← srcField (rB w); pure (.aadd (decide (opOf w / 4 % 2 = 1)) (asemOf (opOf w % 4)) d a b)
    | 1 => do let d ← dstField (rD w); let a ← srcField (rA w); let b ← srcField (rB w); pure (.aand (decide (opOf w / 4 % 2 = 1)) (asemOf (opOf w % 4)) d a b)
    | 2 => do let d ← dstField (rD w); let a ← srcField (rA w); let b ← srcField (rB w); pure (.aor (decide (opOf w / 4 % 2 = 1)) (asemOf (opOf w % 4)) d a b)
    | 3 => do let d ← dstField (rD w); let a ← srcField (rA w); let b ← srcField (rB w); pure (.axor (decide (opOf w / 4 % 2 = 1)) (asemOf (opOf w % 4)) d a b)
    | 4 => do let d ← dstField (rD w); let a ← srcField (rA w); let b ← srcField (rB w); pure (.axch (decide (opOf w / 4 % 2 = 1)) (asemOf (opOf w % 4)) d a b)
    | 5 => do let d ← dstField (rD w); let a ← srcField (rA w); let b ← srcField (rB w); pure (.acas (decide (opOf w / 4 % 2 = 1)) (asemOf (opOf w % 4)) d a b)
    | 6 => do let d ← dstField (rD w); let a ← srcField (rA w); let b ← srcField (rB w); pure (.aminI (decide (opOf w / 4 % 2 = 1)) (asemOf (opOf w % 4)) d a b)
    | 7 => do let d ← dstField (rD w); let a ← srcField (rA w); let b ← srcField (rB w); pure (.amaxI (decide (opOf w / 4 % 2 = 1)) (asemOf (opOf w % 4)) d a b)
    | _ => .error .unassignedFn
  | 0xa8 | 0xa9 | 0xaa | 0xab =>
    match rFn w with
    | 0 => do let d ← dstField (rD w); let a ← srcField (rA w); let b ← srcField (rB w); pure (.aminN (decide (opOf w / 4 % 2 = 1)) (asemOf (opOf w % 4)) d a b)
    | 1 => do let d ← dstField (rD w); let a ← srcField (rA w); let b ← srcField (rB w); pure (.amaxN (decide (opOf w / 4 % 2 = 1)) (asemOf (opOf w % 4)) d a b)
    | 2 => do let d ← dstField (rD w); let a ← srcField (rA w); let b ← srcField (rB w); pure (.aincw (decide (opOf w / 4 % 2 = 1)) (asemOf (opOf w % 4)) d a b)
    | 3 => do let d ← dstField (rD w); let a ← srcField (rA w); let b ← srcField (rB w); pure (.adecw (decide (opOf w / 4 % 2 = 1)) (asemOf (opOf w % 4)) d a b)
    | 4 => do let d ← dstField (rD w); let a ← srcField (rA w); let b ← srcField (rB w); pure (.aaddb (decide (opOf w / 4 % 2 = 1)) (asemOf (opOf w % 4)) d a b)
    | 5 => do let d ← dstField (rD w); let a ← srcField (rA w); let b ← srcField (rB w); pure (.fadda (asemOf (opOf w % 4)) d a b)
    | 6 => do let d ← dstField (rD w); let a ← srcField (rA w); let b ← srcField (rB w); pure (.amaxm (asemOf (opOf w % 4)) d a b)
    | 7 => do let d ← dstField (rD w); let a ← srcField (rA w); zeroField (rB w); pure (.amaxrs (asemOf (opOf w % 4)) d a)
    | _ => .error .unassignedFn
  | 0xac | 0xad | 0xae | 0xaf =>
    match rFn w with
    | 0 => do let d ← dstField (rD w); let a ← srcField (rA w); let b ← srcField (rB w); pure (.aminN (decide (opOf w / 4 % 2 = 1)) (asemOf (opOf w % 4)) d a b)
    | 1 => do let d ← dstField (rD w); let a ← srcField (rA w); let b ← srcField (rB w); pure (.amaxN (decide (opOf w / 4 % 2 = 1)) (asemOf (opOf w % 4)) d a b)
    | 2 => do let d ← dstField (rD w); let a ← srcField (rA w); let b ← srcField (rB w); pure (.aincw (decide (opOf w / 4 % 2 = 1)) (asemOf (opOf w % 4)) d a b)
    | 3 => do let d ← dstField (rD w); let a ← srcField (rA w); let b ← srcField (rB w); pure (.adecw (decide (opOf w / 4 % 2 = 1)) (asemOf (opOf w % 4)) d a b)
    | 4 => do let d ← dstField (rD w); let a ← srcField (rA w); let b ← srcField (rB w); pure (.aaddb (decide (opOf w / 4 % 2 = 1)) (asemOf (opOf w % 4)) d a b)
    | _ => .error .unassignedFn
  | _ => .error .unassignedOpcode

/-- Major opcodes 0xb0 to 0xbf: fences, barriers, monitors, Clearing, Escrow, flush and commit (R198 to R208). -/
def decodeSync (w : Nat) : Except Reject Instr :=
  match opOf w with
  | 0xb0 => do let sc ← scopeField (rFn w); let sem ← semField (rD w); zeroField (rA w); zeroField (rB w); pure (.fence sc sem)
  | 0xb1 =>
    match rFn w with
    | 0 => do zeroField (rD w); zeroField (rA w); zeroField (rB w); pure (.barB)
    | 1 => do zeroField (rD w); zeroField (rA w); zeroField (rB w); pure (.barE)
    | 2 => do zeroField (rD w); let a ← srcField (rA w); zeroField (rB w); pure (.nbar a)
    | 3 => do let d ← dstField (rD w); let a ← srcField (rA w); zeroField (rB w); pure (.nbnew d a)
    | 4 => do zeroField (rD w); let a ← srcField (rA w); zeroField (rB w); pure (.nbfree a)
    | _ => .error .unassignedFn
  | 0xb2 | 0xb3 => do let c ← condField (rFn w); let d ← dstField (rD w); let a ← srcField (rA w); let b ← srcField (rB w); pure (.monw (decide (opOf w / 1 % 2 = 1)) c d a b)
  | 0xb4 =>
    match rFn w with
    | 0 => do zeroField (rD w); zeroField (rA w); zeroField (rB w); pure (.secin)
    | 1 => do zeroField (rD w); zeroField (rA w); zeroField (rB w); pure (.secout)
    | 2 => do let d ← dstField (rD w); zeroField (rA w); zeroField (rB w); pure (.clreq d)
    | 3 => do zeroField (rD w); let a ← srcField (rA w); zeroField (rB w); pure (.clwait a)
    | _ => .error .unassignedFn
  | 0xb5 =>
    match rFn w with
    | 0 => do zeroField (rD w); let a ← srcField (rA w); let b ← srcField (rB w); pure (.escrow a b)
    | 1 => do let d ← dstField (rD w); zeroField (rA w); zeroField (rB w); pure (.escpop d)
    | _ => .error .unassignedFn
  | 0xb6 =>
    match rFn w with
    | 0 => do zeroField (rD w); zeroField (rA w); zeroField (rB w); pure (.dflush)
    | 1 => do zeroField (rD w); let a ← srcField (rA w); zeroField (rB w); pure (.tcommit a)
    | _ => .error .unassignedFn
  | _ => .error .unassignedOpcode

/-- Major opcodes 0xc0 to 0xcf: matrix and residue words (R215 to R228). -/
def decodeMatrix (w : Nat) : Except Reject Instr :=
  match opOf w with
  | 0xc0 => do let n ← fin8Field (rFn w); let d ← srcField (rD w); let a ← srcField (rA w); let b ← srcField (rB w); pure (.mxm n d a b)
  | 0xc1 => do let n ← fin8Field (rFn w); zeroField (rD w); zeroField (rA w); zeroField (rB w); pure (.mxclr n)
  | 0xc2 => do let n ← fin8Field (rFn w); let d ← dstField (rD w); let o ← ofmtField (w / 2 ^ 7 % 8); let rm ← rmodeField (w / 2 ^ 4 % 4); zeroField (w % 16); pure (.mxdrn n d (fin16Of (w / 2 ^ 10 % 16)) o (decide (w / 2 ^ 6 % 2 = 1)) rm)
  | 0xc3 => do let n ← fin8Field (rFn w); let d ← dstField (rD w); let a ← srcField (rA w); let b ← srcField (rB w); pure (.mxdrs n d a b)
  | 0xc4 => do let n ← fin8Field (rFn w); zeroField (rD w); zeroField (rA w); zeroField (rB w); pure (.mxgsum n)
  | 0xc5 => do let c ← clsField (w / 2 ^ 21 % 4); let d ← dstField (rD w); let a ← vField (rA w); let b ← srcField (rB w); pure (.enc (fmtOf (w / 2 ^ 23 % 2)) c d a b)
  | 0xc6 =>
    match rFn w with
    | 0 => do zeroField (rD w); zeroField (rA w); zeroField (rB w); pure (.mxfence)
    | 1 => do zeroField (rD w); zeroField (rA w); zeroField (rB w); pure (.mxwait)
    | 2 => do zeroField (rD w); zeroField (rA w); zeroField (rB w); pure (.mxrel)
    | _ => .error .unassignedFn
  | 0xc7 =>
    match iFn w with
    | 0 => do let d ← dstField (iD w); zeroField (iA w); let c ← fin8Field (iImm w); pure (.asyr d c)
    | _ => .error .unassignedFn
  | _ => .error .unassignedOpcode

/-- Major opcodes 0xd0 to 0xdf: engine, queue and Toss words (R233, R254, R260, R272). -/
def decodeEngine (w : Nat) : Except Reject Instr :=
  match opOf w with
  | 0xd0 => do let q ← fin8Field (rFn w); let d ← groupField (rD w); zeroField (w % 2 ^ 13); pure (.cpy q d (decide (w / 2 ^ 13 % 2 = 1)))
  | 0xd1 => do let q ← fin8Field (rFn w); let d ← groupField (rD w); zeroField (w % 2 ^ 13); pure (.cpycv q d (decide (w / 2 ^ 13 % 2 = 1)))
  | 0xd2 => do let q ← fin8Field (rFn w); let d ← groupField (rD w); zeroField (w % 2 ^ 13); pure (.cpyrd q d (decide (w / 2 ^ 13 % 2 = 1)))
  | 0xd3 => do let q ← fin8Field (rFn w); let d ← groupField (rD w); zeroField (w % 2 ^ 13); pure (.coll q d (decide (w / 2 ^ 13 % 2 = 1)))
  | 0xd4 =>
    match rFn w with
    | 0 => do let d ← dstField (rD w); let a ← srcField (rA w); let n ← fin4Field (rB w); pure (.qbind d a n)
    | 1 => do let d ← dstField (rD w); zeroField (rA w); let n ← fin4Field (rB w); pure (.qpop d n)
    | 2 => do zeroField (rD w); let a ← srcField (rA w); let n ← fin4Field (rB w); pure (.qpush a n)
    | 3 => do let d ← dstField (rD w); zeroField (rA w); let n ← fin4Field (rB w); pure (.qlen d n)
    | _ => .error .unassignedFn
  | 0xd5 =>
    match iFn w with
    | 0 => do let d ← dstField (iD w); zeroField (iA w); let q ← fin8Field (iImm w); pure (.cqstat d q)
    | 1 => do zeroField (iD w); zeroField (iA w); let q ← fin8Field (iImm w); pure (.cqclr q)
    | _ => .error .unassignedFn
  | 0xd8 => do let t ← fmtField (rFn w); let d ← dstField (rD w); let a ← srcField (rA w); zeroField (rB w); pure (.tossmax t d a)
  | 0xd9 => do let t ← fmtField (rFn w); let d ← dstField (rD w); let a ← srcField (rA w); zeroField (rB w); pure (.tosscand t d a)
  | 0xda =>
    match rFn w with
    | 0 => do let d ← dstField (rD w); let a ← srcField (rA w); zeroField (rB w); pure (.tossmerge d a)
    | _ => .error .unassignedFn
  | 0xdb =>
    match rFn w with
    | 0 => do let d ← dstField (rD w); let a ← srcField (rA w); zeroField (rB w); pure (.tossdraw d a)
    | _ => .error .unassignedFn
  | 0xdc =>
    match rFn w with
    | 0 => do let d ← dstField (rD w); let a ← srcField (rA w); zeroField (rB w); pure (.tossgenHi d a)
    | 1 => do let d ← dstField (rD w); let a ← srcField (rA w); zeroField (rB w); pure (.tossgenLo d a)
    | _ => .error .unassignedFn
  | _ => .error .unassignedOpcode

/-- Major opcodes 0xe0 to 0xef: system words (R19, R68, R302, R312). -/
def decodeSystem (w : Nat) : Except Reject Instr :=
  match opOf w with
  | 0xe0 =>
    match iFn w with
    | 0 => do let d ← dstField (iD w); zeroField (iA w); pure (.csrr d (BitVec.ofNat 8 (iImm w)))
    | 1 => do zeroField (iD w); let a ← srcField (iA w); pure (.csrw a (BitVec.ofNat 8 (iImm w)))
    | _ => .error .unassignedFn
  | 0xe1 =>
    match rFn w with
    | 0 => do zeroField (rD w); zeroField (rA w); zeroField (rB w); pure (.tret)
    | 1 => do zeroField (rD w); zeroField (rA w); zeroField (rB w); pure (.tretNext)
    | 2 => do zeroField (rD w); let a ← srcField (rA w); zeroField (rB w); pure (.tretTo a)
    | _ => .error .unassignedFn
  | 0xe8 =>
    match iFn w with
    | 0 => do let d ← dstField (iD w); zeroField (iA w); pure (.qry d (BitVec.ofNat 8 (iImm w)))
    | 1 => do let d ← dstField (iD w); let a ← srcField (iA w); zeroField (iImm w); pure (.qryX d a)
    | _ => .error .unassignedFn
  | 0xe9 =>
    match iFn w with
    | 0 => do zeroField (iD w); zeroField (iA w); pure (.winb (BitVec.ofNat 8 (iImm w)))
    | 1 => do zeroField (iD w); zeroField (iA w); pure (.winbRel (BitVec.ofNat 8 (iImm w)))
    | 2 => do let n ← fin4Field (iD w); let a ← srcField (iA w); pure (.xset n a (BitVec.ofNat 8 (iImm w)))
    | 3 => do let d ← dstField (iD w); let n ← fin4Field (iA w); zeroField (iImm w); pure (.xget d n)
    | _ => .error .unassignedFn
  | _ => .error .unassignedOpcode

/-- The fields of a word by major opcode (R64); 0x00, 0xF0 to 0xFD, the prefix 0xFE and 0xFF are no instruction. -/
def decodeFields (w : Nat) : Except Reject Instr :=
  let op := opOf w
  if op < 0x10 then decodeControl w
  else if op < 0x40 then decodeInteger w
  else if op < 0x70 then decodeFloat w
  else if op < 0x80 then decodeCross w
  else if op < 0xa0 then decodeMemory w
  else if op < 0xb0 then decodeAtomic w
  else if op < 0xc0 then decodeSync w
  else if op < 0xd0 then decodeMatrix w
  else if op < 0xe0 then decodeEngine w
  else if op < 0xf0 then decodeSystem w
  else .error .unassignedOpcode

/-- The instruction a word encodes, or why it encodes none (R65, and the value checks of the entries). -/
def decodeWord (w : Nat) : Except Reject Instr :=
  match decodeFields w with
  | .ok i => if i.wf then .ok i else .error .badFieldValue
  | .error e => .error e

/-- A word the decoder accepts. -/
def decodes (w : Nat) : Option Instr :=
  match decodeWord w with | .ok i => some i | .error _ => none

/-- A clause header (R59). -/
structure Header where
  wait   : BitVec 12
  flagA  : Option (Fin 12)
  flagB  : Option (Fin 12)
  length : Nat
  yieldHint : Bool
  deriving DecidableEq, Repr

/-- A flag field of a header: 0 to 0xB, or 0xF for none (R59). -/
def flagField (n : Nat) : Option (Option (Fin 12)) :=
  if h : n < 12 then some (some ⟨n, h⟩) else if n = 15 then some none else none

/-- A word read as a clause header; none where a header check fails (R59). -/
def decodeHeader (w : Nat) : Option Header :=
  match flagField (w / 2 ^ 16 % 16), flagField (w / 2 ^ 12 % 16) with
  | some fa, some fb =>
    if w / 2 ^ 6 % 64 = 0 ∨ w % 32 ≠ 0 then none
    else some
      { wait := BitVec.ofNat 12 (w / 2 ^ 20), flagA := fa, flagB := fb, length := w / 2 ^ 6 % 64,
        yieldHint := decide (w / 2 ^ 5 % 2 = 1) }
  | _, _ => none

/-- The options of a prefix word (R61). -/
structure Pfx where
  mask    : Option MaskNo
  zeroing : Bool
  round   : Option RMode
  c       : Src
  /-- The c field is zero: the only value allowed before a word without a fourth operand (R61). -/
  cZero   : Bool
  deriving DecidableEq, Repr

/-- The word is a prefix by its major opcode (R61). -/
def isPfxWord (w : Nat) : Bool := opOf w == 0xFE

/-- The fields of a prefix word; none where one of its own checks fails (R61). -/
def decodePfx (w : Nat) : Option Pfx :=
  match srcField (w % 128), rmodeField (w / 2 ^ 13 % 4) with
  | .ok c, .ok rm =>
    let men := w / 2 ^ 20 % 2
    let ren := w / 2 ^ 15 % 2
    if w / 2 ^ 21 % 8 ≠ 0 ∨ w / 2 ^ 7 % 64 ≠ 0 then none
    else if men = 0 ∧ (w / 2 ^ 17 % 8 ≠ 0 ∨ w / 2 ^ 16 % 2 ≠ 0) then none
    else if ren = 0 ∧ w / 2 ^ 13 % 4 ≠ 0 then none
    else some
      { mask := if men = 1 then some (maskOf (w / 2 ^ 17 % 8)) else none
        zeroing := decide (w / 2 ^ 16 % 2 = 1)
        round := if ren = 1 then some rm else none
        c := c
        cZero := decide (w % 128 = 0) }
  | _, _ => none

/-- The instruction in the low bits of a number that numbers them as spec/opcode_table.json does: the Fyska-88
has one 32-bit word per instruction, so bit 0 is bit 0 of that word, stored little-endian (R4, R56). -/
def decodeTableWord (_nbits w : Nat) : Option Instr := decodes (w % 2 ^ 32)

/-! ### The encoder -/

/-- R-form fields packed (R56). -/
def packR (op fn d a b : Nat) : Nat := op * 2 ^ 24 + fn * 2 ^ 21 + d * 2 ^ 14 + a * 2 ^ 7 + b
/-- I-form fields packed (R56). -/
def packI (op fn d a imm : Nat) : Nat := op * 2 ^ 24 + fn * 2 ^ 22 + d * 2 ^ 15 + a * 2 ^ 8 + imm
/-- B-form fields packed (R56). -/
def packB (op m inv rejoin disp : Nat) : Nat := op * 2 ^ 24 + m * 2 ^ 21 + inv * 2 ^ 20 + rejoin * 2 ^ 16 + disp
/-- Loop fields packed, opcode 0x06 (R163). -/
def packL (fn c disp : Nat) : Nat := 0x06 * 2 ^ 24 + fn * 2 ^ 22 + c * 2 ^ 15 + disp

/-- A source register field's value (R53). -/
def srcCode : Src → Nat
  | .v i => i.val | .k i => 96 + i.val | .z => 120 | .lid => 121 | .gnid => 122 | .ix n => 124 + n.val
/-- A destination register field's value (R53). -/
def dstCode : Dst → Nat
  | .v i => i.val | .z => 120 | .ix n => 124 + n.val
/-- A bit. -/
def boolCode : Bool → Nat | false => 0 | true => 1
/-- The B-form rejoin field (R56). -/
def rejoinCode : Option JNo → Nat | some n => n.val | none => 15
/-- The width code (R165). -/
def widthCode : Width → Nat | .b8 => 0 | .b16 => 1 | .b32 => 2 | .b64 => 3
/-- The format bit (R173). -/
def fmtCode : FFmt → Nat | .f32 => 0 | .bf16 => 1
/-- The semantics bits of an atomic (R195). -/
def asemCode : ASem → Nat | .plain => 0 | .acq => 1 | .rel => 2 | .ar => 3
/-- The scope code (R188). -/
def scopeCode : Scope → Nat | .gang => 0 | .block => 1 | .ens => 2 | .tower => 3 | .dev => 4 | .dom => 5
/-- The fence semantics (R198). -/
def semCode : Sem → Nat | .acq => 0 | .rel => 1 | .ar => 2 | .sc => 3
/-- The monitor condition (R202). -/
def condCode : Cond → Nat | .eq => 0 | .ne => 1 | .ltI => 2 | .geI => 3 | .ltN => 4 | .geN => 5
/-- The conversion format code (R175). -/
def cvtCode : CvtFmt → Nat
  | .i8 => 0 | .n8 => 1 | .i16 => 2 | .n16 => 3 | .i32 => 4 | .n32 => 5 | .i64 => 6 | .n64 => 7
  | .f32 => 8 | .bf16 => 9 | .e4m3 => 10 | .e5m2 => 11
/-- The rounding mode code (R61). -/
def rmodeCode : RMode → Nat | .rne => 0 | .rz => 1 | .rd => 2 | .ru => 3
/-- The element class code (R91). -/
def clsCode : Cls → Nat | .i8 => 0 | .i16 => 1 | .n8 => 2 | .i4 => 3
/-- The register drain format code (R224). -/
def ofmtCode : Ofmt → Nat | .f32 => 0 | .bf16 => 1 | .e4m3 => 2 | .e5m2 => 3

/-- The word of an instruction, from the encoding tables of the spec (R56 and the entries); none for a step of
another agent, which has no encoding. -/
def encode : Instr → Option Nat
  | .br m inv rejoin disp => some (packB 0x1 m.val (boolCode inv) (rejoinCode rejoin) disp.toNat)
  | .jmp rejoin disp => some (packB 0x2 0 0 (rejoinCode rejoin) disp.toNat)
  | .call rejoin disp => some (packB 0x3 0 0 (rejoinCode rejoin) disp.toNat)
  | .jr a => some (packR 0x4 0 0 (srcCode a) 0)
  | .calr a => some (packR 0x4 1 0 (srcCode a) 0)
  | .ret => some (packR 0x4 2 0 0 0)
  | .exit => some (packR 0x8 0 0 0 0)
  | .nop => some (packR 0x8 1 0 0 0)
  | .yield => some (packR 0x8 2 0 0 0)
  | .trap i => some (packI 0x9 0 0 0 i.toNat)
  | .brk i => some (packI 0x9 1 0 0 i.toNat)
  | .loopt c disp => some (packL 0 (dstCode c) disp.toNat)
  | .looptB c disp => some (packL 1 (srcCode c) disp.toNat)
  | .split n => some (packR 0x7c 0 n.val 0 0)
  | .join n => some (packR 0x7c 1 n.val 0 0)
  | .waitj n => some (packR 0x7c 2 n.val 0 0)
  | .jget d n => some (packR 0x7c 3 (dstCode d) n.val 0)
  | .jset n a => some (packR 0x7c 4 n.val (srcCode a) 0)
  | .add w d a b => some (packR (0x10 + widthCode w) 0 (dstCode d) (srcCode a) (srcCode b))
  | .sub w d a b => some (packR (0x10 + widthCode w) 1 (dstCode d) (srcCode a) (srcCode b))
  | .addsI w d a b => some (packR (0x10 + widthCode w) 2 (dstCode d) (srcCode a) (srcCode b))
  | .addsN w d a b => some (packR (0x10 + widthCode w) 3 (dstCode d) (srcCode a) (srcCode b))
  | .subsI w d a b => some (packR (0x10 + widthCode w) 4 (dstCode d) (srcCode a) (srcCode b))
  | .subsN w d a b => some (packR (0x10 + widthCode w) 5 (dstCode d) (srcCode a) (srcCode b))
  | .absdI w d a b => some (packR (0x10 + widthCode w) 6 (dstCode d) (srcCode a) (srcCode b))
  | .absdN w d a b => some (packR (0x10 + widthCode w) 7 (dstCode d) (srcCode a) (srcCode b))
  | .mul w d a b => some (packR (0x14 + widthCode w) 0 (dstCode d) (srcCode a) (srcCode b))
  | .mulhI w d a b => some (packR (0x14 + widthCode w) 1 (dstCode d) (srcCode a) (srcCode b))
  | .mulhN w d a b => some (packR (0x14 + widthCode w) 2 (dstCode d) (srcCode a) (srcCode b))
  | .mulsI w d a b => some (packR (0x14 + widthCode w) 3 (dstCode d) (srcCode a) (srcCode b))
  | .mad w d a b => some (packR (0x14 + widthCode w) 4 (dstCode d) (srcCode a) (srcCode b))
  | .mulsN w d a b => some (packR (0x14 + widthCode w) 5 (dstCode d) (srcCode a) (srcCode b))
  | .minI w d a b => some (packR (0x18 + widthCode w) 0 (dstCode d) (srcCode a) (srcCode b))
  | .minN w d a b => some (packR (0x18 + widthCode w) 1 (dstCode d) (srcCode a) (srcCode b))
  | .maxI w d a b => some (packR (0x18 + widthCode w) 2 (dstCode d) (srcCode a) (srcCode b))
  | .maxN w d a b => some (packR (0x18 + widthCode w) 3 (dstCode d) (srcCode a) (srcCode b))
  | .absI w d a => some (packR (0x18 + widthCode w) 4 (dstCode d) (srcCode a) 0)
  | .abss w d a => some (packR (0x18 + widthCode w) 5 (dstCode d) (srcCode a) 0)
  | .neg w d a => some (packR (0x18 + widthCode w) 6 (dstCode d) (srcCode a) 0)
  | .negs w d a => some (packR (0x18 + widthCode w) 7 (dstCode d) (srcCode a) 0)
  | .divI w d a b => some (packR (0x1c + widthCode w) 0 (dstCode d) (srcCode a) (srcCode b))
  | .divN w d a b => some (packR (0x1c + widthCode w) 1 (dstCode d) (srcCode a) (srcCode b))
  | .remI w d a b => some (packR (0x1c + widthCode w) 2 (dstCode d) (srcCode a) (srcCode b))
  | .remN w d a b => some (packR (0x1c + widthCode w) 3 (dstCode d) (srcCode a) (srcCode b))
  | .and w d a b => some (packR (0x20 + widthCode w) 0 (dstCode d) (srcCode a) (srcCode b))
  | .or w d a b => some (packR (0x20 + widthCode w) 1 (dstCode d) (srcCode a) (srcCode b))
  | .xor w d a b => some (packR (0x20 + widthCode w) 2 (dstCode d) (srcCode a) (srcCode b))
  | .andn w d a b => some (packR (0x20 + widthCode w) 3 (dstCode d) (srcCode a) (srcCode b))
  | .orn w d a b => some (packR (0x20 + widthCode w) 4 (dstCode d) (srcCode a) (srcCode b))
  | .xnor w d a b => some (packR (0x20 + widthCode w) 5 (dstCode d) (srcCode a) (srcCode b))
  | .not w d a => some (packR (0x20 + widthCode w) 6 (dstCode d) (srcCode a) 0)
  | .bsel w d a b => some (packR (0x20 + widthCode w) 7 (dstCode d) (srcCode a) (srcCode b))
  | .shl w d a b => some (packR (0x24 + widthCode w) 0 (dstCode d) (srcCode a) (srcCode b))
  | .shrN w d a b => some (packR (0x24 + widthCode w) 1 (dstCode d) (srcCode a) (srcCode b))
  | .shrI w d a b => some (packR (0x24 + widthCode w) 2 (dstCode d) (srcCode a) (srcCode b))
  | .rol w d a b => some (packR (0x24 + widthCode w) 3 (dstCode d) (srcCode a) (srcCode b))
  | .ror w d a b => some (packR (0x24 + widthCode w) 4 (dstCode d) (srcCode a) (srcCode b))
  | .shli w d a i => some (packI (0x28 + widthCode w) 0 (dstCode d) (srcCode a) i.toNat)
  | .shriN w d a i => some (packI (0x28 + widthCode w) 1 (dstCode d) (srcCode a) i.toNat)
  | .shriI w d a i => some (packI (0x28 + widthCode w) 2 (dstCode d) (srcCode a) i.toNat)
  | .rori w d a i => some (packI (0x28 + widthCode w) 3 (dstCode d) (srcCode a) i.toNat)
  | .popc w d a => some (packR (0x2c + widthCode w) 0 (dstCode d) (srcCode a) 0)
  | .clz w d a => some (packR (0x2c + widthCode w) 1 (dstCode d) (srcCode a) 0)
  | .ctz w d a => some (packR (0x2c + widthCode w) 2 (dstCode d) (srcCode a) 0)
  | .brev w d a => some (packR (0x2c + widthCode w) 3 (dstCode d) (srcCode a) 0)
  | .bfxN w d a b => some (packR (0x2c + widthCode w) 4 (dstCode d) (srcCode a) (srcCode b))
  | .bfxI w d a b => some (packR (0x2c + widthCode w) 5 (dstCode d) (srcCode a) (srcCode b))
  | .bfi w d a b => some (packR (0x2c + widthCode w) 6 (dstCode d) (srcCode a) (srcCode b))
  | .ceq w d a b => some (packR (0x30 + widthCode w) 0 d.val (srcCode a) (srcCode b))
  | .cne w d a b => some (packR (0x30 + widthCode w) 1 d.val (srcCode a) (srcCode b))
  | .cltI w d a b => some (packR (0x30 + widthCode w) 2 d.val (srcCode a) (srcCode b))
  | .cgeI w d a b => some (packR (0x30 + widthCode w) 3 d.val (srcCode a) (srcCode b))
  | .cltN w d a b => some (packR (0x30 + widthCode w) 4 d.val (srcCode a) (srcCode b))
  | .cgeN w d a b => some (packR (0x30 + widthCode w) 5 d.val (srcCode a) (srcCode b))
  | .ctst w d a b => some (packR (0x30 + widthCode w) 6 d.val (srcCode a) (srcCode b))
  | .sel w m d a b => some (packR (0x34 + widthCode w) m.val (dstCode d) (srcCode a) (srcCode b))
  | .addi w d a i => some (packI (0x38 + widthCode w) 0 (dstCode d) (srcCode a) i.toNat)
  | .andi w d a i => some (packI (0x38 + widthCode w) 1 (dstCode d) (srcCode a) i.toNat)
  | .ori w d a i => some (packI (0x38 + widthCode w) 2 (dstCode d) (srcCode a) i.toNat)
  | .movi w d i => some (packI (0x38 + widthCode w) 3 (dstCode d) 0 i.toNat)
  | .lea s d a b => some (packR 0x3c s.val (dstCode d) (srcCode a) (srcCode b))
  | .leai s d a i => some (packI 0x3d s.val (dstCode d) (srcCode a) i.toNat)
  | .mov d a => some (packR 0x3f 0 (dstCode d) (srcCode a) 0)
  | .addF t d a b => some (packR (0x40 + fmtCode t) 0 (dstCode d) (srcCode a) (srcCode b))
  | .subF t d a b => some (packR (0x40 + fmtCode t) 1 (dstCode d) (srcCode a) (srcCode b))
  | .mulF t d a b => some (packR (0x40 + fmtCode t) 2 (dstCode d) (srcCode a) (srcCode b))
  | .minF t d a b => some (packR (0x40 + fmtCode t) 3 (dstCode d) (srcCode a) (srcCode b))
  | .maxF t d a b => some (packR (0x40 + fmtCode t) 4 (dstCode d) (srcCode a) (srcCode b))
  | .fmaF t d a b => some (packR (0x40 + fmtCode t) 5 (dstCode d) (srcCode a) (srcCode b))
  | .fmsF t d a b => some (packR (0x40 + fmtCode t) 6 (dstCode d) (srcCode a) (srcCode b))
  | .fnmaF t d a b => some (packR (0x40 + fmtCode t) 7 (dstCode d) (srcCode a) (srcCode b))
  | .absF t d a => some (packR (0x42 + fmtCode t) 0 (dstCode d) (srcCode a) 0)
  | .negF t d a => some (packR (0x42 + fmtCode t) 1 (dstCode d) (srcCode a) 0)
  | .csgn t d a b => some (packR (0x42 + fmtCode t) 2 (dstCode d) (srcCode a) (srcCode b))
  | .rint t d a => some (packR (0x42 + fmtCode t) 3 (dstCode d) (srcCode a) 0)
  | .ceqF t d a b => some (packR (0x44 + fmtCode t) 0 d.val (srcCode a) (srcCode b))
  | .cneF t d a b => some (packR (0x44 + fmtCode t) 1 d.val (srcCode a) (srcCode b))
  | .cltF t d a b => some (packR (0x44 + fmtCode t) 2 d.val (srcCode a) (srcCode b))
  | .cleF t d a b => some (packR (0x44 + fmtCode t) 3 d.val (srcCode a) (srcCode b))
  | .cun t d a b => some (packR (0x44 + fmtCode t) 4 d.val (srcCode a) (srcCode b))
  | .rcp d a => some (packR 0x60 0 (dstCode d) (srcCode a) 0)
  | .rsq d a => some (packR 0x60 1 (dstCode d) (srcCode a) 0)
  | .sqrt d a => some (packR 0x60 2 (dstCode d) (srcCode a) 0)
  | .exp2 d a => some (packR 0x60 3 (dstCode d) (srcCode a) 0)
  | .log2 d a => some (packR 0x60 4 (dstCode d) (srcCode a) 0)
  | .sin2pi d a => some (packR 0x60 5 (dstCode d) (srcCode a) 0)
  | .cos2pi d a => some (packR 0x60 6 (dstCode d) (srcCode a) 0)
  | .tanh d a => some (packR 0x60 7 (dstCode d) (srcCode a) 0)
  | .sigm d a => some (packR 0x61 0 (dstCode d) (srcCode a) 0)
  | .cvt p d a t f => some (packI 0x68 p.val (dstCode d) (srcCode a) (cvtCode t * 16 + cvtCode f))
  | .cvto p d a t f => some (packI 0x69 p.val (dstCode d) (srcCode a) (cvtCode t * 16 + cvtCode f))
  | .cvtt p d a t f => some (packI 0x6a p.val (dstCode d) (srcCode a) (cvtCode t * 16 + cvtCode f))
  | .qbx8 d a => some (packR 0x6b 0 (dstCode d) (srcCode a) 0)
  | .qbx8H d a => some (packR 0x6b 1 (dstCode d) (srcCode a) 0)
  | .qbx16 d a => some (packR 0x6b 2 (dstCode d) (srcCode a) 0)
  | .qbx16H d a => some (packR 0x6b 3 (dstCode d) (srcCode a) 0)
  | .dqbx8 d a => some (packR 0x6b 4 (dstCode d) (srcCode a) 0)
  | .dqbx16 d a => some (packR 0x6b 5 (dstCode d) (srcCode a) 0)
  | .amxr d => some (packR 0x6c 0 (dstCode d) 0 0)
  | .amxrc d => some (packR 0x6c 1 (dstCode d) 0 0)
  | .amxc => some (packR 0x6c 2 0 0 0)
  | .amxw a => some (packR 0x6c 3 0 (srcCode a) 0)
  | .shfl w d a b => some (packR 0x70 (widthCode w) (dstCode d) (srcCode a) (srcCode b))
  | .shfx w d a i => some (packI 0x71 (widthCode w) (dstCode d) (srcCode a) i.toNat)
  | .shup w d a i => some (packI 0x72 (widthCode w) (dstCode d) (srcCode a) i.toNat)
  | .shdn w d a i => some (packI 0x73 (widthCode w) (dstCode d) (srcCode a) i.toNat)
  | .ballot d a => some (packR 0x74 0 (dstCode d) a.val 0)
  | .vany d a => some (packR 0x74 1 d.val a.val 0)
  | .vall d a => some (packR 0x74 2 d.val a.val 0)
  | .veq d a => some (packR 0x74 3 d.val (srcCode a) 0)
  | .nact d => some (packR 0x74 4 (dstCode d) 0 0)
  | .lfirst d => some (packR 0x74 5 (dstCode d) 0 0)
  | .gaddF32 d a => some (packR 0x75 0 (dstCode d) (srcCode a) 0)
  | .gmaxF32 d a => some (packR 0x75 1 (dstCode d) (srcCode a) 0)
  | .gminF32 d a => some (packR 0x75 2 (dstCode d) (srcCode a) 0)
  | .gamaxF32 d a => some (packR 0x75 3 (dstCode d) (srcCode a) 0)
  | .gaddI32 d a => some (packR 0x75 4 (dstCode d) (srcCode a) 0)
  | .gaddI64 d a => some (packR 0x75 5 (dstCode d) (srcCode a) 0)
  | .mand d a b => some (packR 0x78 0 d.val a.val b.val)
  | .mor d a b => some (packR 0x78 1 d.val a.val b.val)
  | .mxor d a b => some (packR 0x78 2 d.val a.val b.val)
  | .mandn d a b => some (packR 0x78 3 d.val a.val b.val)
  | .mnot d a => some (packR 0x78 4 d.val a.val 0)
  | .mmov d a => some (packR 0x78 5 d.val a.val 0)
  | .mone d => some (packR 0x78 6 d.val 0 0)
  | .mzero d => some (packR 0x78 7 d.val 0 0)
  | .mget d a => some (packR 0x79 0 (dstCode d) a.val 0)
  | .mlet d a => some (packR 0x79 1 d.val (srcCode a) 0)
  | .qry d s => some (packI 0xe8 0 (dstCode d) 0 s.toNat)
  | .qryX d a => some (packI 0xe8 1 (dstCode d) (srcCode a) 0)
  | .winb i => some (packI 0xe9 0 0 0 i.toNat)
  | .winbRel i => some (packI 0xe9 1 0 0 i.toNat)
  | .xset n a i => some (packI 0xe9 2 n.val (srcCode a) i.toNat)
  | .xget d n => some (packI 0xe9 3 (dstCode d) n.val 0)
  | .ldN w d a i => some (packI 0x80 (widthCode w) (dstCode d) (srcCode a) i.toNat)
  | .ldI w d a i => some (packI 0x81 (widthCode w) (dstCode d) (srcCode a) i.toNat)
  | .st w d a i => some (packI 0x82 (widthCode w) (srcCode d) (srcCode a) i.toNat)
  | .ldsN w d a i => some (packI 0x90 (widthCode w) (dstCode d) (srcCode a) i.toNat)
  | .ldsI w d a i => some (packI 0x91 (widthCode w) (dstCode d) (srcCode a) i.toNat)
  | .sts w d a i => some (packI 0x92 (widthCode w) (srcCode d) (srcCode a) i.toNat)
  | .lda w sc d a => some (packR (0x84 + widthCode w) (scopeCode sc) (dstCode d) (srcCode a) 0)
  | .stl w sc a b => some (packR (0x88 + widthCode w) (scopeCode sc) 0 (srcCode a) (srcCode b))
  | .ldk d i => some (packI 0x9c 0 (dstCode d) 0 i.toNat)
  | .ldkX d a => some (packI 0x9c 1 (dstCode d) (srcCode a) 0)
  | .ldgAddF32 d a => some (packR 0x94 0 (dstCode d) (srcCode a) 0)
  | .ldgAddI32 d a => some (packR 0x94 1 (dstCode d) (srcCode a) 0)
  | .ldgAddI64 d a => some (packR 0x94 2 (dstCode d) (srcCode a) 0)
  | .ldgMaxF32 d a => some (packR 0x94 3 (dstCode d) (srcCode a) 0)
  | .ldgMinF32 d a => some (packR 0x94 4 (dstCode d) (srcCode a) 0)
  | .ldgAmaxF32 d a => some (packR 0x94 5 (dstCode d) (srcCode a) 0)
  | .rpld d a n => some (packI 0x98 0 (srcCode d) (srcCode a) n.toNat)
  | .rpst d a n => some (packI 0x98 1 (srcCode d) (srcCode a) n.toNat)
  | .rpstAdd d a n => some (packI 0x98 2 (srcCode d) (srcCode a) n.toNat)
  | .aadd wide sem d a b => some (packR (0xa0 + boolCode wide * 4 + asemCode sem) 0 (dstCode d) (srcCode a) (srcCode b))
  | .aand wide sem d a b => some (packR (0xa0 + boolCode wide * 4 + asemCode sem) 1 (dstCode d) (srcCode a) (srcCode b))
  | .aor wide sem d a b => some (packR (0xa0 + boolCode wide * 4 + asemCode sem) 2 (dstCode d) (srcCode a) (srcCode b))
  | .axor wide sem d a b => some (packR (0xa0 + boolCode wide * 4 + asemCode sem) 3 (dstCode d) (srcCode a) (srcCode b))
  | .axch wide sem d a b => some (packR (0xa0 + boolCode wide * 4 + asemCode sem) 4 (dstCode d) (srcCode a) (srcCode b))
  | .acas wide sem d a b => some (packR (0xa0 + boolCode wide * 4 + asemCode sem) 5 (dstCode d) (srcCode a) (srcCode b))
  | .aminI wide sem d a b => some (packR (0xa0 + boolCode wide * 4 + asemCode sem) 6 (dstCode d) (srcCode a) (srcCode b))
  | .amaxI wide sem d a b => some (packR (0xa0 + boolCode wide * 4 + asemCode sem) 7 (dstCode d) (srcCode a) (srcCode b))
  | .aminN wide sem d a b => some (packR (0xa8 + boolCode wide * 4 + asemCode sem) 0 (dstCode d) (srcCode a) (srcCode b))
  | .amaxN wide sem d a b => some (packR (0xa8 + boolCode wide * 4 + asemCode sem) 1 (dstCode d) (srcCode a) (srcCode b))
  | .aincw wide sem d a b => some (packR (0xa8 + boolCode wide * 4 + asemCode sem) 2 (dstCode d) (srcCode a) (srcCode b))
  | .adecw wide sem d a b => some (packR (0xa8 + boolCode wide * 4 + asemCode sem) 3 (dstCode d) (srcCode a) (srcCode b))
  | .aaddb wide sem d a b => some (packR (0xa8 + boolCode wide * 4 + asemCode sem) 4 (dstCode d) (srcCode a) (srcCode b))
  | .fadda sem d a b => some (packR (0xa8 + asemCode sem) 5 (dstCode d) (srcCode a) (srcCode b))
  | .amaxm sem d a b => some (packR (0xa8 + asemCode sem) 6 (dstCode d) (srcCode a) (srcCode b))
  | .amaxrs sem d a => some (packR (0xa8 + asemCode sem) 7 (dstCode d) (srcCode a) 0)
  | .fence sc sem => some (packR 0xb0 (scopeCode sc) (semCode sem) 0 0)
  | .barB => some (packR 0xb1 0 0 0 0)
  | .barE => some (packR 0xb1 1 0 0 0)
  | .nbar a => some (packR 0xb1 2 0 (srcCode a) 0)
  | .nbnew d a => some (packR 0xb1 3 (dstCode d) (srcCode a) 0)
  | .nbfree a => some (packR 0xb1 4 0 (srcCode a) 0)
  | .monw wide c d a b => some (packR (0xb2 + boolCode wide) (condCode c) (dstCode d) (srcCode a) (srcCode b))
  | .secin => some (packR 0xb4 0 0 0 0)
  | .secout => some (packR 0xb4 1 0 0 0)
  | .clreq d => some (packR 0xb4 2 (dstCode d) 0 0)
  | .clwait a => some (packR 0xb4 3 0 (srcCode a) 0)
  | .escrow a b => some (packR 0xb5 0 0 (srcCode a) (srcCode b))
  | .escpop d => some (packR 0xb5 1 (dstCode d) 0 0)
  | .dflush => some (packR 0xb6 0 0 0 0)
  | .tcommit a => some (packR 0xb6 1 0 (srcCode a) 0)
  | .mxm n d a b => some (packR 0xc0 n.val (srcCode d) (srcCode a) (srcCode b))
  | .mxclr n => some (packR 0xc1 n.val 0 0 0)
  | .mxdrn n d p o ren rm => some (packR 0xc2 n.val (dstCode d) (p.val * 8 + ofmtCode o) (boolCode ren * 64 + rmodeCode rm * 16))
  | .mxdrs n d a b => some (packR 0xc3 n.val (dstCode d) (srcCode a) (srcCode b))
  | .mxgsum n => some (packR 0xc4 n.val 0 0 0)
  | .enc t cls d a b => some (packR 0xc5 (fmtCode t * 4 + clsCode cls) (dstCode d) a.val (srcCode b))
  | .mxfence => some (packR 0xc6 0 0 0 0)
  | .mxwait => some (packR 0xc6 1 0 0 0)
  | .mxrel => some (packR 0xc6 2 0 0 0)
  | .asyr d c => some (packI 0xc7 0 (dstCode d) 0 c.val)
  | .cpy q d rel => some (packR 0xd0 q.val d.val (boolCode rel * 64) 0)
  | .cpycv q d rel => some (packR 0xd1 q.val d.val (boolCode rel * 64) 0)
  | .cpyrd q d rel => some (packR 0xd2 q.val d.val (boolCode rel * 64) 0)
  | .coll q d rel => some (packR 0xd3 q.val d.val (boolCode rel * 64) 0)
  | .qbind d a n => some (packR 0xd4 0 (dstCode d) (srcCode a) n.val)
  | .qpop d n => some (packR 0xd4 1 (dstCode d) 0 n.val)
  | .qpush a n => some (packR 0xd4 2 0 (srcCode a) n.val)
  | .qlen d n => some (packR 0xd4 3 (dstCode d) 0 n.val)
  | .cqstat d q => some (packI 0xd5 0 (dstCode d) 0 q.val)
  | .cqclr q => some (packI 0xd5 1 0 0 q.val)
  | .tossmax t d a => some (packR 0xd8 (fmtCode t) (dstCode d) (srcCode a) 0)
  | .tosscand t d a => some (packR 0xd9 (fmtCode t) (dstCode d) (srcCode a) 0)
  | .tossmerge d a => some (packR 0xda 0 (dstCode d) (srcCode a) 0)
  | .tossdraw d a => some (packR 0xdb 0 (dstCode d) (srcCode a) 0)
  | .tossgenHi d a => some (packR 0xdc 0 (dstCode d) (srcCode a) 0)
  | .tossgenLo d a => some (packR 0xdc 1 (dstCode d) (srcCode a) 0)
  | .csrr d n => some (packI 0xe0 0 (dstCode d) 0 n.toNat)
  | .csrw a n => some (packI 0xe0 1 0 (srcCode a) n.toNat)
  | .tret => some (packR 0xe1 0 0 0 0)
  | .tretNext => some (packR 0xe1 1 0 0 0)
  | .tretTo a => some (packR 0xe1 2 0 (srcCode a) 0)
  | .launchSubmission _ _ _ _ => none
  | .launchDequeue _ => none
  | .ensembleStart _ => none
  | .blockExit _ => none
  | .memoryOperationComplete _ _ _ => none
  | .specialFunctionComplete _ _ _ => none
  | .mxmAccumulate _ _ _ => none
  | .encWriteComplete _ _ _ => none
  | .drainDecision _ _ _ => none
  | .drainWriteComplete _ _ _ => none
  | .mxgsumSum _ _ _ => none
  | .leaseGrant _ => none
  | .leasePass _ => none
  | .tossWordComplete _ => none
  | .monwSatisfied _ _ _ => none
  | .queueWaitRelease _ _ _ => none
  | .tellerFlushApply _ => none
  | .remoteUpdateApply _ _ _ => none
  | .quantumExpiry _ => none
  | .yieldSuppressionEnd _ _ => none
  | .bindStart _ _ => none
  | .bindResume _ _ => none
  | .bindSave _ => none
  | .contextSaveComplete _ => none
  | .bindKill _ => none
  | .bindIdle _ => none
  | .commandStart _ => none
  | .commandComplete _ => none
  | .collSend _ => none
  | .collRecv _ => none
  | .collRr _ => none
  | .collRrs _ => none
  | .collCopy _ => none
  | .collWait _ => none
  | .collLoop _ => none
  | .collNext _ => none
  | .collEnd _ => none
  | .intakeMessageStart _ _ => none
  | .chunkDecodeComplete _ _ => none
  | .intakeMessageEnd _ _ => none
  | .messageQuarantine _ _ => none
  | .fbdoneRetry _ _ => none
  | .fbdoneFail _ _ => none
  | .replay _ => none
  | .tlbinvAll => none
  | .tlbinvAsid _ => none
  | .tlbinvPage _ _ => none
  | .invalidationComplete => none
  | .h2dtailWrite _ => none
  | .submitLaunch => none
  | .abortLaunch => none
  | .retirementRequest => none
  | .elevatorRemapRequest => none
  | .assayRead => none
  | .partitionConfig _ _ => none
  | .attestationRequest => none
  | .firmwareUpdate => none
  | .newBringup => none
  | .d2hbaseWrite _ => none
  | .moduleReset => none
  | .bringupStageComplete _ _ _ => none
  | .serviceClockRise => none
  | .hostApertureRead _ _ => none
  | .hostApertureWrite _ _ => none
  | .hostAtomicopReject => none
  | .peerRequest _ => none
  | .peerTransactionTimeout _ => none
  | .peerErrorResponse _ => none
  | .flitCrcRetry _ => none
  | .laneRepair _ _ => none
  | .linkDown _ _ => none
  | .asycntClear _ _ => none
  | .containRetireRequest _ _ => none
  | .channelRetirement _ => none
  | .elvmapWrite _ _ => none
  | .elevatorGroupError _ _ _ _ _ _ _ => none
  | .dutyTick _ _ => none
  | .thrcntClear => none
  | .thermalTrip _ => none
  | .registerWrite _ _ => none
  | .unassignedEncodingIssue _ => none
  | .softError _ => none
  | .d2hackWrite _ => none
  | .intakePieceTokenised _ _ => none
  | .managementCoreStore _ _ => none

end Sys2Proof
end

