-- ==== Sys2Proof/Machine/Cells.lean ====
section
/-! DEFINITION. Sparse storage in one canonical form: a list of (address, value) pairs, addresses strictly rising, no
entry equal to zero, which is what an unlisted address reads as. Package memory, host and peer memory, scratchpads,
and slots are held so; equal contents are equal lists. A register file is a list by number. -/
namespace Sys2Proof.Machine

/-- Sparse storage of `w`-bit values by address. -/
abbrev Cells (w : Nat) := List (Nat × BitVec w)

/-- Byte memory by address (R4, R106): the list of cells that are not zero. -/
abbrev Memory := List Host.Cell

/-- The value at an address; an unlisted address reads as zero (log entry 2 for memory; R31, R109, R110 for scratchpads
and registers, which the spec says start at zero). -/
def cellGet {w : Nat} : List (Nat × BitVec w) → Nat → BitVec w
  | [], _ => 0
  | (k, v) :: r, a => if a = k then v else if a < k then 0 else cellGet r a

/-- Storing a value, in canonical form: a zero removes the entry. -/
def cellSet {w : Nat} : List (Nat × BitVec w) → Nat → BitVec w → List (Nat × BitVec w)
  | [], a, v => if v = 0 then [] else [(a, v)]
  | (k, x) :: r, a, v =>
    if a < k then (if v = 0 then (k, x) :: r else (a, v) :: (k, x) :: r)
    else if a = k then (if v = 0 then r else (a, v) :: r)
    else (k, x) :: cellSet r a v

/-- Every entry has an address at or above `lo`, addresses rise strictly, and no value is zero. -/
def cellsWfFrom {w : Nat} : Nat → List (Nat × BitVec w) → Bool
  | _, [] => true
  | lo, (k, v) :: r => decide (lo ≤ k) && decide (v ≠ 0) && cellsWfFrom (k + 1) r

/-- The canonical form of sparse storage. -/
def cellsWf {w : Nat} (c : List (Nat × BitVec w)) : Bool := cellsWfFrom 0 c

/-- The canonical form of a memory. -/
abbrev Memory.wf (m : Memory) : Bool := cellsWf m

/-- Storing a list of values at consecutive addresses, lowest first. -/
def cellSetList {w : Nat} : List (Nat × BitVec w) → Nat → List (BitVec w) → List (Nat × BitVec w)
  | c, _, [] => c
  | c, a, v :: vs => cellSetList (cellSet c a v) (a + 1) vs

/-- `n` consecutive values, lowest address first. -/
def cellGetList {w : Nat} (c : List (Nat × BitVec w)) : Nat → Nat → List (BitVec w)
  | _, 0 => []
  | a, n + 1 => cellGet c a :: cellGetList c (a + 1) n

/-- The little-endian number in `n` bytes of a memory (R4). -/
def memNat (m : Memory) (a n : Nat) : Nat := ofLeBytes (cellGetList m a n)

/-- Storing the low `n` bytes of a number, little-endian (R4). -/
def memSetNat (m : Memory) (a n v : Nat) : Memory := cellSetList m a (leBytes n v)

/-- `n` consecutive values from a list whose entries lie at `a` or above. -/
def cellsRun {w : Nat} : List (Nat × BitVec w) → Nat → Nat → List (BitVec w)
  | _, _, 0 => []
  | [], a, n + 1 => 0 :: cellsRun [] (a + 1) n
  | (k, v) :: r, a, n + 1 => if k = a then v :: cellsRun r (a + 1) n else 0 :: cellsRun ((k, v) :: r) (a + 1) n

/-- `n` consecutive values from address `a`, by one pass over the storage: for long runs. -/
def cellsToList {w : Nat} (c : List (Nat × BitVec w)) (a n : Nat) : List (BitVec w) :=
  cellsRun (c.dropWhile (fun p => decide (p.1 < a))) a n

/-- The entries of a list of values placed from address `a` on: zeros have none. -/
def cellsOfList {w : Nat} (a : Nat) (vs : List (BitVec w)) : List (Nat × BitVec w) :=
  (vs.mapIdx (fun i v => (a + i, v))).filter (fun p => p.2 != 0)

/-- Storing a long run of values, by one pass. -/
def cellsPut {w : Nat} (c : List (Nat × BitVec w)) (a : Nat) (vs : List (BitVec w)) : List (Nat × BitVec w) :=
  c.filter (fun p => decide (p.1 < a)) ++ cellsOfList a vs ++ c.filter (fun p => decide (a + vs.length ≤ p.1))

/-! ### Registers by number -/

/-- Register `i` of a register file; one past the end of the list holds zero (R31). -/
def regGet (r : List Word) (i : Nat) : Word := r.getD i 0

/-- Register `i` written; the list grows as far as it must. -/
def regSet : List Word → Nat → Word → List Word
  | [], 0, v => [v]
  | [], i + 1, v => 0 :: regSet [] i v
  | _ :: r, 0, v => v :: r
  | x :: r, i + 1, v => x :: regSet r i v

end Sys2Proof.Machine
end

