-- ==== Sys2Proof/Machine/State.lean ====
section
/-! DEFINITION. The state of a Fyska-88 module, as plain data: lanes, gangs, blocks, cores, towers, partitions, launches,
engines, memories, mailbox and management registers (INVENTORY.md, State), and the fields the model adds (cur, second,
turns, freshCount; log entries 3, 4, 6). Every default below is the reset value; log entry 5 lists those the spec does
not give. -/
namespace Sys2Proof.Machine

/-! ### Lanes and gangs -/

/-- The mask a lane is parked on (R35, R163, R318). -/
inductive Park | j (n : JNo) | loop
  deriving DecidableEq, Repr

/-- The per-lane state (R48, R49). -/
structure Lane where
  /-- Program counter (R49, R318). -/
  pc : VAddr := 0
  /-- Instruction words left in the current clause instance; 0: the next word is a header (R49, R59). -/
  cpos : Nat := 0
  /-- The clause instance the lane is in (R39), by the model's number. -/
  clause : Option Nat := none
  /-- The instance a trap interrupted, while the lane is a handler lane (R310 step 3, R312). -/
  savedClause : Option Nat := none
  /-- Skip count (R32). -/
  skip : Nat := 0
  /-- Parked, and on which mask (R35). -/
  park : Option Park := none
  /-- The lane has exited (R46). -/
  exited : Bool := false
  /-- Handler lane (R310). -/
  hl : Bool := false
  /-- The held word the lane waits in (R32), by its number in the gang's list. -/
  wait : Option Nat := none
  /-- The number of a word that met a fault and walks again: its place in the fault records (R348, R350). -/
  req : Option Nat := none
  /-- Index registers x0 to x3 (R48). -/
  x : List (BitVec 10) := List.replicate 4 0
  /-- Allotment registers by absolute index (R48); those past the end of the list hold zero, as at block start (R31). -/
  regs : List Word := []
  deriving DecidableEq, Repr

/-- What exec is told of the word being issued (log entry 3). -/
structure Issue where
  /-- The core, 32 × tower + core number. -/
  core : Nat := 0
  gang : Nat := 0
  /-- Address of the instruction word. -/
  addr : VAddr := 0
  /-- Address a trap reports: the prefix's for a prefixed word (R66). -/
  taddr : VAddr := 0
  /-- The options of the prefix, if the word is prefixed (R61). -/
  pfx : Option Pfx := none
  /-- The lanes active for the word (R33). -/
  active : LaneBits := 0
  /-- Words the lanes advance by: 2 for a prefixed word (R62). -/
  words : Nat := 1
  /-- The word is the first of its clause and its header issues with it (R60): the header's address. -/
  hdr : Option VAddr := none
  deriving DecidableEq, Repr

/-- A trap (R305, R306, R307): the cause, the lane it names, its detail, and the flags of TCAUSE. -/
structure Trap where
  cause : Nat
  lane : Nat := 0
  info : Nat := 0
  held : Bool := false
  hdr : Bool := false
  deriving DecidableEq, Repr

/-- What a trap keeps for the return (R310 step 3, R312, R317): where the word stands, how long it is, the clause
position there, whether the trap was a header check, and the cause. -/
structure Resume where
  taddr : VAddr
  words : Nat
  cpos : Nat
  hdr : Bool
  cause : Nat
  deriving DecidableEq, Repr

/-- A trap that waits for the handler to end (R308). -/
structure Pending where
  iss : Issue
  trap : Trap
  heldId : Nat
  deriving DecidableEq, Repr

/-- Where a virtual access lands (R106, R119, R344): package memory, a peer module's memory, or host memory, at a
physical address there. -/
inductive Loc
  | pkg (pa : Nat)
  | peer (module pa : Nat)
  | host (pa : Nat)
  deriving DecidableEq, Repr

/-! ### Accesses issued and not yet performed -/

/-- The place an access touches: a location of virtual memory at its home, a byte of the data scratchpad of the block on a
core (R109, R124), or a byte of the block's own residue scratchpad by plane offset (R110, R315). -/
inductive Spot
  | vm (loc : Loc)
  | ds (core o : Nat)
  | rs (o : Nat)
  deriving DecidableEq, Repr

/-- What a lane's load takes from the lane's own staged entries when it is performed (R151): its gang, its address, the number of
entries the gang had staged before the load, and the base of its free choices (log entry 9). -/
structure Forward where
  gang : Nat
  va : Nat
  before : Nat
  fresh : Nat
  deriving DecidableEq, Repr

/-- What an access does when it is performed: a load of a width, in a deterministic launch with what the lane's own staged entries
supply in place of the home's bytes (R151); a store; an atomic (R195); a residue-plane load, whose bytes go to the residue scratchpad from a
plane offset on, or store (R193), or reduce-add (R118, R208); the leaf of a group load for a rank and a sub-element (R124). -/
inductive AccAct
  | load (w : Width) (sgn : Bool) (reg : Option Nat) (own : Option Forward)
  | store (bytes : List Byte)
  | atomic (op : AtomOp) (w : Width) (reg : Option Nat) (v c : Word)
  | fill (o : Nat)
  | spill (o : Nat)
  | reduce (o : Nat)
  | leaf (rank elem : Nat)
  deriving DecidableEq, Repr

/-- The ordering semantics of an access (R132, R135, R190, R197): an acquire read, a release write, and the scope. -/
structure MemOrder where
  acq : Bool := false
  rel : Bool := false
  scope : Scope := .gang
  deriving DecidableEq, Repr

/-- An access issued and not yet performed (R130 to R133): its lane, the lanes in whose program order it stands, its place and
length, and what it does. -/
structure Access where
  lane : Nat
  lanes : LaneBits
  spot : Spot
  n : Nat
  act : AccAct
  ord : MemOrder := {}
  /-- A memory-side line, which no copy serves (R116). -/
  direct : Bool := false
  /-- It enters the order of the scratchpads when it is performed, not at its word's place (R143). -/
  async : Bool := false
  /-- The bytes that are one access of their own: a longer run may be performed piece by piece (R130); 0: performed whole. -/
  grain : Nat := 0
  /-- Its place among the tower's requests to peer memory (R361). -/
  turn : Nat := 0
  /-- The topmost entry that its translation used: its level, and the page that it serves there (R346, R347). -/
  via : Nat × Nat := (4, 0)
  deriving DecidableEq, Repr

/-- A register result that waits for its operation: lane, absolute index, the bits it covers (R63) and the value. -/
structure RegWrite where
  lane : Nat
  reg : Nat
  bits : Word := BitVec.allOnes 64
  value : Word
  deriving DecidableEq, Repr

/-- The combinations of a group load (R123, R192). -/
inductive GroupOp | addF32 | addI32 | addI64 | maxF32 | minF32 | amaxF32
  deriving DecidableEq, Repr

/-- A group load under way (R120 to R124, R192): its operator, the ensemble size, the enabled elements of each lane with
their registers, and the leaves read so far: lane, sub-element, rank, value. -/
structure GroupJob where
  op : GroupOp
  ens : Nat
  els : List (Nat × Nat × Nat)
  leaves : List (Nat × Nat × Nat × Nat) := []
  deriving DecidableEq, Repr

/-- A drain's operands, fixed at issue (R223 to R225). -/
structure DrainJob where
  /-- Its place in the order in which the drains of the core's gangs issued (R212). -/
  ord : Nat := 0
  slot : Nat
  /-- Output format: 0 f32, 1 bf16, 2 e4m3, 3 e5m2, 4 bx8. -/
  ofmt : Nat
  mode : RMode
  /-- `mxdrn`: the part; `mxdrs`: none. -/
  part : Option Nat
  /-- The registers that take the results: lane and absolute index. -/
  regs : List (Nat × Nat) := []
  /-- `mxdrs`: the address, the stride and the space (true: virtual). -/
  addr : Nat := 0
  stride : Nat := 0
  virt : Bool := false
  /-- A virtual destination's places, row by row as the check at issue found them (R225): location and length. -/
  locs : List (Loc × Nat) := []
  /-- The topmost entries that their translations used (R347). -/
  vias : List (Nat × Nat) := []
  deriving DecidableEq, Repr

/-- The Toss words (R233). -/
inductive TossKind | max (t : FFmt) | cand (t : FFmt) | merge | draw | genHi | genLo
  deriving DecidableEq, Repr

/-- A virtual range that a Toss word reads or writes: its address, its length and the places found at issue (R246). -/
structure TossRange where
  va : Nat
  n : Nat
  locs : List (Loc × Nat × Bool)
  /-- Runs of a range that the unit has read already, by offset, latest first (R248). -/
  got : List (Nat × List Byte) := []
  /-- Runs that it has written already: offset and length. -/
  did : List (Nat × Nat) := []
  deriving DecidableEq, Repr

/-- A Toss word in the tower's unit (R234): the registers for its results (lane, absolute index), the record's words, and
its ranges. -/
structure TossJob where
  kind : TossKind
  regs : List (Nat × Nat)
  words : List Word
  ins : List TossRange
  outs : List TossRange
  /-- The record's own range (R246 check 5.1, R362). -/
  record : TossRange
  /-- The topmost entries that the translations of its ranges used (R347). -/
  vias : List (Nat × Nat) := []
  deriving DecidableEq, Repr

/-- One element of an access word: its lane, the register its result goes to, its virtual address, and the operands of a store
or an atomic. -/
structure MemElem where
  lane : Nat
  reg : Option Nat := none
  va : Nat := 0
  v : Word := 0
  c : Word := 0
  deriving DecidableEq, Repr

/-- What a queue register is bound to (R271). -/
inductive Binding
  | intakeIn (handle : Nat) | intakeOut (handle : Nat) | quarantine (handle : Nat) | escrow
  deriving DecidableEq, Repr

/-- The completion class of an operation (R39). -/
inductive OpClass | a | b
  deriving DecidableEq, Repr

/-- Which step completes an operation. -/
inductive OpKind | memory | special | enc | drainWrite | command
  deriving DecidableEq, Repr

/-- An operation issued and not complete, with the accesses it has still to perform and what it writes when it completes
(R39, R40, R185). -/
structure Op where
  id : Nat
  cls : OpClass
  kind : OpKind
  /-- Clause instances that count it. -/
  clauses : List Nat
  /-- Lanes that issued it (for fences, R133, R198). -/
  lanes : LaneBits
  isRead : Bool := false
  isWrite : Bool := false
  /-- Accesses still to be performed, in lane order (R186). -/
  todo : List Access := []
  /-- It stores to peer modules: the completions have still to arrive (R144, R362). -/
  peer : Bool := false
  /-- The asid in which its accesses were translated (R347). -/
  asid : Option (BitVec 16) := none
  /-- Register results. -/
  regs : List RegWrite := []
  /-- Mask bits to write: mask, bits to clear, bits to set. -/
  masks : List (MaskNo × MaskBits × MaskBits) := []
  /-- A group load's leaves (R124). -/
  group : Option GroupJob := none
  /-- The command accepted with release semantics, which may start once the operation completes (R145, R255). -/
  cmd : Option Nat := none
  /-- The slot for whose drain it writes: a matrix word on the slot that has not completed (R223 step 3, R319). -/
  slot : Option Nat := none
  /-- The residues that a staged `rpst` has read (R148): its first entry's number, how many entries, their plane offset, and the virtual
  address. -/
  staged : Option (Nat × Nat × Nat × Nat) := none
  deriving DecidableEq, Repr

/-- A word whose accesses are about to be translated (R108, step 4): what steps 4 to 6 and its effect need of the operands it
has read. A word that stalls keeps it, and repeats from step 4. -/
inductive VWork
  /-- `ld`, `lda`, `ldk` (R189 to R191): the enabled elements, and those zeroed. -/
  | load (w : Width) (sgn : Bool) (ord : MemOrder) (es zs : List MemElem)
  /-- `st`, `stl` (R189, R190). -/
  | store (w : Width) (ord : MemOrder) (es : List MemElem)
  /-- An atomic (R195 to R197). -/
  | atomic (op : AtomOp) (w : Width) (sem : ASem) (es zs : List MemElem)
  /-- `rpld`, `rpst`, `rpst.add` (R193, R194): the residue element address, the virtual address, the blocks. -/
  | rpld (r v n : Nat)
  | rpst (r v n : Nat)
  | rpstAdd (r v n : Nat)
  /-- `tcommit` (R208), with its number. -/
  | commit (t : BitVec 32)
  /-- `monw` (R202): the armed elements, and those zeroed. -/
  | monw (w : Width) (k : Cond) (es zs : List MemElem)
  /-- `mxdrs` to virtual memory (R225). -/
  | drain (job : DrainJob)
  /-- A Toss word before its record has been read (R246), and with the record's words. -/
  | tossRecord (kind : TossKind) (regs : List (Nat × Nat)) (rva : Nat)
  | tossRanges (kind : TossKind) (regs : List (Nat × Nat)) (r : List Word) (record : TossRange)
  /-- `qbind` of an intake input (R271, R275): the destination, the register, the record's address. -/
  | bind (d : Dst) (n : Fin 4) (va : Nat)
  deriving DecidableEq, Repr

/-- Why the lanes of a word are held, not eligible (R32). -/
inductive HeldKind
  /-- `bar.b` in a phase (R200). -/
  | barB (phase : Nat)
  /-- `bar.e` in a phase (R200). -/
  | barE (phase : Nat)
  /-- `nbar` on an object, in a phase (R201). -/
  | nbar (handle : Word) (phase : Nat)
  /-- `mxgsum` on a slot, its pairing ordinal (R226). -/
  | mxgsum (slot q : Nat)
  /-- A drain before its decision (R223). -/
  | drain (job : DrainJob)
  /-- A Toss word in the tower's unit (R234). -/
  | toss (job : TossJob)
  /-- `monw`: the armed condition (R202): the width, the condition, and per lane the operand (v) and the address (c). -/
  | monw (w : Width) (c : Cond) (es : List MemElem)
  /-- `clwait` (R204). -/
  | clwait (g : Word)
  /-- `qpop` (R273): the port, and the registers, lane and absolute index. -/
  | qpop (p : Binding) (regs : List (Nat × Nat))
  /-- `qpush` (R273): the port, and the values of the lanes in order. -/
  | qpush (p : Binding) (vals : List Word)
  /-- A fence that waits for the accesses of its lanes (R198): its semantics and its scope (R136). -/
  | fence (sem : Sem) (scope : Scope)
  /-- `mxfence` (R220). -/
  | mxfence
  /-- `mxwait` (R220). -/
  | mxwait
  /-- Stalled at translation (R108 step 4, R348): for each faulting entry met, its key, the lowest lane that met it and
  that lane's TINFO if the record is failed (R350); and what repeats from step 4, none for a fetch. -/
  | fault (walks : List (Nat × Nat × Nat)) (work : Option VWork)
  /-- An `mxm` that waits for the lease (R45). -/
  | lease
  /-- A word that reads peer memory, under way (R119, R362): its operation, and the address of each access. -/
  | peer (op : Op) (vas : List (Nat × Nat))
  deriving DecidableEq, Repr

/-- A word whose lanes are held (R32). -/
structure Held where
  id : Nat
  iss : Issue
  lanes : LaneBits
  kind : HeldKind
  deriving DecidableEq, Repr

/-- A clause instance with the flags it still counts in (R39). -/
structure Clause where
  id : Nat
  flagA : Option (Fin 12)
  flagB : Option (Fin 12)
  /-- The header's yield bit (R59, R336). -/
  yield : Bool := false
  deriving DecidableEq, Repr

/-- A matrix word on a slot, not yet complete (R211, R319). -/
inductive ProgKind | mxm (fmt adesc bdesc : Word) | mxclr | mxgsum (q : Nat)
  deriving DecidableEq, Repr

/-- A progress entry (R319); live is false once a later clear has made its sum immaterial (R211, R212). -/
structure Prog where
  kind : ProgKind
  clauses : List Nat
  ksteps : Nat := 0
  live : Bool := true
  /-- Residue writes that preceded the gang's latest `mxfence` when the word issued (R146). -/
  mark : Nat := 0
  deriving DecidableEq, Repr

/-- An accumulator slot (R211). -/
structure Slot where
  /-- Residue of (i, j) in channel c at 1024 c + 32 i + j (R319). -/
  res : List (Nat × Byte) := []
  bound : Word := 0
  /-- The A and B scale bytes, once recorded (R98). -/
  scales : Option (List Byte × List Byte) := none
  prog : List Prog := []
  /-- `mxgsum` words issued on this slot (R226). -/
  gsums : Nat := 0
  deriving DecidableEq, Repr

/-- A staged reduce-store (R194, R320). -/
structure Commit where
  nm1 : Nat
  res : Nat
  va : Word
  deriving DecidableEq, Repr

/-- The per-gang state (R48). -/
structure Gang where
  lanes : List Lane := List.replicate 32 {}
  wb : Nat := 0
  k : List Word := List.replicate 24 0
  m : List MaskBits := List.replicate 8 (BitVec.allOnes 256)
  j : List LaneBits := List.replicate 8 0
  /-- f0 to f11, counts up to 63 (R39). -/
  flags : List Nat := List.replicate 12 0
  /-- Loop mask (R163). -/
  lm : LaneBits := 0
  amax : BitVec 31 := 0
  amaxNan : Bool := false
  tcause : Word := 0
  taddr : Word := 0
  tlane : Word := 0
  tinfo : Word := 0
  tkeep0 : Word := 0
  tkeep1 : Word := 0
  /-- MODE[1] (R304). -/
  inHandler : Bool := false
  resume : Option Resume := none
  pending : List Pending := []
  /-- Section depth and entry generation (R203). -/
  depth : Nat := 0
  entryGen : Word := 0
  commit : List Commit := []
  tlast : BitVec 32 := 0
  /-- Flush count (R149). -/
  flush : Nat := 0
  /-- Entries staged so far, which orders a lane's entries (R150, R320). -/
  stagedSeq : Nat := 0
  clauses : List Clause := []
  ops : List Op := []
  held : List Held := []
  /-- Next number for a clause instance, an operation or a held word. -/
  nextId : Nat := 0
  slots : List Slot := []
  /-- Residue and data writes of the block before the gang's latest `mxfence` (R146). -/
  rsMark : Nat := 0
  dsMark : Nat := 0
  /-- First cycle of eligibility after the latest grant (R336). -/
  ready : Option Nat := none
  /-- Cycle of the latest yield, while it suppresses the gang (R336). -/
  yielded : Option Nat := none
  deriving DecidableEq, Repr

/-! ### Blocks and cores -/

/-- What a block has from its launch and its bind record, fixed at its start (R14, R26, R30, R31, R332). -/
structure BlockCfg where
  lid : Nat := 0
  lrec : VAddr := 0
  etag : BitVec 32 := 0
  index : Nat := 0
  grid : Nat := 1
  ens : Nat := 1
  /-- Gangs per block. -/
  nGangs : Nat := 1
  allot : Nat := 16
  slots : Nat := 0
  dsp : Nat := 0
  rsp : Nat := 0
  det : Bool := false
  sliced : Bool := false
  smode : Bool := false
  part : Fin 16 := 0
  asid : BitVec 16 := 0
  code : VAddr := 0
  handler : VAddr := 0
  accept : BitVec 32 := 0
  utab : VAddr := 0
  ucount : Nat := 0
  /-- Save area named by the bind record, in bytes (R332). -/
  save : Nat := 0
  deriving DecidableEq, Repr

/-- A counted barrier: its phase number and the lanes arrived in it, as (gang, lane) counts (R200, R316). -/
structure Barrier where
  phase : Nat := 0
  arrived : Nat := 0
  deriving DecidableEq, Repr

/-- The kinds of a staged entry (R320). -/
inductive TellerKind | store | fadda | amaxm
  deriving DecidableEq, Repr

/-- A staged entry (R148, R320). -/
structure TellerEntry where
  kind : TellerKind
  /-- Bytes: 1, 2, 4 or 8. -/
  size : Nat
  addr : VAddr
  data : Word
  flush : Nat
  lane : Nat
  gang : Nat
  seq : Nat
  deriving DecidableEq, Repr

/-- A command queue of a block (R253, R259, R260, R316). -/
structure CmdQueue where
  /-- Ordinals accepted since block start or the last `cqclr`. -/
  ord : Nat := 0
  cause : Nat := 0
  failOrd : Nat := 0
  satMask : BitVec 32 := 0
  /-- The queue is in the failed state (R259). -/
  failed : Bool := false
  deriving DecidableEq, Repr

/-- The matrix lease of a core (R45). -/
structure Lease where
  holder : Option Nat := none
  /-- Gangs that wait, oldest request first. -/
  waiting : List Nat := []
  /-- `mxm` operations since the grant. -/
  count : Nat := 0
  deriving DecidableEq, Repr

/-- A resident or saved block (R14, R31, R315). -/
structure Block where
  cfg : BlockCfg := {}
  gangs : List Gang := []
  ds : Memory := []
  /-- 8-byte groups of the data scratchpad that hold an uncorrectable error (R126). -/
  dsFail : List Nat := []
  /-- Residue of element x in channel c at 2048 (x / 256) + 256 c + x % 256 (R94, R315). -/
  rs : Memory := []
  /-- What each write of the residue scratchpad (in a block that has slots), and of the data scratchpad, replaced, latest first: the offset
  and the old bytes (R145, R146). -/
  rsLog : List (Nat × List Byte) := []
  dsLog : List (Nat × List Byte) := []
  /-- Drains issued by the core's gangs (R212). -/
  drains : Nat := 0
  barB : Barrier := {}
  barE : Barrier := {}
  teller : List TellerEntry := []
  /-- One more than the highest flush applied (R316). -/
  tfl : Nat := 0
  /-- The Teller stalls at translation on an entry (R353). -/
  tellerStall : Bool := false
  queues : List CmdQueue := List.replicate 8 {}
  binds : List (Option Binding) := List.replicate 4 none
  lease : Lease := {}
  /-- Core counter at the latest start or resume (R335). -/
  since : Nat := 0
  /-- Its latest start or resume, in the order of all starts and resumes (R334). -/
  seq : Nat := 0
  /-- The quantum has passed (R335, R42). -/
  quantumPassed : Bool := false
  rmask : BitVec 8 := 0
  deriving DecidableEq, Repr

/-- An entry that a TLB holds (R346): its context, its level (4: the context entry), the page it serves at that level, and the
entry. -/
structure TlbEntry where
  asid : BitVec 16
  level : Nat
  page : Nat
  entry : Nat
  deriving DecidableEq, Repr

/-- The lanes that make an access: core, gang, lanes. -/
abbrev Who : Type := Nat × Nat × LaneBits

/-- A store to peer or host memory that its tower's lanes can see already, though its home has not performed it (R131, R144): the core,
the gang, the operation and the access. -/
structure Posted where
  core : Nat
  gang : Nat
  op : Nat
  acc : Access
  deriving DecidableEq, Repr

/-- An update of a line on its way to a tower that may hold a copy (R141): the tower it left, that tower's clock, and the
line's bytes. -/
structure Update where
  src : Nat
  clock : List Nat
  line : Nat
  bytes : List Byte
  /-- The lanes whose write it carries: core, gang, lanes (R132 item 1). -/
  writer : Option Who := none
  deriving DecidableEq, Repr

/-- The states of a bind record (R333). -/
inductive BindState | idle | start | resume | saving | running | saved | exited | killed
  deriving DecidableEq, Repr

/-- A core: its bind record, its block, its counters and its elevator map (R332, R335, R336, R368). -/
structure Core where
  bind : BindState := .idle
  bindRec : BindFields := { lrec := 0, smode := false, etag := 0, block := 0, save := 0, part := 0, asid := 0 }
  /-- The launch whose block a record at start names, by the model's number (R334). -/
  lid : Nat := 0
  /-- A save under R42 has freed it, and nothing has taken it since (R334). -/
  freed : Bool := false
  block : Option Block := none
  cycles : Nat := 0
  /-- Sub-cores that have granted in the current cycle (R336). -/
  granted : BitVec 4 := 0
  /-- Of the current 16 cycles: those with a grant, and those held back by the tower's duty (R378). -/
  opened : Nat := 0
  gated : Nat := 0
  spare : Bool := false
  grp : BitVec 6 := 0
  /-- A transfer of its elevator column has arrived damaged since ELVMAP was last written (R367), and its block has been saved for a remap
  (R369): no block is bound to it then. -/
  damaged : Bool := false
  remap : Bool := false
  /-- A resume has brought its block's residues up its elevator column, and no cycle has begun since (R314, R367). -/
  lifting : Bool := false
  /-- The ELVMAP value in persistent store: spare and group (R370 stage 4). -/
  keptMap : Bool × BitVec 6 := (false, 0)
  /-- Lines that the L1 holds, by address, 64 bytes each (R111). -/
  l1 : List (Nat × List Byte) := []
  /-- The first-level TLB (R346). -/
  tlb : List TlbEntry := []
  deriving DecidableEq, Repr

/-! ### Towers -/

/-- The stages of an intake stream that translate: the source and the text, the tokeniser's tables, the status (R276 to R280). -/
inductive IntakeStage | source | tokens | close
  deriving DecidableEq, Repr

/-- Who waits on a fault record (R348). -/
inductive Requester
  | word (core gang heldId : Nat)
  | fetch (core gang heldId : Nat)
  | command (cmd : Nat)
  | intake (stream : Nat) (stage : IntakeStage)
  | teller (core : Nat)
  deriving DecidableEq, Repr

/-- A fault record (R349). -/
structure FaultRec where
  key : Nat
  kind : Nat
  level : Nat
  page : Nat
  asid : BitVec 16
  acc : Nat
  src : Nat
  srcno : Nat
  count : Nat
  /-- The fault buffer entry, if the record is logged. -/
  entry : Option Nat
  reqs : List Requester
  deriving DecidableEq, Repr

/-- An error-log entry (R364). -/
structure LogEntry where
  kind : Nat
  addr : Nat := 0
  va : Nat := 0
  loc : Nat := 0
  deriving DecidableEq, Repr

/-- A named barrier object (R201). -/
structure NBar where
  index : Nat
  serial : Nat
  device : Bool
  n : Nat
  phase : Nat := 0
  arrived : Nat := 0
  lid : Nat
  block : Nat
  deriving DecidableEq, Repr

/-- The message an intake stream works on (R276 to R283). -/
structure Msg where
  desc : Word
  src : Nat
  srclen : Nat
  policy : Bool
  cs : Nat
  frm : Nat
  text : Nat
  cap : Nat
  /-- Decoded bytes committed so far, and the chunks they came from (R277). -/
  decoded : List Byte := []
  chunks : Nat := 0
  decodeDone : Bool := false
  /-- Text bytes written so far, and how many of them have been tokenised (R278, R279). -/
  utf8 : List Byte := []
  consumed : Nat := 0
  /-- Token ids of the current piece not yet pushed (R281). -/
  pendingTokens : List Word := []
  tokens : Nat := 0
  repl : Nat := 0
  /-- A fault met: the cause and the offset (R282). -/
  fault : Option (Nat × Nat) := none
  /-- No status is written: the pushed element was no descriptor's address (R276), or its status word cannot be written. -/
  noStatus : Bool := false
  deriving DecidableEq, Repr

/-- An intake stream (R275). -/
structure Stream where
  handle : Nat
  lid : Nat
  block : Nat
  core : Nat
  asid : BitVec 16
  smode : Bool
  cls : Nat
  bnd : Nat
  mtab : Nat
  mcount : Nat
  notok : Bool
  hasOut : Bool := false
  hasQuar : Bool := false
  inQ : List Word := []
  outQ : List Word := []
  quarQ : List Word := []
  msg : Option Msg := none
  /-- The owning block is being saved or is saved: the stream stands still (R283). -/
  stopped : Bool := false
  /-- The stages that stall at translation (R283), with the cause and the offset of a failure (R282, R350). -/
  stalled : List (IntakeStage × Nat × Nat) := []
  deriving DecidableEq, Repr

/-- A bring-up record in persistent store (R372). -/
structure BringUp where
  tries : Nat := 0
  step : Nat := 0
  var : Nat := 0
  detail : BitVec 16 := 0
  deriving DecidableEq, Repr

/-- A tower's own state. -/
structure Tower where
  faults : List FaultRec := []
  dropped : Bool := false
  flogged : Word := 0
  fdropped : Word := 0
  asycnt : List (BitVec 32) := List.replicate 8 0
  /-- The once-per-channel bit of the threshold event (R365). -/
  asyLogged : BitVec 8 := 0
  asylast : Word := 0
  asythr : BitVec 32 := 0
  retired : Bool := false
  retirePending : Bool := false
  /-- The retirement in persistent store, applied at stage 4 (R366, R370). -/
  keptChannel : Option (Fin 8) := none
  channel : Fin 8 := 0
  errlog : List LogEntry := []
  overflow : Nat := 0
  nbars : List NBar := []
  nextSerial : Nat := 1
  /-- The Toss unit's queue: core, gang and held word, in issue order (R234). -/
  toss : List (Nat × Nat × Nat) := []
  streams : List Stream := []
  /-- The stage this tower is to run next, 0 to 8 (8: every stage passed; 9: the tower is not started) (R370). -/
  stage : Nat := 0
  /-- Stage 1 has failed from the active bank, and is tried from the other (R370). -/
  otherBank : Bool := false
  bringUp : BringUp := {}
  /-- The firmware image that it has loaded and runs (R370 stage 1). -/
  image : List Byte := []
  /-- Stages that are not run again until the records are cleared (R372). -/
  barred : List Nat := []
  inService : Bool := false
  mhz : Nat := 1500
  clockStopped : Bool := false
  tj : Byte := 0
  duty : Nat := 16
  /-- Links to the other towers at half width, and down (R363), by peer tower. -/
  linkHalf : BitVec 8 := 0
  linkDown : BitVec 8 := 0
  /-- The vector clock: updates sent by this tower, and applied here from each other one (R141). -/
  vclock : List Nat := List.replicate 8 0
  /-- Updates that the tower's parties have made, or whose writes they have read at a home: what a release passes on (R138), and an
  acquire of the tower applies (R137). -/
  heard : List Nat := List.replicate 8 0
  /-- What releases had published at the places that the tower's plain reads have read, in the package, and in peer and host memory: an
  acquire fence applies it (R137 case 1, R144). -/
  rumour : List Nat := List.replicate 8 0
  rumourFar : List Nat := List.replicate 8 0
  /-- What the tower's latest release fences at device scope, and at domain scope, pass on with its later writes (R137 case 1, R144). -/
  fenced : List Nat := List.replicate 8 0
  fencedFar : List Nat := List.replicate 8 0
  /-- What releases at device scope or wider have published in memory homed here (R137). -/
  pub : List Nat := List.replicate 8 0
  /-- Stores to peer and host memory that this tower's lanes see before their homes perform them. -/
  posted : List Posted := []
  /-- Requests to peer memory issued so far (R361). -/
  requests : Nat := 0
  /-- Copies of lines homed elsewhere that the L2 holds, 256 bytes each (R113, R119). -/
  copies : List (Loc × List Byte) := []
  /-- Updates that have reached this tower and are not applied, in the order in which they were sent (R141). -/
  inbox : List Update := []
  /-- The second-level TLB (R346). -/
  tlb : List TlbEntry := []
  deriving DecidableEq, Repr

/-! ### Partitions, launches and commands -/

/-- An Escrow entry held in the ring (R206, R322): its appended number, address, tag and stamp. -/
structure Escrow where
  seq : Nat
  addr : VAddr
  tag : Byte
  stamp : Word
  deriving DecidableEq, Repr

/-- A launch queue (R328). -/
structure LaunchQueue where
  base : Nat := 0
  log2 : Nat := 4
  head : Nat := 0
  tail : Nat := 0
  /-- Entries cancelled before dispatch has read them, by their count from the first (R330, R360). -/
  cancelled : List Nat := []
  deriving DecidableEq, Repr

/-- A partition (R325, R326). -/
structure Partition where
  cores : List Nat := []
  /-- The core set to which a reconfiguration under way changes it (R327). -/
  leaving : Option (List Nat) := none
  gen : Word := 0
  done : Word := 0
  pend : Bool := false
  queued : Bool := false
  c0 : BitVec 32 := 0
  c1 : BitVec 32 := 0
  escBase : Nat := 0
  escLog2 : Nat := 10
  appended : Nat := 0
  ring : List Escrow := []
  queues : List LaunchQueue := List.replicate 8 {}
  /-- Completion objects that will not be incremented, with the tails of the queues at that moment: entries before them that wait
  on the object are cancelled (R331). -/
  lost : List (Loc × List Nat) := []
  deriving DecidableEq, Repr

/-- How far a launch has come (R28, R329, R330). -/
inductive Phase | queued | running | ended
  deriving DecidableEq, Repr

/-- The first kill of a launch (R330): the block, the trap's TCAUSE, TADDR, TLANE and TINFO, and the kill source. -/
structure KillInfo where
  block : Nat
  trap : List Word := []
  src : Nat
  deriving DecidableEq, Repr

/-- A launch past its submission (R26 to R30, R330). -/
structure Launch where
  id : Nat
  part : Fin 16
  prio : Fin 8
  asid : BitVec 16
  smode : Bool
  lrec : VAddr
  fateAddr : VAddr
  /-- W0 to W15 as read at submission (R26). -/
  words : List Word
  /-- Writes logged before it began to run: what its locations held then is their initial value (R131). -/
  homeMark : Nat := 0
  phase : Phase := .queued
  /-- Its place in the order in which launches finish step 4 of R28 (R334). -/
  order : Nat := 0
  grid : Nat := 0
  /-- k0 to k23 as fixed at dequeue (R29). -/
  k : List Word := []
  /-- Blocks that have started, exited or been killed. -/
  started : List Nat := []
  exited : List Nat := []
  killed : List Nat := []
  kill : Option KillInfo := none
  /-- 0 none yet, 1 finished, 2 rejected, 3 killed, 4 cancelled (R330). -/
  fate : Nat := 0
  deriving DecidableEq, Repr

/-- The kinds of an engine command (R254). -/
inductive CmdKind | cpy | cpycv | cpyrd | coll
  deriving DecidableEq, Repr

/-- The interpreter state of a collective program (R268, R269). -/
structure Coll where
  pos : Nat := 0
  /-- Open loops, innermost first: the step after the loop step, the counter, the trip count. -/
  loops : List (Nat × Nat × Nat) := []
  sent : List Nat := List.replicate 16 0
  got : List Nat := List.replicate 16 0
  /-- Header fields (R266). -/
  op : Nat := 0
  n : Nat := 0
  rank : Nat := 0
  peers : List (Word × Word) := []
  bufs : List (Nat × Nat) := []
  steps : List Word := []
  deriving DecidableEq, Repr

/-- One side of a transfer: the data scratchpad of the command's block, or virtual memory (R261). -/
inductive Side | scratch (o : Nat) | virt (va : Nat)
  deriving DecidableEq, Repr

/-- A command accepted by a queue and not complete (R253 to R259). -/
structure Command where
  id : Nat
  kind : CmdKind
  lid : Nat
  block : Nat
  core : Nat
  queue : Fin 8
  ord : Nat
  asid : BitVec 16
  smode : Bool
  regs : List Word
  started : Bool := false
  /-- Its transfer, or its program, is done: it waits for its completion update (R257). -/
  finished : Bool := false
  /-- The number of its copy engine on the tower (R349). -/
  engine : Nat := 0
  /-- The rows that a `cpycv` saturated (R263). -/
  satMask : BitVec 32 := 0
  /-- It waits for the accesses before its word (R145, R255). -/
  gated : Bool := false
  /-- It had started before its queue failed: its own failure is not recorded (R259). -/
  quiet : Bool := false
  /-- The command is skipped because its queue had failed (R259). -/
  skipped : Bool := false
  /-- A failure cause already found (R258). -/
  failure : Option Nat := none
  /-- It waits at translation (R348). -/
  stalled : Bool := false
  /-- Its block was killed while it ran (R265). -/
  stopped : Bool := false
  coll : Option Coll := none
  /-- It was issued with release semantics (R145). -/
  rel : Bool := false
  /-- Source bytes that the engine has read already, by place, latest first; and the units that it has performed: the part of the
  destination, offset and length (R130, R145). -/
  got : List (Side × List Byte) := []
  did : List (Nat × Nat × Nat) := []
  deriving DecidableEq, Repr

/-- A block saved by the context engine (R313), with the address of its save area. -/
structure Saved where
  area : Nat
  block : Block
  /-- Its save, in the order of all starts, resumes and saves (R334). -/
  seq : Nat := 0
  /-- It was saved because its core was to leave its partition, or to be remapped (R327, R369). -/
  moved : Bool := false
  deriving DecidableEq, Repr

/-! ### The module -/

/-- What the device answered to the host's latest access of its memory or of an AtomicOp (R356). -/
inductive HostReply | none | data (bytes : List Byte) | unsupportedRequest
  deriving DecidableEq, Repr

/-- The mailbox (R357, R358). -/
structure Mailbox where
  epoch : Word := 1
  ready : Bool := false
  reduced : Bool := false
  fatal : Bool := false
  apbase : Word := 0
  h2dbase : Word := 0
  h2dsize : Nat := 4
  h2dtail : Word := 0
  h2ddone : Word := 0
  d2hbase : Word := 0
  d2hsize : Nat := 4
  d2hseq : Word := 0
  d2hack : Word := 0
  /-- The device has stopped reading at a bad sequence number, until H2DTAIL is written (R358). -/
  stopped : Bool := false
  /-- Every device-to-host entry written since the reset, oldest first: words 1 to 7 (R359). -/
  written : List (List Word) := []
  /-- Entries held until D2HACK moves (R358): words 1 to 7. -/
  outbox : List (List Word) := []
  /-- MSI-X vector 0 signals (R358). -/
  msix : Nat := 0
  deriving DecidableEq, Repr

/-- Firmware, fuses and attestation (R374 to R376). -/
structure Security where
  /-- The firmware images of the two banks, the active bank, and whether the other holds a staged image (R370, R373). -/
  banks : List (List Byte) := [Config.bootImage 0, Config.bootImage 1]
  active : Nat := 0
  staged : Bool := false
  fusedSvn : Nat := 0
  attestIndex : Nat := 0
  deriving DecidableEq, Repr

/-- The parts (R3). -/
inductive Part | p88 | p48 | p28
  deriving DecidableEq, Repr

/-- Who acts next (log entry 4): a step of another agent, one cycle of a core, a grant of a sub-core (R336), or a step inside
the memory system that the spec lets happen at any moment. -/
inductive Turn
  | event (i : Instr)
  | cycle (core : Nat)
  | issue (core sub : Nat)
  /-- An access of an operation is performed (R131, R185): the core, the gang, the operation and its place in it. -/
  | perform (core gang op k : Nat)
  /-- A store to peer or host memory becomes visible to the lanes of its tower (R131, R144). -/
  | post (core gang op k : Nat)
  /-- The bytes of an access beyond the first `n` become an access of their own (R130). -/
  | split (core gang op k n : Nat)
  /-- The Toss unit reads `n` bytes of a held word's range early (R248). -/
  | tossRead (core gang held range off n : Nat)
  /-- The Toss unit writes some bytes of a held word's output early (R248). -/
  | tossWrite (core gang held off n : Nat)
  /-- The Teller applies one entry of a flush (R150). -/
  | tellerApply (core : Nat)
  /-- A copy engine reads some bytes of a command's source, or performs some units of its transfer, early (R130, R145). -/
  | engineRead (cmd : Nat) (side : Side) (n : Nat)
  | engineWrite (cmd part off n : Nat)
  /-- The L1 of a core takes in the line of an address, or drops it (R111, R115). -/
  | l1In (core line : Nat)
  | l1Out (core line : Nat)
  /-- The L2 of a tower takes in a copy of a line, or drops it (R113, R119). -/
  | copyIn (tower : Nat) (line : Loc)
  | copyOut (tower : Nat) (line : Loc)
  /-- A TLB takes in the entry that a walk reads at a level (R346): of a core, or (none) of a tower; or drops it. -/
  | tlbIn (tower : Nat) (core : Option Nat) (asid : BitVec 16) (va level : Nat)
  | tlbOut (tower : Nat) (core : Option Nat) (e : TlbEntry)
  deriving DecidableEq, Repr

/-- A path: its address, whether the word there stands as a header (log entry 21), and its eligible lanes (R32, R33). -/
structure Path where
  pc : VAddr
  header : Bool
  lanes : LaneBits
  deriving DecidableEq, Repr

/-- The whole module. -/
structure State where
  part : Part := .p88
  mem : Memory := []
  /-- 32-byte granules of package memory that hold an uncorrectable error (R126). -/
  failing : List Nat := []
  hostMem : Memory := []
  /-- Peer memory, at module × 2^52 + physical address (R344). -/
  peerMem : Memory := []
  cores : List Core := List.replicate 256 {}
  towers : List Tower := List.replicate 8 {}
  parts : List (Option Partition) := List.replicate 16 none
  launches : List Launch := []
  nextLaunch : Nat := 0
  commands : List Command := []
  nextCommand : Nat := 0
  saved : List Saved := []
  /-- Starts, resumes and saves of blocks so far, and launches that have finished step 4 (R334). -/
  starts : Nat := 0
  dequeues : Nat := 0
  ctxbase : Word := 0
  /-- INVSTAT[0], with what is being invalidated: none when idle; every context, one, or one page of one (R347). -/
  inval : Option (Option (BitVec 16 × Option Nat)) := none
  /-- What releases at domain scope have published in peer and host memory, and what synchronisation at device scope without a location
  has (R137, R139, R144). -/
  farPub : List Nat := List.replicate 8 0
  syncPub : List Nat := List.replicate 8 0
  /-- While a launch runs, what each write of memory replaced at its home, latest first: what a command issued without release semantics
  may still read (R145). -/
  homeLog : List (Loc × List Byte) := []
  moduleNum : BitVec 9 := 0
  domainSize : Nat := 1
  mailbox : Mailbox := {}
  hostReply : HostReply := .none
  pwrlim : Nat := 5500
  pwrnow : BitVec 16 := 0
  tlim : Nat := 95
  thrcnt : Nat := 0
  security : Security := {}
  /-- The word being issued: what exec reads (log entry 3). -/
  cur : Issue := {}
  /-- The second path of the current issue opportunity, as it was chosen (R33): its core, gang and path. -/
  second : Option (Nat × Nat × Path) := none
  /-- Who acts next (log entry 4). -/
  turns : List Turn := []
  /-- Argument of the free values, advanced by each use (log entry 6). -/
  freshCount : Nat := 0
  deriving DecidableEq, Repr

/-- Why the machine stops with a fault. -/
inductive Fault
  /-- exec was given an instruction word while `cur` names no gang of a resident block. Raised by every word's meaning;
  step never brings it about. Safe: the hardware has no such step. -/
  | noIssuer
  /-- A store or read outside the memory the part has (R344), by the management core, the host aperture or a peer.
  Raised by those steps. Safe: the spec gives no effect. -/
  | noSuchMemory
  deriving DecidableEq, Repr

/-- Why a step is refused. -/
inductive Refusal
  /-- No meaning yet for the row of the operation table named. Raised by no arm of this model. Safe. -/
  | notModelled (mnemonic : String)
  deriving DecidableEq, Repr

/-- The module right after reset (R357, R370): no tower in service, no partition, no launch, no block, registers at
their reset values, memory with nothing listed. -/
def State.reset : State := {}

end Sys2Proof.Machine
end

