-- ==== Sys2Proof/Machine/Access.lean ====
section
/-! DEFINITION. Reading and replacing one core, block, gang, lane, tower or launch of the state. -/
namespace Sys2Proof.Machine

/-- The outcome of exec and step. -/
abbrev Out := Host.Outcome State Fault Refusal

/-- The core numbered `c` (32 × tower + core). -/
def State.core (s : State) (c : Nat) : Core := s.cores.getD c {}

/-- The state with core `c` replaced. -/
def State.setCore (s : State) (c : Nat) (x : Core) : State := { s with cores := s.cores.set c x }

/-- The block resident on core `c`. -/
def State.block? (s : State) (c : Nat) : Option Block := (s.core c).block

/-- The state with the block of core `c` replaced. -/
def State.setBlock (s : State) (c : Nat) (b : Block) : State := s.setCore c { s.core c with block := some b }

/-- The state with the block of core `c` changed, if it has one. -/
def State.modBlock (s : State) (c : Nat) (f : Block → Block) : State :=
  match s.block? c with
  | none => s
  | some b => s.setBlock c (f b)

/-- Gang `g` of the block on core `c`. -/
def State.gang? (s : State) (c g : Nat) : Option Gang :=
  match s.block? c with
  | none => none
  | some b => b.gangs[g]?

/-- The block with gang `g` replaced. -/
def Block.setGang (b : Block) (g : Nat) (x : Gang) : Block := { b with gangs := b.gangs.set g x }

/-- The state with gang `g` of the block on core `c` replaced. -/
def State.setGang (s : State) (c g : Nat) (x : Gang) : State := s.modBlock c (·.setGang g x)

/-- The state with gang `g` of the block on core `c` changed, if there is one. -/
def State.modGang (s : State) (c g : Nat) (f : Gang → Gang) : State :=
  match s.gang? c g with
  | none => s
  | some x => s.setGang c g (f x)

/-- Tower `t`. -/
def State.tower (s : State) (t : Nat) : Tower := s.towers.getD t {}

/-- The state with tower `t` replaced. -/
def State.setTower (s : State) (t : Nat) (x : Tower) : State := { s with towers := s.towers.set t x }

/-- The state with tower `t` changed. -/
def State.modTower (s : State) (t : Nat) (f : Tower → Tower) : State := s.setTower t (f (s.tower t))

/-- Partition `p`. -/
def State.partition? (s : State) (p : Nat) : Option Partition := (s.parts[p]?).join

/-- The state with partition `p` replaced. -/
def State.setPartition (s : State) (p : Nat) (x : Partition) : State := { s with parts := s.parts.set p (some x) }

/-- The launch numbered `i`. -/
def State.launch? (s : State) (i : Nat) : Option Launch := s.launches.find? (·.id == i)

/-- The state with launch `x` replaced, found by its number. -/
def State.setLaunch (s : State) (x : Launch) : State :=
  { s with launches := s.launches.map (fun y => if y.id = x.id then x else y) }

/-- The tower a core lies on. -/
def towerOf (c : Nat) : Nat := c / 32

/-- Towers of a part (R3). -/
def Part.towers : Part → Nat
  | .p88 => 8 | .p48 => 4 | .p28 => 2

/-- The part code of selector 0x16 (R20). -/
def Part.code : Part → Nat
  | .p88 => 0x88 | .p48 => 0x48 | .p28 => 0x28

/-- Bytes of package memory of the device (R17, R344). -/
def State.packageBytes (s : State) : Nat := s.part.towers * Config.towerBytes

/-- Lane `l` of a gang. -/
def Gang.lane (g : Gang) (l : Nat) : Lane := g.lanes.getD l {}

/-- The gang with each lane in `act` changed. -/
def Gang.modLanes (g : Gang) (act : LaneBits) (f : Nat → Lane → Lane) : Gang :=
  { g with lanes := g.lanes.mapIdx (fun l x => if act.getLsbD l then f l x else x) }

/-- The lanes of a set, lowest first. -/
def laneList (act : LaneBits) : List Nat := (List.range 32).filter (fun l => act.getLsbD l)

/-- The lowest lane of a set (0 for the empty set). -/
def lowLane (act : LaneBits) : Nat := (laneList act).headD 0

/-- The set of the lanes that satisfy a condition. -/
def laneSet (p : Nat → Bool) : LaneBits :=
  (List.range 32).foldl (fun a l => if p l then a ||| BitVec.ofNat 32 (2 ^ l) else a) 0

/-- The lanes of a gang that satisfy a condition. -/
def Gang.lanesWhere (g : Gang) (p : Lane → Bool) : LaneBits := laneSet (fun l => p (g.lane l))

/-- Replacing an element of a list by index; nothing changes past its end. -/
def setAt {α : Type} (l : List α) (i : Nat) (x : α) : List α := l.set i x

/-- Changing an element of a list by index. -/
def modAt {α : Type} (l : List α) (i : Nat) (f : α → α) : List α := l.modify i f

/-- The least element by a key, the first among equals. -/
def minBy? {α : Type} (key : α → Nat) : List α → Option α
  | [] => none
  | x :: xs =>
    match minBy? key xs with
    | none => some x
    | some y => if key y < key x then some y else some x

/-- Inserting into a list sorted by a relation, after its equals. -/
def insertBy {α : Type} (le : α → α → Bool) (x : α) : List α → List α
  | [] => [x]
  | y :: ys => if le y x then y :: insertBy le x ys else x :: y :: ys

/-- Sorting by a relation, stable. -/
def sortBy {α : Type} (le : α → α → Bool) (l : List α) : List α := l.foldl (fun acc x => insertBy le x acc) []

end Sys2Proof.Machine
end

