-- ==== Sys2Proof/Machine/Report.lean ====
section
/-! DEFINITION. Device-to-host messages (R358 to R360) and the towers' error logs (R364). -/
namespace Sys2Proof.Machine

/-- The device may write another entry: s - D2HACK at most 2^size (R358). -/
def Mailbox.room (m : Mailbox) : Bool :=
  m.ready && decide ((m.d2hseq + 1 - m.d2hack).toNat ≤ 2 ^ m.d2hsize)

/-- Words 1 to 7 of a message, and its sequence number, as the 64 bytes of a ring entry (R358). -/
def entryBytes (seq : Word) (words : List Word) : List Byte :=
  leBytes 8 seq.toNat ++ (words.flatMap (fun w => leBytes 8 w.toNat))

/-- Writing an entry at its place in the device-to-host ring (R358). -/
def State.putEntry (s : State) (seq : Word) (words : List Word) : State :=
  let at_ := s.mailbox.d2hbase.toNat + 64 * (seq.toNat % 2 ^ s.mailbox.d2hsize)
  { s with hostMem := cellSetList s.hostMem at_ (entryBytes seq words) }

/-- Device writing (R358): the entry, then D2HSEQ, then MSI-X vector 0. -/
def State.sendEntry (s : State) (words : List Word) : State :=
  let seq := s.mailbox.d2hseq + 1
  let s := s.putEntry seq words
  { s with mailbox := { s.mailbox with d2hseq := seq, msix := s.mailbox.msix + 1, written := s.mailbox.written ++ [words] } }

/-- Words 1 to 7 of a message of a kind, from the argument bits of word 1 and the words from 2 on (R358, R360). -/
def message (kind args : Nat) (rest : List Nat) : List Word :=
  (BitVec.ofNat 64 (kind + args) :: rest.map (BitVec.ofNat 64)) ++ List.replicate (6 - rest.length) 0

/-- Words of an error-log entry (R364). -/
def LogEntry.words (e : LogEntry) : List Nat := [e.kind * 2 ^ 60 + e.addr % 2 ^ 56, e.va % 2 ^ 56, e.loc]

/-- The first tower with an error-log entry that is not yet forwarded. -/
def firstLogged : List Tower → Nat → Option (Nat × LogEntry)
  | [], _ => none
  | t :: ts, i =>
    match t.errlog with
    | [] => firstLogged ts (i + 1)
    | e :: _ => some (i, e)

/-- Writing held messages, then unforwarded log entries, while the ring has room (R358, R364). -/
def State.pumpN : Nat → State → State
  | 0, s => s
  | n + 1, s =>
    if s.mailbox.room then
      match s.mailbox.outbox with
      | w :: ws => State.pumpN n ({ s with mailbox := { s.mailbox with outbox := ws } }.sendEntry w)
      | [] =>
        match firstLogged s.towers 0 with
        | none => s
        | some (t, e) =>
          State.pumpN n ((s.modTower t (fun x => { x with errlog := x.errlog.drop 1 })).sendEntry
            (message 0x83 (t * 2 ^ 8) e.words))
    else s

/-- All that the ring has room for now. -/
def State.pump (s : State) : State :=
  State.pumpN (s.mailbox.outbox.length + (s.towers.map (fun t => t.errlog.length)).sum + 1) s

/-- A message to the host: written now if the ring has room, held otherwise (R358). -/
def State.post (s : State) (words : List Word) : State :=
  { s with mailbox := { s.mailbox with outbox := s.mailbox.outbox ++ [words] } }.pump

/-- An event in a tower's error log (R364): 32 entries, each held until Plovaeben has forwarded it; a full log counts. -/
def Tower.logEvent (t : Tower) (e : LogEntry) : Tower :=
  if t.errlog.length < 32 then { t with errlog := t.errlog ++ [e] } else { t with overflow := t.overflow + 1 }

/-- An event in the error log of tower `t`, forwarded as message 0x83 when the ring has room (R364). -/
def State.log (s : State) (t : Nat) (e : LogEntry) : State := (s.modTower t (·.logEvent e)).pump

end Sys2Proof.Machine
end

