-- ==== Sys2Proof/Machine/Copies.lean ====
section
/-! DEFINITION. Copies of lines (R111, R113, R119, R141): the L1 of a core, the copies in a tower's L2, the updates on their way to
them and the vector clocks. Memory itself (`State.mem`) holds every write at its home from the moment it is performed. -/
namespace Sys2Proof.Machine

/-- Bytes of an L1 line (R111), and of an L2 line (R112). -/
def l1Line : Nat := 64
/-- R112. -/
def l2Line : Nat := 256

/-- The home tower of a package address (R344). -/
def homeOf (pa : Nat) : Nat := pa / Config.towerBytes

/-- The address of a location, and the location at another address of the same space. -/
def Loc.at : Loc → Nat → Loc
  | .pkg _, x => .pkg x
  | .peer m _, x => .peer m x
  | .host _, x => .host x

/-- The physical address of a location, at its home. -/
def Loc.addr : Loc → Nat
  | .pkg a => a
  | .peer _ a => a
  | .host a => a

/-- The L2 line that holds a location. -/
def Loc.line (x : Loc) : Loc := x.at (x.addr / l2Line * l2Line)

/-! ### Scopes (R111, R135) -/

/-- Ensemble scope or wider: an acquire invalidates the L1 (R111). -/
def scopeWide : Scope → Bool
  | .gang | .block => false
  | _ => true

/-- Device scope or wider: the scope reaches parties on other towers (R135); the narrower ones stay within one tower. -/
def scopeDev : Scope → Bool
  | .dev | .dom => true
  | _ => false

/-- Domain scope (R135, R144). -/
def MemOrder.dom (m : MemOrder) : Bool := m.scope == .dom

/-! ### Vector clocks (R141) -/

/-- The least clock that is not behind either of two. -/
def joinClock (x y : List Nat) : List Nat := (List.range 8).map (fun t => max (x.getD t 0) (y.getD t 0))

/-- An update is among those that a clock counts. -/
def Update.within (u : Update) (clock : List Nat) : Bool := decide (u.clock.getD u.src 0 ≤ clock.getD u.src 0)

/-- An update applied to a tower's copy of its line, if it holds one, and counted (R141). -/
def Tower.apply (t : Tower) (u : Update) : Tower :=
  { t with
    copies := t.copies.map (fun c => if c.1 = .pkg u.line then (c.1, u.bytes) else c)
    vclock := t.vclock.set u.src (u.clock.getD u.src 0) }

/-- A clock with every update that precedes those it counts, of a list in the order in which they were sent (R141). -/
def closeClock (us : List Update) (clock : List Nat) : List Nat :=
  us.foldr (fun u c => if u.within c then joinClock c u.clock else c) clock

/-- Every update that a clock counts, and those that precede them, are applied, in the order in which they were sent (R141). -/
def Tower.catchUp (t : Tower) (clock : List Nat) : Tower :=
  if t.inbox.isEmpty then t
  else
    let all := closeClock t.inbox clock
    (t.inbox.filter (·.within all)).foldl Tower.apply { t with inbox := t.inbox.filter (fun u => !u.within all) }

/-- The updates that a tower has not applied and that satisfy a condition are applied (R141). -/
def Tower.catchThese (t : Tower) (p : Update → Bool) : Tower :=
  (t.inbox.filter p).foldl (fun t u => t.catchUp (List.replicate u.src 0 ++ [u.clock.getD u.src 0])) t

/-- What a tower knows of: the updates that it has applied, and those its parties have made or read (R138). -/
def Tower.known (t : Tower) : List Nat := joinClock t.vclock t.heard

/-- A tower learns what a clock counts: it applies those updates (R141). -/
def State.learn (s : State) (t : Nat) (clock : List Nat) : State :=
  if (s.tower t).inbox.isEmpty then s else s.modTower t (·.catchUp clock)

/-- Some tower holds a copy of a line. -/
def State.copied (s : State) : Bool := s.towers.any (fun t => !t.copies.isEmpty)

/-- What all towers know of, together. -/
def State.allKnown (s : State) : List Nat := s.towers.foldl (fun c t => joinClock c t.known) (List.replicate 8 0)

/-- A tower applies every update that is on its way to it (R141): what starts or resumes on it sees all that was there (R31, R314), and
takes no peer or host line from a copy (R119). -/
def State.settleTower (s : State) (t : Nat) : State :=
  s.modTower t (fun x => { x.catchUp s.allKnown with copies := x.copies.filter (fun c => match c.1 with | .pkg _ => true | _ => false) })

/-- The L2 lines that a run of bytes touches. -/
def linesOf (a n : Nat) : List Nat :=
  (List.range ((a + n + l2Line - 1) / l2Line - a / l2Line)).map (fun i => (a / l2Line + i) * l2Line)

/-- A line of package memory has been written at its home: the home sends its update to every other tower, with its clock (R141). -/
def State.sendLine (s : State) (writer : Option Who) (line : Nat) : State :=
  let h := homeOf line
  let clock := (s.tower h).vclock.set h ((s.tower h).vclock.getD h 0 + 1)
  let u : Update := ⟨h, clock, line, cellGetList s.mem line l2Line, writer⟩
  { s with towers := s.towers.mapIdx (fun t x => if t = h then { x with vclock := clock } else { x with inbox := x.inbox ++ [u] }) }

/-! ### Releases and acquires (R137 to R139, R141, R144) -/

/-- What a write of a tower carries to its home: a release at device scope or wider, all that the tower knows of; another write, what
the tower's release fences have passed on; to peer and host memory, a release and a fence at domain scope (R137, R144). -/
def Tower.carries (t : Tower) (far : Bool) (m : MemOrder) : List Nat :=
  if m.rel && (if far then m.dom else scopeDev m.scope) then t.known else if far then t.fencedFar else t.fenced

/-- A release without a location, at device scope (R137 cases 2 and 4). -/
def State.publish (s : State) (t : Nat) : State :=
  if s.copied then { s with syncPub := joinClock s.syncPub (s.tower t).known } else s

/-- A release fence of a tower (R137 case 1): what its later writes carry. -/
def State.releaseFence (s : State) (t : Nat) (scope : Scope) : State :=
  if s.copied && scopeDev scope then
    s.modTower t (fun x => { x with
      fenced := joinClock x.fenced x.known
      fencedFar := if scope == .dom then joinClock x.fencedFar x.known else x.fencedFar })
  else s

/-! ### The caches of a core (R111) -/

/-- Bytes laid over a run that holds them in whole or in part. -/
def overlay (base : Nat) (old : List Byte) (a : Nat) (new : List Byte) : List Byte :=
  old.mapIdx (fun i v => if decide (a ≤ base + i) && decide (base + i < a + new.length) then new.getD (base + i - a) v else v)

/-- A core's L1 drops the lines at some addresses (R111, R115): its tower applies the updates of those lines, so that no later read of
the core returns what is older than the L1 held (R132 item 1). -/
def State.dropL1 (s : State) (core : Nat) (p : Nat → Bool) : State :=
  let k := s.core core
  let gone := k.l1.filter (fun x => p x.1)
  if gone.isEmpty then s
  else
    (s.setCore core { k with l1 := k.l1.filter (fun x => !p x.1) }).modTower (towerOf core)
      (·.catchThese (fun u => gone.any (fun x => x.1 / l2Line * l2Line == u.line)))

/-- An acquire of a party of a tower at a scope (R119, R137, R141, R144): the tower applies what its own parties know of, and at device
scope or wider what the releases had published that its reads have met (`more` adds what those of the acquire's own place have); at
domain scope its copies of peer and host lines go. -/
def State.towerAcquire (s : State) (t : Nat) (scope : Scope) (more : List Nat) : State :=
  let x := s.tower t
  let dev := if scopeDev scope then joinClock x.rumour more else []
  let far := if scope == .dom then x.rumourFar else []
  let s1 := s.learn t (joinClock x.heard (joinClock dev far))
  if scope == .dom && !x.copies.isEmpty then
    s1.modTower t (fun x => { x with copies := x.copies.filter (fun c => match c.1 with | .pkg _ => true | _ => false) })
  else s1

/-- An acquire of lanes of a core at a scope: at ensemble scope or wider the L1 is invalidated too (R111). -/
def State.acquireOn (s : State) (core : Nat) (scope : Scope) (more : List Nat) : State :=
  let s1 := s.towerAcquire (towerOf core) scope more
  if scopeWide scope then s1.dropL1 core (fun _ => true) else s1

/-- An acquire without a location: a departure from a barrier, a pop, a generation that has cleared (R137 cases 2 and 4, R205). -/
def State.acquireSync (s : State) (core : Nat) (sc : Scope) : State := s.acquireOn core sc s.syncPub

/-- What a tower's copy of a line holds, if it has one. -/
def Tower.copy (t : Tower) (line : Loc) : Option (List Byte) := (t.copies.find? (fun c => c.1 == line)).map (·.2)

end Sys2Proof.Machine
end

