-- ==== Sys2Proof/Machine/Translate.lean ====
section
/-! DEFINITION. Address translation (R339 to R345), the bytes at a translated location (R106, R119), and uncorrectable
granules (R126, R127). -/
namespace Sys2Proof.Machine

/-- The permissions and attributes of a leaf (R342). -/
structure Leaf where
  rd : Bool
  wr : Bool
  ex : Bool
  sup : Bool
  ms : Bool
  deriving DecidableEq, Repr

/-- A walk's failure: the kind, the level and the key of R349. -/
structure WalkFault where
  kind : Nat
  level : Nat
  key : Nat
  deriving DecidableEq, Repr

/-- What a walk gives (R340). -/
inductive Walk
  | ok (loc : Loc) (leaf : Leaf)
  | fault (f : WalkFault)
  deriving DecidableEq, Repr

/-- The accesses of R345. -/
inductive AccKind | read | write | both | fetch
  deriving DecidableEq, Repr

/-- The TLBs that serve an access of a core, and of an engine of a tower (R346). -/
def State.coreTlb (s : State) (c : Nat) : List TlbEntry := (s.core c).tlb ++ (s.tower (towerOf c)).tlb
/-- R346. -/
def State.towerTlb (s : State) (t : Nat) : List TlbEntry := (s.tower t).tlb

/-- The `acc` code of a fault buffer entry (R349). -/
def AccKind.code : AccKind → Nat
  | .read => 0 | .write => 1 | .both => 2 | .fetch => 3

/-- Some byte of a run of package memory lies in a failing granule (R126). -/
def State.granulesFail (s : State) (pa n : Nat) : Bool :=
  s.failing.any (fun g => decide (pa < 32 * g + 32) && decide (32 * g < pa + n))

/-- A walk that an uncorrectable table entry has stopped has read it: an event of kind 1 (R349, R364). -/
def State.logWalk (s : State) (f : WalkFault) : State :=
  if f.kind = 4 then s.log (f.key / Config.towerBytes) { kind := 1, addr := f.key } else s

/-- A context entry fails R339. -/
def contextBad (s : State) (e : Nat) : Bool :=
  bitsOf e 63 52 ≠ 0 || bitsOf e 19 1 ≠ 0 || bitsOf e 0 0 = 0
    || decide (bitsOf e 51 20 * 2 ^ 20 + 2 ^ 20 > s.packageBytes)

/-- Page size in bits at a level (R340). -/
def pageBits : Nat → Nat
  | 0 => 16 | 1 => 21 | 2 => 30 | _ => 39

/-- Table size in bits at a level (R340). -/
def tableBits : Nat → Nat
  | 0 => 8 | 1 => 12 | 2 => 12 | _ => 20

/-- The table index of an address at a level (R340). -/
def tableIndex (va lv : Nat) : Nat :=
  match lv with
  | 0 => bitsOf va 20 16
  | 1 => bitsOf va 29 21
  | 2 => bitsOf va 38 30
  | _ => bitsOf va 55 39

/-- A valid table pointer is malformed at a level (R341, R343). -/
def pointerBad (s : State) (e lv : Nat) : Bool :=
  let nx := bitsOf e 51 8 * 256
  lv = 0 || bitsOf e 63 52 ≠ 0 || bitsOf e 7 2 ≠ 0 || nx % 2 ^ tableBits (lv - 1) ≠ 0
    || decide (nx + 2 ^ tableBits (lv - 1) > s.packageBytes)

/-- A valid leaf is malformed at a level (R342, R343); so is one whose page lies on a tower not in service (R371). -/
def leafBad (s : State) (e lv : Nat) : Bool :=
  let tgt := bitsOf e 7 6
  let frame := bitsOf e 51 16 * 2 ^ 16
  lv = 3 || bitsOf e 63 61 ≠ 0 || bitsOf e 15 9 ≠ 0 || tgt = 3
    || (tgt ≠ 1 && bitsOf e 60 52 ≠ 0) || (tgt = 1 && bitsOf e 60 52 = s.moduleNum.toNat)
    || frame % 2 ^ pageBits lv ≠ 0
    || (tgt ≠ 0 && (bitsOf e 8 8 = 1 || bitsOf e 4 4 = 1))
    || (tgt = 0 && (decide (frame + 2 ^ pageBits lv > s.packageBytes) || !(s.tower (frame / Config.towerBytes)).inService))

/-- A leaf's flags (R342). -/
def leafOf (e : Nat) : Leaf :=
  ⟨bitsOf e 2 2 = 1, bitsOf e 3 3 = 1, bitsOf e 4 4 = 1, bitsOf e 5 5 = 1, bitsOf e 8 8 = 1⟩

/-- The location a leaf gives an address (R340, R344). -/
def leafLoc (e lv va : Nat) : Loc :=
  let a := bitsOf e 51 16 * 2 ^ 16 + va % 2 ^ pageBits lv
  match bitsOf e 7 6 with
  | 1 => .peer (bitsOf e 60 52) a
  | 2 => .host a
  | _ => .pkg a

/-- The page an address lies in, at a level; level 4 is the context entry's (R346). -/
def pageAt (va lv : Nat) : Nat := if lv = 4 then 0 else va / 2 ^ pageBits lv

/-- The entry that a TLB holds for an address at a level (R346). -/
def heldEntry (tlb : List TlbEntry) (asid : BitVec 16) (va lv : Nat) : Option Nat :=
  (tlb.find? (fun x => x.asid == asid && x.level == lv && x.page == pageAt va lv)).map (·.entry)

/-- The topmost entry that the translation of an address uses: its level, and the page that it serves there; from memory, it is the context
entry (R339, R340, R346). -/
def topEntry (tlb : List TlbEntry) (asid : BitVec 16) (va : Nat) : Nat × Nat :=
  let lv := ([0, 1, 2, 3].find? (fun lv => (heldEntry tlb asid va lv).isSome)).getD 4
  (lv, pageAt va lv)

/-- The walk from a table at a level; `fuel` is the number of levels left (R340). -/
def walkFrom (s : State) (va : Nat) : Nat → Nat → Walk
  | 0, _ => .fault ⟨2, 0, 0⟩
  | fuel + 1, t =>
    let lv := fuel
    let ea := t + 8 * tableIndex va lv
    if s.granulesFail ea 8 then .fault ⟨4, lv, ea⟩
    else
      let e := memNat s.mem ea 8
      if e % 2 = 0 then .fault ⟨1, lv, ea⟩
      else if e / 2 % 2 = 1 then
        if pointerBad s e lv then .fault ⟨2, lv, ea⟩ else walkFrom s va fuel (bitsOf e 51 8 * 256)
      else if leafBad s e lv then .fault ⟨2, lv, ea⟩
      else .ok (leafLoc e lv va) (leafOf e)

/-- The walk from an entry that a TLB holds (R346). -/
def walkHeld (s : State) (va lv e : Nat) : Walk :=
  if lv = 4 then walkFrom s va 4 (bitsOf e 51 20 * 2 ^ 20)
  else if e / 2 % 2 = 1 then walkFrom s va lv (bitsOf e 51 8 * 256)
  else .ok (leafLoc e lv va) (leafOf e)

/-- The translation of a virtual address in a context (R339, R340), from the lowest entry that a TLB holds, if any (R346). -/
def walk (s : State) (tlb : List TlbEntry) (asid : BitVec 16) (va : Nat) : Walk :=
  match [0, 1, 2, 3, 4].findSome? (fun lv => (heldEntry tlb asid va lv).map (fun e => (lv, e))) with
  | some (lv, e) => walkHeld s va lv e
  | none =>
    let ca := s.ctxbase.toNat + 8 * asid.toNat
    if s.granulesFail ca 8 then .fault ⟨4, 4, ca⟩
    else
      let e := memNat s.mem ca 8
      if contextBad s e then .fault ⟨3, 4, ca⟩ else walkFrom s va 4 (bitsOf e 51 20 * 2 ^ 20)

/-- The entry that a walk from memory reads at a level, if it is one that a TLB may hold: valid, well formed and readable
(R346). `n` is the number of levels from the root down to it. -/
def readEntry (s : State) (va : Nat) : Nat → Nat → Nat → Option Nat
  | 0, _, _ => none
  | n + 1, lv, t =>
    let ea := t + 8 * tableIndex va lv
    let e := memNat s.mem ea 8
    if s.granulesFail ea 8 || e % 2 == 0 then none
    else if e / 2 % 2 = 1 then
      if pointerBad s e lv then none else if n = 0 then some e else readEntry s va n (lv - 1) (bitsOf e 51 8 * 256)
    else if leafBad s e lv then none else if n = 0 then some e else none

/-- The entry of a context at a level, as a TLB may take it in (R346). -/
def fillEntry (s : State) (asid : BitVec 16) (va lv : Nat) : Option TlbEntry :=
  let ca := s.ctxbase.toNat + 8 * asid.toNat
  let e := memNat s.mem ca 8
  if s.granulesFail ca 8 || contextBad s e || decide (4 < lv) then none
  else if lv = 4 then some ⟨asid, 4, 0, e⟩
  else (readEntry s va (4 - lv) 3 (bitsOf e 51 20 * 2 ^ 20)).map (fun e => ⟨asid, lv, pageAt va lv, e⟩)

/-- A leaf admits an access in a mode (R345). -/
def Leaf.allows (l : Leaf) (smode : Bool) (k : AccKind) : Bool :=
  (smode || !l.sup) &&
  match k with
  | .read => l.rd | .write => l.wr | .both => l.rd && l.wr | .fetch => l.ex

/-- The location `n` bytes further on (within a page). -/
def Loc.plus : Loc → Nat → Loc
  | .pkg a, n => .pkg (a + n)
  | .peer m a, n => .peer m (a + n)
  | .host a, n => .host (a + n)

/-- Address of a peer byte in `peerMem`. -/
def peerIndex (m a : Nat) : Nat := m * 2 ^ 52 + a

/-- `n` bytes at a location (R106, R119). -/
def State.readLoc (s : State) : Loc → Nat → List Byte
  | .pkg a, n => cellGetList s.mem a n
  | .peer m a, n => cellGetList s.peerMem (peerIndex m a) n
  | .host a, n => cellGetList s.hostMem a n

/-- The bytes at a location that a read consumes lie in a failing granule (R126); peer and host reads report none here. -/
def State.locFails (s : State) : Loc → Nat → Bool
  | .pkg a, n => s.granulesFail a n
  | _, _ => false

/-- Storing one byte of package memory under R127: bytes of a failing granule that the store does not cover whole are
discarded. `lo`, `n` give the whole run. -/
def putByte (failing : List Nat) (lo n : Nat) (m : Memory) (a : Nat) (v : Byte) : Memory :=
  if failing.contains (a / 32) && !(decide (lo ≤ a / 32 * 32) && decide (a / 32 * 32 + 32 ≤ lo + n)) then m
  else cellSet m a v

/-- Storing a run of bytes into package memory under R127. -/
def putRun (failing : List Nat) (lo n : Nat) : Memory → Nat → List Byte → Memory
  | m, _, [] => m
  | m, a, v :: vs => putRun failing lo n (putByte failing lo n m a v) (a + 1) vs

/-- The failing granules that a run covers only in part (R127). -/
def State.partGranules (s : State) (a n : Nat) : List Nat :=
  s.failing.filter (fun g => decide (a < 32 * g + 32) && decide (32 * g < a + n) &&
    !(decide (a ≤ 32 * g) && decide (32 * g + 32 ≤ a + n)))

/-- Writing a run of bytes into package memory (R114, R127): whole failing granules are mended, partial stores into a
failing granule are discarded and logged as kind 2 at its home tower. -/
def State.writePkg (s : State) (a : Nat) (bytes : List Byte) : State :=
  let n := bytes.length
  let part := s.partGranules a n
  let s1 := { s with
    mem := putRun s.failing a n s.mem a bytes
    failing := s.failing.filter (fun g => !(decide (a ≤ 32 * g) && decide (32 * g + 32 ≤ a + n))) }
  part.foldl (fun s g => s.log (32 * g / Config.towerBytes) { kind := 2, addr := 32 * g }) s1

/-- The lines of a run of package memory have been written: each home applies what the write carries, publishes it, and sends the
line's update; a writing tower has heard of its own write (R137, R138, R141). -/
def State.sendLines (s : State) (t : Option Nat) (writer : Option Who) (knows carry : List Nat) (a n : Nat) : State :=
  (linesOf a n).foldl (fun s line =>
    let h := homeOf line
    let s1 := ((s.learn h (joinClock knows carry)).modTower h (fun x => { x with pub := joinClock x.pub carry })).sendLine writer line
    match t with
    | some t => s1.modTower t (fun x => { x with heard := x.heard.set h ((s1.tower h).vclock.getD h 0) })
    | none => s1) s

/-- While a launch runs, what a write is about to replace is kept (R145). -/
def State.noteWrite (s : State) (loc : Loc) (n : Nat) : State :=
  if s.launches.any (fun l => l.phase == .running) then { s with homeLog := (loc, s.readLoc loc n) :: s.homeLog } else s

/-- Storing a run of bytes at its home. -/
def State.storeHome (s : State) : Loc → List Byte → State
  | .pkg a, bs => s.writePkg a bs
  | .peer m a, bs => { s with peerMem := cellSetList s.peerMem (peerIndex m a) bs }
  | .host a, bs => { s with hostMem := cellSetList s.hostMem a bs }

/-- Writing a run of bytes at its home. -/
def State.writeHome (s : State) (loc : Loc) (bs : List Byte) : State := (s.noteWrite loc bs.length).storeHome loc bs

/-- Writing a run of bytes at a location, by an agent that is no lane and no unit of a tower: it passes on all that the towers know
of (R47, R131, R141; log entry 7). -/
def State.writeLoc (s : State) (loc : Loc) (bs : List Byte) : State :=
  let s1 := s.writeHome loc bs
  if s.copied then
    match loc with
    | .pkg a => s1.sendLines none none s.allKnown s.allKnown a bs.length
    | _ => { s1 with farPub := joinClock s1.farPub s.allKnown }
  else s1

/-- A write of a tower's unit or lane at its home (R112, R113, R116, R119, R131, R141), with what it carries (R137). -/
def State.towerWrite (s : State) (t : Nat) (writer : Option Who) (m : MemOrder) (loc : Loc) (bs : List Byte) : State :=
  let s1 := s.writeHome loc bs
  if s.copied then
    let x := s.tower t
    match loc with
    | .pkg a => s1.sendLines (some t) writer x.vclock (x.carries false m) a bs.length
    | _ => { s1 with farPub := joinClock s1.farPub (x.carries true m) }
  else s1

/-! ### The accesses of lanes (R111 to R116, R119, R141) -/

/-- The pieces of a run that lie in one block of `size` bytes each: address and length. -/
def blockPieces (size : Nat) : Nat → Nat → Nat → List (Nat × Nat)
  | 0, _, _ => []
  | fuel + 1, a, n =>
    if n = 0 then []
    else
      let k := min n (size - a % size)
      (a, k) :: blockPieces size fuel (a + k) (n - k)

/-- The bytes at a location with the tower's posted stores laid over them (R131, R144). -/
def Tower.overPosted (t : Tower) (loc : Loc) (bs : List Byte) : List Byte :=
  t.posted.foldl (fun bs p =>
    match p.acc.spot, p.acc.act with
    | .vm l, .store v => if loc.at l.addr = l then overlay loc.addr bs l.addr v else bs
    | _, _ => bs) bs

/-- `n` bytes read at their home by a tower: it has heard of the writes it reads, and meets what releases have published there (R137,
R138). -/
def State.homeRead (s : State) (t : Nat) (loc : Loc) (n : Nat) : State × List Byte :=
  let bs := s.readLoc loc n
  match loc with
  | .pkg a =>
    let h := homeOf a
    if s.copied && h != t then
      let y := s.tower h
      (s.modTower t (fun x => { x with
        heard := x.heard.set h (max (x.heard.getD h 0) (y.vclock.getD h 0))
        rumour := joinClock x.rumour y.pub }), bs)
    else (s, bs)
  | _ =>
    (if s.copied then s.modTower t (fun x => { x with rumourFar := joinClock x.rumourFar s.farPub }) else s, (s.tower t).overPosted loc bs)

/-- An update carries a write of some of the lanes given. -/
def Update.wroteBy (u : Update) (who : Option Who) : Bool :=
  match u.writer, who with
  | some (c, g, x), some (d, e, y) => c == d && g == e && x &&& y != 0
  | _, _ => false

/-- `n` bytes within one L2 line, as the parties of a tower see them (R113, R119, R141): a copy's, if the tower has one, with the
reader's own writes to it (R132 item 1); else the home's. -/
def State.towerRead (s : State) (t : Nat) (who : Option Who) (loc : Loc) (n : Nat) : State × List Byte :=
  let line := loc.line
  let held := match loc with
    | .pkg a => if homeOf a = t then none else (s.tower t).copy line
    | _ => (s.tower t).copy line
  match held, loc with
  | none, _ => s.homeRead t loc n
  | some _, .pkg _ =>
    let s1 := s.modTower t (·.catchThese (fun u => .pkg u.line == line && u.wroteBy who))
    (s1, (((s1.tower t).copy line).getD []).drop (loc.addr % l2Line) |>.take n)
  | some bs, _ => (s, (s.tower t).overPosted loc ((bs.drop (loc.addr % l2Line)).take n))

/-- `n` bytes as a tower sees them, line by line. -/
def State.towerRun (s : State) (t : Nat) (who : Option Who) (loc : Loc) (n : Nat) : State × List Byte :=
  (blockPieces l2Line (n / l2Line + 2) loc.addr n).foldl (fun acc p =>
    let r := acc.1.towerRead t who (loc.at p.1) p.2
    (r.1, acc.2 ++ r.2)) (s, [])

/-- The line of a core's L1 that holds the `n` bytes at a location (R111). -/
def State.l1Hit (s : State) (core : Nat) (loc : Loc) (n : Nat) : Option (List Byte) :=
  match loc with
  | .pkg a => ((s.core core).l1.find? (fun x => decide (x.1 ≤ a) && decide (a + n ≤ x.1 + l1Line))).map (fun x => (x.2.drop (a - x.1)).take n)
  | _ => none

/-- What a read of lanes of a core returns (R111, R113, R116, R141): `l1` says that the L1 may serve it, `direct` that no copy may. -/
def State.laneRead (s : State) (who : Who) (l1 direct : Bool) (loc : Loc) (n : Nat) : State × List Byte :=
  let t := towerOf who.1
  if direct then s.homeRead t loc n
  else if (s.core who.1).l1.isEmpty && !s.copied && (s.tower t).posted.isEmpty then (s, s.readLoc loc n)
  else match if l1 then s.l1Hit who.1 loc n else none with
    | some bs => (s, bs)
    | none => s.towerRun t (some who) loc n

/-- A lane's write in the L1 of its core, and in the tower's copy of a line of peer or host memory (R111, R119, R141). -/
def State.writeThrough (s : State) (core : Nat) (loc : Loc) (n : Nat) : State :=
  match loc with
  | .pkg a =>
    let k := s.core core
    if k.l1.isEmpty then s
    else s.setCore core { k with l1 := k.l1.map (fun x => (x.1, overlay x.1 x.2 a (cellGetList s.mem a n))) }
  | _ =>
    if !s.copied then s
    else s.modTower (towerOf core) (fun t => { t with copies := t.copies.map (fun x =>
      if x.1 = loc.line then (x.1, overlay x.1.addr x.2 loc.addr (s.readLoc loc n)) else x) })

/-- A write of lanes of a core, performed at its home, with the L1 and the tower's copies following (R111, R119, R131, R141). -/
def State.laneWrite (s : State) (who : Who) (m : MemOrder) (loc : Loc) (bytes : List Byte) : State :=
  (s.towerWrite (towerOf who.1) (some who) m loc bytes).writeThrough who.1 loc bytes.length

/-- The pieces of a run of virtual bytes that lie in one 64 KiB page each: address and length. -/
def pagePieces : Nat → Nat → Nat → List (Nat × Nat)
  | 0, _, _ => []
  | fuel + 1, a, n =>
    if n = 0 then []
    else
      let k := min n (2 ^ 16 - a % 2 ^ 16)
      (a, k) :: pagePieces fuel (a + k) (n - k)

/-- The pieces of a run by pages (R107: every page is a whole number of 64 KiB pages). -/
def piecesOf (a n : Nat) : List (Nat × Nat) := pagePieces (n / 2 ^ 16 + 2) a n

/-- A dispatch or engine read of a virtual run: the bytes, or why it cannot be read. -/
inductive RunFail | fault (f : WalkFault) (va : Nat) | denied (va : Nat) | uncorrectable (va pa : Nat)
  deriving DecidableEq, Repr

/-- The locations of a virtual run, piece by piece, with the access permitted (R345). -/
def State.mapRun (s : State) (tlb : List TlbEntry) (asid : BitVec 16) (smode : Bool) (k : AccKind) :
    List (Nat × Nat) → Except RunFail (List (Loc × Nat × Leaf))
  | [] => .ok []
  | (a, n) :: r =>
    match walk s tlb asid a with
    | .fault f => .error (.fault f a)
    | .ok loc leaf =>
      if leaf.allows smode k then
        match s.mapRun tlb asid smode k r with
        | .error e => .error e
        | .ok l => .ok ((loc, n, leaf) :: l)
      else .error (.denied a)

/-- The first failing byte of a mapped run (R126), with the virtual address it stands for. -/
def State.firstFailing (s : State) (va : Nat) : List (Loc × Nat × Leaf) → Option (Nat × Nat)
  | [] => none
  | (loc, n, _) :: r =>
    match loc with
    | .pkg a =>
      if s.granulesFail a n then
        let bad := (s.failing.filter (fun g => decide (a < 32 * g + 32) && decide (32 * g < a + n))).foldl
          (fun m g => min m (max a (32 * g))) (a + n)
        some (va + (bad - a), bad)
      else s.firstFailing (va + n) r
    | _ => s.firstFailing (va + n) r

/-- Reading a virtual run (R126, R345). -/
def State.readRun (s : State) (tlb : List TlbEntry) (asid : BitVec 16) (smode : Bool) (va n : Nat) : Except RunFail (List Byte) :=
  match s.mapRun tlb asid smode .read (piecesOf va n) with
  | .error e => .error e
  | .ok l =>
    match s.firstFailing va l with
    | some (bad, pa) => .error (.uncorrectable bad pa)
    | none => .ok (l.foldl (fun acc p => acc ++ s.readLoc p.1 p.2.1) [])

/-- Writing mapped pieces. -/
def State.writePieces (s : State) : List (Loc × Nat × Leaf) → List Byte → State
  | [], _ => s
  | (loc, n, _) :: r, bs => (s.writeLoc loc (bs.take n)).writePieces r (bs.drop n)

/-- Writing a virtual run (R345). -/
def State.writeRun (s : State) (tlb : List TlbEntry) (asid : BitVec 16) (smode : Bool) (va : Nat) (bs : List Byte) : Except RunFail State :=
  match s.mapRun tlb asid smode .write (piecesOf va bs.length) with
  | .error e => .error e
  | .ok l => .ok (s.writePieces l bs)

end Sys2Proof.Machine
end

