-- ==== Sys2Proof/Machine/Launches.lean ====
section
/-! DEFINITION. The fields of a launch record (R26) and how a launch ends: its fate record (R330), its completion object
(R47), writes that cannot be made (R380) and the launches cancelled with it (R331). -/
namespace Sys2Proof.Machine

/-- Word `i` of a launch record, as a number. -/
def recWord (w : List Word) (i : Nat) : Nat := (w.getD i 0).toNat

/-- Ensemble size s (R26, W3). -/
def recEns (w : List Word) : Nat := bitsOf (recWord w 3) 16 15 + 1
/-- Gangs per block (R26, W3). -/
def recGangs (w : List Word) : Nat := bitsOf (recWord w 3) 14 9 + 1
/-- Slots per gang (R26, W3). -/
def recSlots (w : List Word) : Nat := bitsOf (recWord w 3) 8 5
/-- Register allotment (R26, W3). -/
def recAllot (w : List Word) : Nat := 16 * (bitsOf (recWord w 3) 4 0 + 1)
/-- Deterministic flag (R26, W3). -/
def recDet (w : List Word) : Bool := bitsOf (recWord w 3) 18 18 = 1
/-- Sliced class (R26, W3). -/
def recSliced (w : List Word) : Bool := bitsOf (recWord w 3) 17 17 = 1
/-- Residue scratchpad in units of 256 elements (R26, W4). -/
def recRsp (w : List Word) : Nat := bitsOf (recWord w 4) 28 16
/-- Data scratchpad in KiB (R26, W4). -/
def recDsp (w : List Word) : Nat := bitsOf (recWord w 4) 9 0
/-- Address in bits [55:0] of a word. -/
def recAddr (w : List Word) (i : Nat) : Nat := recWord w i % 2 ^ 56

/-- The launches of a partition that are past step 4 and unfinished (R329). -/
def State.runningLaunches (s : State) (p : Fin 16) : List Launch :=
  s.launches.filter (fun l => l.part = p && l.phase = .running)

/-- The tower that logs a dispatch event of a partition: that of its first core (log entry 20). -/
def State.homeTower (s : State) (p : Fin 16) : Nat :=
  match s.partition? p.val with
  | none => 0
  | some q => towerOf (q.cores.headD 0)

/-- The 64 bytes of a fate record (R330). -/
def fateBytes (fate reason : Nat) (k : Option KillInfo) : List Byte :=
  let trap := match k with
    | some i => if i.src = 0 then i.trap.map (·.toNat) else [0, 0, 0, 0]
    | none => [0, 0, 0, 0]
  let words := [fate + 256 * reason, (k.map (·.block)).getD 0] ++ (trap ++ [0, 0, 0, 0]).take 4 ++ [(k.map (·.src)).getD 0, 0]
  words.flatMap (leBytes 8)

/-- Writing the fate record of a launch and sending message 0x82 (R330, R360, R380). -/
def State.writeFate (s : State) (l : Launch) (fate reason : Nat) : State :=
  if l.fateAddr = 0 then s
  else
    let k := if fate = 3 then l.kill else none
    let s1 := match s.writeRun [] l.asid l.smode l.fateAddr.toNat (fateBytes fate reason k) with
      | .ok s' => s'
      | .error (.fault f _) => (s.logWalk f).log (s.homeTower l.part) { kind := 11, va := l.fateAddr.toNat }
      | .error _ => s.log (s.homeTower l.part) { kind := 11, va := l.fateAddr.toNat }
    s1.post (message 0x82 (fate * 2 ^ 8) [l.fateAddr.toNat])

/-- Incrementing a completion object in a launch's context: the state, and whether it could be made (R47, R380); a failing
granule that it reads is logged as kind 1 (R364). -/
def State.incrementDone (s : State) (l : Launch) : State × Bool :=
  let a := recAddr l.words 9
  match walk s [] l.asid a with
  | .fault f => (s.logWalk f, false)
  | .ok loc leaf =>
    if !leaf.allows l.smode .both then (s, false)
    else if s.locFails loc 8 then (s.log (loc.addr / Config.towerBytes) { kind := 1, addr := loc.addr }, false)
    else (s.writeLoc loc (leBytes 8 ((ofLeBytes (s.readLoc loc 8) + 1) % 2 ^ 64)), true)

/-- The location a launch's address names, if it translates (R331). -/
def State.nameOf (s : State) (l : Launch) (a : Nat) : Option Loc :=
  if a = 0 then none
  else match walk s [] l.asid a with
    | .ok loc _ => some loc
    | .fault _ => none

/-- The launches of `p` that have not passed step 1 and wait on a location (R331). -/
def State.dependants (s : State) (p : Fin 16) (loc : Option Loc) : List Nat :=
  match loc with
  | none => []
  | some x => (s.launches.filter (fun l => l.part = p && l.phase = .queued && s.nameOf l (recAddr l.words 7) = some x)).map (·.id)

/-- A completion object that will not be incremented is noted for the entries of its partition that dispatch has not read
(R331). -/
def State.noteLost (s : State) (p : Fin 16) (loc : Option Loc) : State :=
  match loc, s.partition? p.val with
  | some x, some q =>
    if q.queues.all (fun k => k.head == k.tail) then s
    else s.setPartition p.val { q with lost := q.lost ++ [(x, q.queues.map (·.tail))] }
  | _, _ => s

/-- The entry of a queue at a place was there when a completion object that it waits on was lost (R331). -/
def Partition.waitsLost (q : Partition) (prio pos : Nat) (loc : Option Loc) : Bool :=
  q.lost.any (fun x => some x.1 == loc && decide (pos < x.2.getD prio 0))

/-- Ending launches one by one: each is given a fate, its record is written, and the launches that wait on its
completion object are cancelled in turn (R331). The list holds launch numbers with fate and reason. -/
def State.endLaunches : Nat → List (Nat × Nat × Nat) → State → State
  | 0, _, s => s
  | _, [], s => s
  | n + 1, (lid, fate, reason) :: r, s =>
    match s.launch? lid with
    | none => State.endLaunches n r s
    | some l =>
      if l.phase = .ended then State.endLaunches n r s
      else
        let s1 := (s.setLaunch { l with phase := .ended, fate := fate }).writeFate l fate reason
        let doneA := recAddr l.words 9
        if fate = 1 then
          if doneA = 0 then State.endLaunches n r s1
          else match s1.incrementDone l with
            | (s2, true) => State.endLaunches n r s2
            | (s2, false) =>
              let s3 := s2.log (s2.homeTower l.part) { kind := 11, va := doneA }
              let x := s3.nameOf l doneA
              State.endLaunches n (r ++ (s3.dependants l.part x).map (fun i => (i, 4, 0))) (s3.noteLost l.part x)
        else
          let x := s1.nameOf l doneA
          State.endLaunches n (r ++ (s1.dependants l.part x).map (fun i => (i, 4, 0))) (s1.noteLost l.part x)

/-- A launch ends with a fate (R330), with all that follows (R331, R380). -/
def State.endLaunch (s : State) (lid fate reason : Nat) : State :=
  State.endLaunches (2 * s.launches.length * s.launches.length + 2) [(lid, fate, reason)] s

/-- A launch ends once every block of its grid has exited (R47), or, once one has been killed, when no started block of it
is left (R331). -/
def State.checkLaunch (s : State) (lid : Nat) : State :=
  match s.launch? lid with
  | none => s
  | some l =>
    if l.phase ≠ .running then s
    else if l.kill.isSome then
      if l.started.all (fun b => l.exited.contains b || l.killed.contains b) then s.endLaunch lid 3 0 else s
    else if l.exited.length = l.grid then s.endLaunch lid 1 0
    else s

end Sys2Proof.Machine
end

