-- ==== Sys2Proof/Machine/Perform.lean ====
section
/-! DEFINITION. Performing the accesses that words have issued (R130 to R133, R143, R144, R147): what orders them, what each does
at its home, and the results that wait for an operation to complete (R39, R40, R185). -/
namespace Sys2Proof.Machine

/-! ### Register and mask results -/

/-- A register with the bits that a result covers replaced (R63). -/
def RegWrite.onto (r : RegWrite) (old : Word) : Word := (old &&& ~~~r.bits) ||| (r.value &&& r.bits)

/-- Changing an allotment register of a lane (absolute index). -/
def Gang.modReg (g : Gang) (l r : Nat) (f : Word → Word) : Gang :=
  { g with lanes := modAt g.lanes l (fun x => { x with regs := regSet x.regs r (f (regGet x.regs r)) }) }

/-- The register results of an operation are written (R185). -/
def Gang.writeRegs (g : Gang) (ws : List RegWrite) : Gang := ws.foldl (fun g w => g.modReg w.lane w.reg w.onto) g

/-- The mask results of an operation are written. -/
def Gang.writeMasks (g : Gang) (ws : List (MaskNo × MaskBits × MaskBits)) : Gang :=
  { g with m := ws.foldl (fun m w => modAt m w.1.val (fun x => (x &&& ~~~w.2.1) ||| w.2.2)) g.m }

/-- The eight mask bits of a lane (R55). -/
def laneMask (l : Nat) : MaskBits := BitVec.ofNat 256 (255 * 2 ^ (8 * l))

/-! ### The scratchpads (R109, R110, R126, R127) -/

/-- A byte of the data scratchpad lies in a group that holds an uncorrectable error (R126). -/
def Block.dsBad (b : Block) (o n : Nat) : Option Nat := (List.range n).find? (fun i => b.dsFail.contains ((o + i) / 8))

/-- A group of the data scratchpad lies wholly inside a run. -/
def groupWhole (o n g : Nat) : Bool := decide (o ≤ 8 * g) && decide (8 * g + 8 ≤ o + n)

/-- Storing into the data scratchpad: bytes of a failing group are discarded unless the store covers it whole (R126, R127). -/
def Block.dsStore (b : Block) (o : Nat) (bytes : List Byte) : Block :=
  let n := bytes.length
  let keep := (bytes.mapIdx (fun i v => (o + i, v))).filter (fun p => !b.dsFail.contains (p.1 / 8) || groupWhole o n (p.1 / 8))
  { b with
    ds := keep.foldl (fun m p => cellSet m p.1 p.2) b.ds
    dsFail := b.dsFail.filter (fun g => !groupWhole o n g)
    dsLog := (o, cellGetList b.ds o n) :: b.dsLog }

/-- The failing groups that a store covers in part: each is an event of kind 2 (R127). -/
def Block.dsPart (b : Block) (o n : Nat) : Nat :=
  (b.dsFail.filter (fun g => decide (o < 8 * g + 8) && decide (8 * g < o + n) && !groupWhole o n g)).length

/-- An event of kind 2 for a scratchpad, which has no physical address: its address field is free (R127, R364; log entry 62). -/
def State.logGroup (s : State) (core : Nat) : State :=
  { s with freshCount := s.freshCount + 1 }.log (towerOf core)
    { kind := 2, addr := (Config.freeWord s.freshCount).toNat % 2 ^ 56 }

/-- Storing into the data scratchpad of the block on a core (R109, R127). -/
def State.storeDs (s : State) (core o : Nat) (bytes : List Byte) : State :=
  match s.block? core with
  | none => s
  | some b => (List.range (b.dsPart o bytes.length)).foldl (fun s _ => s.logGroup core) (s.setBlock core (b.dsStore o bytes))

/-- The channel that a tower has retired (R105). -/
def retiredChannel (s : State) (core : Nat) : Option Nat :=
  let t := s.tower (towerOf core)
  if t.retired then some t.channel.val else none

/-- The retired-channel mask of a core's tower (R316). -/
def State.maskOf (s : State) (c : Nat) : BitVec 8 :=
  match retiredChannel s c with
  | some ch => BitVec.ofNat 8 (2 ^ ch)
  | none => 0

/-- A run of the residue scratchpad stored; a retired channel's bytes stay as they are (R105). -/
def putResidue (rs : Memory) (ret : Option Nat) (o : Nat) (bytes : List Byte) : Memory :=
  cellsPut rs o ((bytes.zip (cellsToList rs o bytes.length)).mapIdx (fun i p => if some ((o + i) / 256 % 8) = ret then p.2 else p.1))

/-- Storing into the residue scratchpad of a block (R110, R105). -/
def Block.rsStore (b : Block) (ret : Option Nat) (o : Nat) (bytes : List Byte) : Block :=
  { b with
    rs := putResidue b.rs ret o bytes
    rsLog := if b.cfg.slots = 0 then b.rsLog else (o, cellsToList b.rs o bytes.length) :: b.rsLog }

/-- `n` bytes of the residue scratchpad from a plane offset, a retired channel's planes zero (R94, R105). -/
def planeBytes (rs : Memory) (ret : Option Nat) (o n : Nat) : List Byte :=
  (cellsToList rs o n).mapIdx (fun i v => if some ((o + i) / 256 % 8) = ret then 0 else v)

/-! ### What an access computes -/

/-- A residue-plane add of bytes that begin at an offset of their 2 048-byte block (R118). -/
def planeAdd (o : Nat) (old new : List Byte) : List Byte :=
  (old.zip new).mapIdx (fun i p => BitVec.ofNat 8 ((p.1.toNat + p.2.toNat) % Config.moduli.getD ((o + i) / 256) 255))

/-- The result of a load from the bytes read (R189). -/
def loaded (w : Width) (sgn : Bool) (bs : List Byte) : Word :=
  if sgn then BitVec.ofNat 64 (lowBits 64 (sintN w.bits (ofLeBytes bs))) else BitVec.ofNat 64 (ofLeBytes bs)

/-- The new value of an atomic (R195), of width `w` bits. -/
def atomNew (op : AtomOp) (w x v c : Nat) : Nat :=
  match op with
  | .aadd => (x + v) % 2 ^ w
  | .aand => x &&& v
  | .aor => x ||| v
  | .axor => x ^^^ v
  | .axch => v
  | .acas => if x = c then v else x
  | .aminI => if sintN w v < sintN w x then v else x
  | .amaxI => if sintN w x < sintN w v then v else x
  | .aminN => min x v
  | .amaxN => max x v
  | .aincw => if v ≤ x then 0 else x + 1
  | .adecw => if x = 0 ∨ v < x then v else x - 1
  | .aaddb => if x + v ≤ c then x + v else x
  | .fadda => fAdd fmtF32 .rne x v
  | .amaxm => fAmaxNode x v
  | .amaxrs => 0

/-- One level of a tree: neighbours combined, the lower first (R122, R181). -/
def pairUp (node : Nat → Nat → Nat) : List Nat → List Nat
  | a :: b :: r => node a b :: pairUp node r
  | l => l

/-- A tree of `k` levels over its leaves (R122, R181). -/
def treeOf (node : Nat → Nat → Nat) : Nat → List Nat → Nat
  | 0, l => l.headD 0
  | k + 1, l => treeOf node k (pairUp node l)

/-- The width of a group load's elements (R123, R192). -/
def GroupOp.width : GroupOp → Width
  | .addI64 => .b64
  | _ => .b32

/-- The identity of a group load's operator (R123). -/
def GroupOp.ident : GroupOp → Nat
  | .addF32 => 0x80000000 | .maxF32 => 0xFF800000 | .minF32 => 0x7F800000 | _ => 0

/-- A node of the combination (R123). -/
def GroupOp.node : GroupOp → Nat → Nat → Nat
  | .addF32 => fAdd fmtF32 .rne
  | .addI32 => fun x y => (x + y) % 2 ^ 32
  | .addI64 => fun x y => (x + y) % 2 ^ 64
  | .maxF32 => fMax fmtF32
  | .minF32 => fMin fmtF32
  | .amaxF32 => fAmaxNode

/-- The combination of R122: with one member no node operates. -/
def groupValue (ens : Nat) (node : Nat → Nat → Nat) (leaves : List Nat) : Nat :=
  if ens = 1 then leaves.headD 0 else if ens = 2 then treeOf node 1 leaves else treeOf node 2 leaves

/-- The leaves of an element: what each rank gave, or the identity for a rank that is absent (R120 to R122). -/
def GroupJob.leavesOf (j : GroupJob) (lane elem : Nat) : List Nat :=
  (List.range (if j.ens = 3 then 4 else j.ens)).map (fun r =>
    ((j.leaves.find? (fun x => x.1 == lane && x.2.1 == elem && x.2.2.1 == r)).map (·.2.2.2)).getD j.op.ident)

/-- The register results of a group load whose leaves have been read: its enabled elements (R192). -/
def GroupJob.results (j : GroupJob) : List RegWrite :=
  let w := j.op.width.bits
  j.els.map (fun x => {
    lane := x.1, reg := x.2.2
    bits := BitVec.ofNat 64 ((2 ^ w - 1) * 2 ^ (w * x.2.1))
    value := BitVec.ofNat 64 (groupValue j.ens j.op.node (j.leavesOf x.1 x.2.1) * 2 ^ (w * x.2.1)) })

/-! ### A lane's own staged entries (R151) -/

/-- The entries not yet applied that a lane has staged on a byte before a load, latest last (R151). -/
def Block.stagedOn (b : Block) (f : Forward) (l a : Nat) : List TellerEntry :=
  sortBy (fun x y => decide (x.seq ≤ y.seq)) (b.teller.filter (fun e => e.gang = f.gang && e.lane = l && decide (e.seq < f.before) &&
    decide (e.addr.toNat ≤ a) && decide (a < e.addr.toNat + e.size)))

/-- The byte a staged store holds for an address. -/
def TellerEntry.byteAt (e : TellerEntry) (a : Nat) : Byte := BitVec.ofNat 8 (e.data.toNat / 2 ^ (8 * (a - e.addr.toNat)))

/-- What a lane's load of a byte takes from its own staged entries (R151): the last store; or, if an atomic is last, the home's value
(none) or the latest store's, freely (log entry 9). -/
def Block.forwardByte (b : Block) (f : Forward) (l i : Nat) : Option Byte :=
  let a := f.va + i
  let es := b.stagedOn f l a
  match es.getLast? with
  | none => none
  | some e =>
    if e.kind = .store then some (e.byteAt a)
    else match (es.filter (fun x => x.kind == .store)).getLast? with
      | none => none
      | some x => if Config.freeChoice (f.fresh + 8 * l + i) then some (x.byteAt a) else none

/-- The bytes of a load with those that the lane's own staged entries supply now in place of the home's (R151). -/
def Block.forwarded (b : Block) (f : Option Forward) (l : Nat) (bs : List Byte) : List Byte :=
  match f with
  | none => bs
  | some f => bs.mapIdx (fun i v => (b.forwardByte f l i).getD v)

/-! ### What orders accesses (R132, R133, R143, R144) -/

/-- The location is peer memory. -/
def Loc.isPeer : Loc → Bool
  | .peer _ _ => true
  | _ => false

/-- The place is in peer or host memory (R144). -/
def Spot.far : Spot → Bool
  | .vm (.peer _ _) | .vm (.host _) => true
  | _ => false

/-- The place is in peer memory. -/
def Spot.isPeer : Spot → Bool
  | .vm l => l.isPeer
  | _ => false

/-- Two runs of bytes meet. -/
def runsMeet (a n b m : Nat) : Bool := decide (a < b + m) && decide (b < a + n)

/-- Two places, with lengths, share a byte. -/
def Spot.meets (x : Spot) (n : Nat) (y : Spot) (m : Nat) : Bool :=
  match x, y with
  | .vm (.pkg a), .vm (.pkg b) => runsMeet a n b m
  | .vm (.peer i a), .vm (.peer j b) => i == j && runsMeet a n b m
  | .vm (.host a), .vm (.host b) => runsMeet a n b m
  | .ds c a, .ds d b => c == d && runsMeet a n b m
  | .rs a, .rs b => runsMeet a n b m
  | _, _ => false

/-- The places an access touches: a residue-plane transfer touches the residue scratchpad too (R193). -/
def Access.spots (x : Access) : List Spot :=
  match x.act with
  | .fill o | .spill o | .reduce o => [x.spot, .rs o]
  | _ => [x.spot]

/-- Two accesses share a byte (R132 item 1). -/
def Access.meets (x y : Access) : Bool := x.spots.any (fun p => y.spots.any (fun q => p.meets x.n q y.n))

/-- The access writes its place. -/
def Access.writes (x : Access) : Bool :=
  match x.act with
  | .store _ | .atomic _ _ _ _ _ | .spill _ | .reduce _ => true
  | _ => false

/-- The access returns what it reads to its lane. -/
def Access.reads (x : Access) : Bool :=
  match x.act with
  | .load _ _ _ _ | .atomic _ _ _ _ _ | .leaf _ _ | .fill _ | .reduce _ => true
  | _ => false

/-- The access is in the order of the scratchpads from its word's place on (R143). -/
def Access.inScratch (x : Access) : Bool :=
  !x.async && (match x.act, x.spot with
    | .leaf _ _, _ => false
    | _, .vm _ => false
    | _, _ => true)

/-- An access `y` earlier in the program order of some lane is ordered before `x` (R132 items 1 to 3, R133, R143); peer and host
accesses are ordered by an acquire or a release at domain scope only (R144). -/
def Access.before (y x : Access) : Bool :=
  y.lanes &&& x.lanes != 0 &&
  (y.meets x || (y.inScratch && x.inScratch)
    || (y.ord.acq && (y.ord.dom || (!y.spot.far && !x.spot.far)))
    || (x.ord.rel && (x.ord.dom || (!y.spot.far && !x.spot.far))))

/-- An access of operation `id` waits for an earlier one of its gang (R132). -/
def Gang.blocked (g : Gang) (id : Nat) (x : Access) : Bool :=
  g.ops.any (fun o => decide (o.id < id) && o.todo.any (·.before x))

/-- Two accesses are requests to one 256-byte line of a peer (R361). -/
def Access.sameLine (x y : Access) : Bool :=
  match x.spot, y.spot with
  | .vm (.peer m a), .vm (.peer k b) => m == k && runsMeet (a / l2Line * l2Line) (a % l2Line + x.n) (b / l2Line * l2Line) (b % l2Line + y.n)
  | _, _ => false

/-- The operations of a gang with accesses to perform: those outstanding, and those of words held on peer memory (R119). -/
def Gang.openOps (g : Gang) : List Op :=
  g.ops ++ g.held.filterMap (fun h => match h.kind with | .peer o _ => some o | _ => none)

/-- A request of operation `id` to a peer waits for an earlier one of its tower to the same line (R361). -/
def State.queuedBehind (s : State) (core gi id : Nat) (x : Access) : Bool :=
  x.spot.isPeer && (List.range 32).any (fun i =>
    let c := 32 * towerOf core + i
    (s.block? c).any (fun b => (b.gangs.zipIdx).any (fun p =>
      p.1.openOps.any (fun o => !(c == core && p.2 == gi && o.id == id) &&
        o.todo.any (fun y => decide (y.turn < x.turn) && y.sameLine x)))))

/-- A write of operation `id` waits for a posted store of its tower to the same bytes: its lane may have read it (R132 item 1). -/
def State.behindPosted (s : State) (core gi id : Nat) (x : Access) : Bool :=
  x.writes && (s.tower (towerOf core)).posted.any (fun p => !(p.core == core && p.gang == gi && p.op == id) && p.acc.meets x)

/-- An access of operation `id` of a gang has to wait (R132, R361). -/
def State.mustWait (s : State) (core gi : Nat) (g : Gang) (id : Nat) (x : Access) : Bool :=
  g.blocked id x || s.queuedBehind core gi id x || s.behindPosted core gi id x

/-- The accesses of an operation that are performed with `x`, in lane order: those of a store or an atomic that meet it (R186). -/
def Op.groupOf (o : Op) (x : Access) : List Access := if x.writes then o.todo.filter (·.meets x) else [x]

/-! ### Performing one access -/

/-- A result for a register, if there is one. -/
def Op.addReg (o : Op) (lane : Nat) (reg : Option Nat) (v : Word) : Op :=
  match reg with
  | some r => { o with regs := o.regs ++ [{ lane := lane, reg := r, value := v }] }
  | none => o

/-- What releases have published at a location: in package memory, and in peer and host memory (R137, R144). -/
def State.pubAt (s : State) : Loc → List Nat
  | .pkg a => (s.tower (homeOf a)).pub
  | _ => s.farPub

/-- What an acquire read of a place does once it has been performed (R111, R119, R137, R141); a place in peer or host memory synchronises
at domain scope only (R144). -/
def State.afterAcquire (s : State) (core : Nat) (m : MemOrder) (sp : Spot) : State :=
  if m.acq then
    match sp with
    | .vm loc => s.acquireOn core m.scope (if sp.far && !m.dom then [] else s.pubAt loc)
    | _ => s.acquireOn core m.scope []
  else s

/-- The bytes an access reads at its place, as its lanes see them. -/
def State.readSpot (s : State) (core gi : Nat) (x : Access) : State × List Byte :=
  match x.spot with
  | .vm loc => s.laneRead (core, gi, x.lanes) (!(x.ord.acq && scopeWide x.ord.scope)) x.direct loc x.n
  | .ds c o => (s, (s.block? c).elim [] (fun b => cellGetList b.ds o x.n))
  | .rs o => (s, (s.block? core).elim [] (fun b => planeBytes b.rs (retiredChannel s core) o x.n))

/-- Bytes written in a scratchpad of the block on a core (R109, R110). -/
def State.writeScratch (s : State) (core : Nat) (sp : Spot) (bytes : List Byte) : State :=
  match sp with
  | .vm _ => s
  | .ds c o => s.storeDs c o bytes
  | .rs o => s.modBlock core (fun b => b.rsStore (retiredChannel s core) o bytes)

/-- Bytes written at the place of an access. -/
def State.writeSpot (s : State) (core gi : Nat) (x : Access) (sp : Spot) (bytes : List Byte) : State :=
  match sp with
  | .vm loc => s.laneWrite (core, gi, x.lanes) x.ord loc bytes
  | _ => s.writeScratch core sp bytes

/-- The lines of a run of package memory leave the L1 of a core, which has read or changed them at their home (R111, R131). -/
def State.dropRun (s : State) (core : Nat) (loc : Loc) (n : Nat) : State :=
  match loc with
  | .pkg a => s.dropL1 core (fun x => runsMeet x l1Line a n)
  | _ => s

/-- An atomic at its home (R131, R195, R196): the state and the old value. -/
def State.atomicAt (s : State) (who : Who) (m : MemOrder) (loc : Loc) (op : AtomOp) (w : Width) (v c : Word) : State × Nat :=
  let (s0, bs) := s.homeRead (towerOf who.1) loc w.bytes
  let x := ofLeBytes bs
  let s1 := s0.laneWrite who m loc (leBytes w.bytes (atomNew op w.bits x (v.toNat % 2 ^ w.bits) (c.toNat % 2 ^ w.bits)))
  (s1.dropRun who.1 loc w.bytes, x)

/-- The mask result of `aaddb` in a lane (R196). -/
def aaddbMask (lane : Nat) (w : Width) (x : Nat) (v c : Word) : MaskNo × MaskBits × MaskBits :=
  (7, laneMask lane, if x + v.toNat % 2 ^ w.bits ≤ c.toNat % 2 ^ w.bits then laneMask lane else 0)

/-- A store that its tower's lanes could see already is seen at its home: it is posted no longer. -/
def State.unpost (s : State) (core gi id : Nat) (x : Access) : State :=
  let t := towerOf core
  if (s.tower t).posted.isEmpty then s
  else s.modTower t (fun y => { y with posted := y.posted.filter (fun p => p != ⟨core, gi, id, x⟩) })

/-- An access performed (R131, R143, R185): the state, and the operation with its result. A granule that has come to fail since the checks
of the word gives the bytes it holds (log entry 71). -/
def State.performOne (core gi : Nat) (p : State × Op) (x : Access) : State × Op :=
  let (s, o) := p
  match x.act with
  | .load w sgn reg own =>
    let (s1, bs) := s.readSpot core gi x
    let v := loaded w sgn ((s.block? core).elim bs (fun b => b.forwarded own x.lane bs))
    (s1.afterAcquire core x.ord x.spot, o.addReg x.lane reg v)
  | .store bytes => ((s.writeSpot core gi x x.spot bytes).unpost core gi o.id x, o)
  | .atomic op w reg v c =>
    match x.spot with
    | .vm loc =>
      let (s1, old) := s.atomicAt (core, gi, x.lanes) x.ord loc op w v c
      let o1 := o.addReg x.lane reg (BitVec.ofNat 64 old)
      (s1.afterAcquire core x.ord x.spot, if op = .aaddb then { o1 with masks := o1.masks ++ [aaddbMask x.lane w old v c] } else o1)
    | _ => (s, o)
  | .fill r =>
    let (s1, bs) := s.readSpot core gi x
    let s2 := match x.spot with | .vm loc => s1.dropRun core loc x.n | _ => s1
    (s2.writeSpot core gi x (.rs r) bs, o)
  | .spill r =>
    let bs := (s.block? core).elim [] (fun b => planeBytes b.rs (retiredChannel s core) r x.n)
    (s.writeSpot core gi x x.spot bs, o)
  | .reduce r =>
    match x.spot with
    | .vm loc =>
      let add := (s.block? core).elim [] (fun b => planeBytes b.rs (retiredChannel s core) r x.n)
      (s.laneWrite (core, gi, x.lanes) x.ord loc (planeAdd (loc.addr % 2048) (s.readLoc loc x.n) add), o)
    | _ => (s, o)
  | .leaf rank e =>
    let (s1, bs) := s.readSpot core gi x
    (s1, { o with group := o.group.map (fun j => { j with leaves := j.leaves ++ [(x.lane, e, rank, ofLeBytes bs)] }) })

/-- The access is a release at domain scope (R144). -/
def Access.domRelease (x : Access) : Bool := x.ord.rel && x.ord.dom

/-- The stores that a tower has posted for other operations are performed at their homes: a release at domain scope waits for those that
its lanes may have read (R138, R144). -/
def State.flushPosted (s : State) (t : Nat) (but : Posted → Bool) : State :=
  ((s.tower t).posted.filter (fun p => !but p)).foldl (fun s p =>
    (((State.performOne p.core p.gang (s, { id := p.op, cls := .a, kind := .memory, clauses := [], lanes := 0 }) p.acc).1).modGang p.core p.gang
      (fun g => { g with ops := g.ops.map (fun o => if o.id = p.op then { o with todo := o.todo.erase p.acc } else o) }))) s

/-- Accesses of an operation performed in order; they are then no longer to be done. -/
def State.performAll (s : State) (core gi : Nat) (o : Op) (xs : List Access) : State × Op :=
  let s0 := if xs.any Access.domRelease then s.flushPosted (towerOf core) (fun p => p.core == core && p.gang == gi && p.op == o.id) else s
  let (s1, o1) := xs.foldl (State.performOne core gi) (s0, o)
  (s1, { o1 with todo := o.todo.filter (fun x => !xs.contains x) })

/-- An operation replaced, by its number. -/
def HeldKind.setOp (o : Op) : HeldKind → HeldKind
  | .peer x vas => .peer (if x.id = o.id then o else x) vas
  | k => k

/-- An operation of a gang replaced, by its number, be it outstanding or that of a held word. -/
def Gang.setOp (g : Gang) (o : Op) : Gang :=
  { g with
    ops := g.ops.map (fun x => if x.id = o.id then o else x)
    held := g.held.map (fun h => { h with kind := h.kind.setOp o }) }

/-- Some accesses of an operation of a gang are performed. -/
def State.performIn (s : State) (core gi : Nat) (o : Op) (xs : List Access) : State :=
  let (s1, o1) := s.performAll core gi o xs
  s1.modGang core gi (·.setOp o1)

/-- The first `n` bytes of what an access does, or those after them. -/
def AccAct.part (first : Bool) (n : Nat) : AccAct → AccAct
  | .store bs => .store (if first then bs.take n else bs.drop n)
  | .fill o => .fill (if first then o else o + n)
  | .spill o => .spill (if first then o else o + n)
  | .reduce o => .reduce (if first then o else o + n)
  | a => a

/-- The place `n` bytes further on. -/
def Spot.plus : Spot → Nat → Spot
  | .vm l, n => .vm (l.plus n)
  | .ds c o, n => .ds c (o + n)
  | .rs o, n => .rs (o + n)

/-- An access cut in two after `n` bytes, where its accesses are separate there (R130). -/
def Access.cut (x : Access) (n : Nat) : List Access :=
  if x.grain = 0 ∨ n = 0 ∨ x.n ≤ n ∨ n % x.grain ≠ 0 then [x]
  else [{ x with n := n, act := x.act.part true n },
        { x with spot := x.spot.plus n, n := x.n - n, act := x.act.part false n }]

/-- An access of an outstanding operation is cut in two (R130; log entry 4), unless it has been posted. -/
def State.splitTurn (s : State) (core gi id k n : Nat) : State :=
  if (s.tower (towerOf core)).posted.any (fun p => p.core == core && p.gang == gi && p.op == id) then s
  else s.modGang core gi (fun g => { g with ops := g.ops.map (fun o =>
    if o.id = id then { o with todo := o.todo.zipIdx.flatMap (fun p => if p.2 = k then p.1.cut n else [p.1]) } else o) })

/-- A store to peer or host memory becomes visible to the lanes of its tower before its home performs it (R131, R144; log entry 4),
once nothing orders it after an access still to be performed. -/
def State.postTurn (s : State) (core gi id k : Nat) : State :=
  match (s.gang? core gi).bind (fun g => (g.ops.find? (·.id == id)).bind (fun o => (o.todo[k]?).map (fun x => (g, x)))) with
  | none => s
  | some (g, x) =>
    let plain := match x.act with | .store _ => true | _ => false
    if !plain || !x.spot.far || g.blocked id x || (s.tower (towerOf core)).posted.any (fun p => p.acc.meets x) then s
    else s.modTower (towerOf core) (fun t => { t with posted := t.posted ++ [⟨core, gi, id, x⟩] })

/-- The lanes whose accesses the accesses of some lanes may have to wait for, over a list of operations, latest first. -/
def orderedLanes (act : LaneBits) : List Op → LaneBits
  | [] => act
  | o :: r => orderedLanes (o.todo.foldl (fun a x => if x.lanes &&& a != 0 then a ||| x.lanes else a) act) r

/-- A request of a tower to peer memory that has still to be performed (R361). -/
structure Request where
  core : Nat
  gang : Nat
  op : Nat
  acc : Access
  deriving DecidableEq, Repr

/-- The requests of a tower to peer memory not yet performed and numbered below a limit, in order (R361). -/
def State.requestsBelow (s : State) (t limit : Nat) : List Request :=
  sortBy (fun x y => decide (x.acc.turn ≤ y.acc.turn)) ((List.range 32).flatMap (fun i =>
    let c := 32 * t + i
    ((s.block? c).elim [] (fun b => b.gangs.zipIdx)).flatMap (fun p =>
      p.1.openOps.flatMap (fun o => (o.todo.filter (fun y => y.spot.isPeer && decide (y.turn < limit))).map (fun y => ⟨c, p.2, o.id, y⟩)))))

/-- Some accesses of the operation numbered `id` of a gang are performed, those still to be done. -/
def State.performNow (s : State) (core gi id : Nat) (p : Access → Bool) : State :=
  match (s.gang? core gi).bind (fun g => g.openOps.find? (·.id == id)) with
  | none => s
  | some o => if o.todo.any p then s.performIn core gi o (o.todo.filter p) else s

/-- The accesses of a list of operations that are ordered before some of those given, directly or through others (R132, R133). -/
def orderedBefore (ops : List Op) (xs : List Access) : List Access :=
  ops.reverse.foldl (fun acc o => acc ++ o.todo.filter (fun y => (xs ++ acc).any (y.before ·))) []

/-- Before a request to peer memory is made, the older requests of its tower to the same line are, each with what is ordered before it
(R361); `n` bounds the depth. -/
def State.olderFirst : Nat → Nat → Access → State → State
  | 0, _, _, s => s
  | n + 1, t, x, s =>
    if !x.spot.isPeer then s
    else ((s.requestsBelow t x.turn).filter (fun r => r.acc.sameLine x)).foldl (fun s r =>
      match s.gang? r.core r.gang with
      | none => s
      | some g =>
        let ops := g.ops.filter (fun o => decide (o.id < r.op))
        let need := orderedBefore ops [r.acc]
        let s1 := need.foldl (fun s y => State.olderFirst n t y s) s
        (ops.foldl (fun s o => s.performNow r.core r.gang o.id need.contains) s1).performNow r.core r.gang r.op (· == r.acc)) s

/-- Accesses of a tower to peer memory wait for its older requests (R361). -/
def State.sendPeers (s : State) (t : Nat) (xs : List Access) : State :=
  (xs.filter (·.spot.isPeer)).foldl (fun s x => State.olderFirst ((s.requestsBelow t x.turn).length + 1) t x s) s

/-- A unit of a tower is about to make a request of its own to a place in peer memory: the older requests to its line are made (R361). -/
def State.peersFirst (s : State) (t : Nat) (loc : Loc) (n : Nat) : State :=
  if loc.isPeer then
    s.sendPeers t [{ lane := 0, lanes := 0, spot := .vm loc, n := n, act := .store [], turn := (s.tower t).requests + 1 }]
  else s

/-- What a gang has issued and is ordered before some accesses is performed (R132, R133): those accesses are about to be made. -/
def State.performFirst (s : State) (core gi : Nat) (xs : List Access) : State :=
  match s.gang? core gi with
  | none => s
  | some g =>
    let need := orderedBefore g.ops xs
    if need.isEmpty then s
    else g.ops.foldl (fun s o => s.performNow core gi o.id need.contains) (s.sendPeers (towerOf core) need)

/-- Every access that the lanes of a set have issued is performed (R132 item 3, R137, R147), those of peer and host memory too where
`far` says so (R144): what a release that is no access of memory waits for. -/
def State.performBefore (s : State) (core gi : Nat) (act : LaneBits) (far : Bool) : State :=
  match s.gang? core gi with
  | none => s
  | some g =>
    if g.ops.all (fun o => o.todo.isEmpty) then s
    else
      let lanes := orderedLanes act g.ops.reverse
      let p := fun (x : Access) => x.lanes &&& lanes != 0 && (far || !x.spot.far)
      g.ops.foldl (fun s o => s.performNow core gi o.id p) (s.sendPeers (towerOf core) (g.ops.flatMap (fun o => o.todo.filter p)))

/-- The leaves that group loads have still to read of the block on a core are read (R124): it is about to end. -/
def State.readLeaves (s : State) (core : Nat) : State :=
  (List.range s.cores.length).foldl (fun s c =>
    match s.block? c with
    | none => s
    | some b =>
      (List.range b.gangs.length).foldl (fun s gi =>
        match s.gang? c gi with
        | none => s
        | some g => g.ops.foldl (fun s o =>
          let xs := o.todo.filter (fun x => match x.act, x.spot with
            | .leaf _ _, .ds d _ => d == core
            | _, _ => false)
          if xs.isEmpty then s else s.performIn c gi o xs) s) s) s

/-- Accesses that a kill leaves are each performed once or not at all (R152; log entry 9); one that others may have seen is performed. -/
def State.maybePerform (s : State) (core gi : Nat) (o : Op) : State :=
  (o.todo.filter Access.writes).foldl (fun (s : State) x =>
    let s1 := { s with freshCount := s.freshCount + 1 }
    if Config.freeChoice s.freshCount || (s.tower (towerOf core)).posted.contains ⟨core, gi, o.id, x⟩ then
      (State.performOne core gi (s1, o) x).1
    else s1) s

end Sys2Proof.Machine
end

