-- ==== Sys2Proof/Machine/TossUnit.lean ====
section
/-! DEFINITION. The Toss unit as a function (R233 to R246): the generator (R237), weights and order (R238, R239), the cuts (R240),
what a word computes from the bytes it reads (R241 to R245), and the output of a word that is abandoned (R251). -/
namespace Sys2Proof.Machine

/-! ### The generator (R237) -/

/-- rotl of R237. -/
def rotl32 (v s : Nat) : Nat := (v * 2 ^ s + v / 2 ^ (32 - s)) % 2 ^ 32

/-- The four words x[0] to x[3] of the generator. -/
structure TossX where
  x0 : Nat
  x1 : Nat
  x2 : Nat
  x3 : Nat
  deriving DecidableEq, Repr

/-- inject(s) of R237. -/
def TossX.inject (x : TossX) (ks : List Nat) (s : Nat) : TossX :=
  let k := fun w => ks.getD ((s + w) % 5) 0
  ⟨(x.x0 + k 0) % 2 ^ 32, (x.x1 + k 1) % 2 ^ 32, (x.x2 + k 2) % 2 ^ 32, (x.x3 + k 3 + s) % 2 ^ 32⟩

/-- One round of R237. -/
def TossX.round (x : TossX) (ks : List Nat) (i : Nat) : TossX :=
  let a := (x.x0 + x.x1) % 2 ^ 32
  let b := rotl32 x.x1 ([13, 26, 9, 21].getD (i % 4) 0) ^^^ a
  let c := (x.x2 + x.x3) % 2 ^ 32
  let d := rotl32 x.x3 ([17, 5, 30, 11].getD (i % 4) 0) ^^^ c
  let y : TossX := ⟨a, d, c, b⟩
  if i % 4 = 3 then y.inject ks ((i + 1) / 4) else y

/-- Toss-128 (R237): a 128-bit output from a key and a counter. -/
def toss128 (key ctr : Nat) : Nat :=
  let w := fun (n i : Nat) => n / 2 ^ (32 * i) % 2 ^ 32
  let ks := [w key 0, w key 1, w key 2, w key 3, w key 0 ^^^ w key 1 ^^^ w key 2 ^^^ w key 3 ^^^ 0x6A5D39C3]
  let x0 := (TossX.mk (w ctr 0) (w ctr 1) (w ctr 2) (w ctr 3)).inject ks 0
  let x := (List.range 12).foldl (fun x i => x.round ks i) x0
  x.x0 + 2 ^ 32 * x.x1 + 2 ^ 64 * x.x2 + 2 ^ 96 * x.x3

/-! ### Weights and order (R238, R239) -/

/-- The greatest r with r^256 ≤ p, by its bits from `k - 1` down. -/
def root256 (p : Nat) : Nat → Nat → Nat
  | 0, r => r
  | k + 1, r => root256 p k (if (r + 2 ^ k) ^ 256 ≤ p then r + 2 ^ k else r)

/-- T[f] of R238. -/
def weightTable (f : Nat) : Nat :=
  if f = 0 then 0xFFFFFFFF
  else
    let p := 2 ^ (8192 - f)
    let r := root256 p 32 0
    if (2 * r + 1) ^ 256 < p * 2 ^ 256 then r + 1 else r

/-- floor(y × 256) of a finite value (R238). -/
def floor256 (neg : Bool) (m : Nat) (e : Int) : Int :=
  let k := e + 8
  if 0 ≤ k then signedNat neg (m * 2 ^ k.toNat) else signedNat neg m / (2 ^ (-k).toNat : Nat)

/-- The weight of a logit (R238); every operand is an f32 bit pattern. -/
def tossWeight (l lmax invT : Nat) : Nat :=
  let v := fmtF32.val l
  if v.isNan || v == .inf true then 0
  else if invT = 0x7F800000 then (if fCeq fmtF32 l lmax then 0xFFFFFFFF else 0)
  else
    let dl := if fCeq fmtF32 l lmax then 0 else fSub fmtF32 .rne l lmax
    let d := fMul fmtF32 .rne dl invT
    match fmtF32.val (fMul fmtF32 .rne d 0x3FB8AA3B) with
    | .fin neg m e =>
      let y := floor256 neg m e
      if y < -8192 then 0
      else
        let k := (-y).toNat
        if 31 < k / 256 then 0 else weightTable (k % 256) / 2 ^ (k / 256)
    | _ => 0

/-- A token with its logit and weight (R236). -/
structure TossEntry where
  index : Nat
  logit : Nat
  w : Nat
  deriving DecidableEq, Repr

/-- The total order (R239): not after. -/
def TossEntry.le (a b : TossEntry) : Bool :=
  let na := (fmtF32.val a.logit).isNan
  let nb := (fmtF32.val b.logit).isNan
  if na || nb then (if na == nb then decide (a.index ≤ b.index) else nb)
  else if fClt fmtF32 b.logit a.logit then true
  else if fClt fmtF32 a.logit b.logit then false
  else decide (a.index ≤ b.index)

/-- The entries of nonzero weight in the total order, the first `k` of them (R240). -/
def tossCandidates (es : List TossEntry) (k : Nat) : List TossEntry :=
  (sortBy TossEntry.le (es.filter (fun e => e.w != 0))).take k

/-- The sum of the weights. -/
def tossSum (es : List TossEntry) : Nat := (es.map (·.w)).sum

/-- The shortest run of entries from the front whose weights reach the target (R240). -/
def cutTo (target : Nat) : List TossEntry → Nat → List TossEntry
  | [], _ => []
  | e :: r, run => if target ≤ run then [] else e :: cutTo target r (run + e.w)

/-- The top-p cut (R240). -/
def topP (es : List TossEntry) (invT p16 : Nat) : List TossEntry :=
  if invT = 0x7F800000 ∨ p16 = 0 then es else cutTo ((tossSum es * p16 + 65535) / 65536) es 0

/-! ### The record (R235) -/

/-- Word `i` of a sampling record. -/
def tw (r : List Word) (i : Nat) : Nat := (r.getD i 0).toNat

/-- logits. -/
def tossLogits (r : List Word) : Nat := bitsOf (tw r 0) 55 0
/-- base. -/
def tossBase (r : List Word) : Nat := bitsOf (tw r 1) 47 24
/-- n. -/
def tossN (r : List Word) : Nat := bitsOf (tw r 1) 23 0
/-- V. -/
def tossV (r : List Word) : Nat := bitsOf (tw r 2) 55 32
/-- invT. -/
def tossInvT (r : List Word) : Nat := bitsOf (tw r 2) 31 0
/-- p16. -/
def tossP16 (r : List Word) : Nat := bitsOf (tw r 3) 47 32
/-- lmax. -/
def tossLmax (r : List Word) : Nat := bitsOf (tw r 3) 31 0
/-- cap. -/
def tossCap (r : List Word) : Nat := bitsOf (tw r 4) 55 32
/-- h. -/
def tossH (r : List Word) : Nat := bitsOf (tw r 8) 7 0 + 1
/-- The key of R237. -/
def tossKey (r : List Word) : Nat := tw r 9 + 2 ^ 64 * tw r 10
/-- The counter of R237 with a draw index. -/
def tossCtr (r : List Word) (draw : Nat) : Nat :=
  bitsOf (tw r 11) 31 0 + 2 ^ 32 * draw + 2 ^ 56 * bitsOf (tw r 12) 63 24 + 2 ^ 96 * bitsOf (tw r 11) 63 32
/-- draw. -/
def tossDrawIdx (r : List Word) : Nat := bitsOf (tw r 12) 23 0
/-- K of R240. -/
def tossK (r : List Word) : Nat :=
  if tossInvT r = 0x7F800000 then 1 else if bitsOf (tw r 4) 15 0 = 0 then tossV r else bitsOf (tw r 4) 15 0

/-- A reserved field of the record is nonzero (R235). -/
def tossReserved (r : List Word) : Bool :=
  [0, 2, 4, 5, 6, 7].any (fun i => bitsOf (tw r i) 63 56 != 0) || [1, 3].any (fun i => bitsOf (tw r i) 63 48 != 0)
    || bitsOf (tw r 4) 31 16 != 0 || bitsOf (tw r 8) 63 8 != 0 || [13, 14, 15].any (fun i => tw r i != 0)

/-- Bytes of a logit (R233). -/
def logitBytes (t : FFmt) : Nat := (floatWidth t).bytes

/-- The little-endian words of a run of bytes. -/
def wordsOf : Nat → List Byte → List Nat
  | 0, _ => []
  | k + 1, bs => ofLeBytes (bs.take 8) :: wordsOf k (bs.drop 8)

/-! ### What a word computes (R241 to R245) -/

/-- What a word comes to: a reason of R246, or the result of each lane and the bytes it writes. -/
inductive TossResult
  | bad (reason : Nat)
  | done (val : Nat → Nat) (out : List Byte)

/-- The little-endian numbers of `n` bytes each in a run of bytes. -/
def chunksOf (n : Nat) : Nat → List Byte → List Nat
  | 0, _ => []
  | k + 1, bs => ofLeBytes (bs.take n) :: chunksOf n k (bs.drop n)

/-- A bf16 logit in its widened f32 form (R81, R242). -/
def widenLogit (t : FFmt) (x : Nat) : Nat :=
  match t with
  | .f32 => x
  | .bf16 => fmtF32.ofVal .rne false (fmtBf16.val x)

/-- The logits as f32 (R233). -/
def logitsOf (t : FFmt) (n : Nat) (bs : List Byte) : List Nat := (chunksOf (logitBytes t) n bs).map (widenLogit t)

/-- `tossmax` (R241). -/
def maxOf (ls : List Nat) : Nat :=
  match ls.filter (fun l => !(fmtF32.val l).isNan) with
  | [] => 0xFF800000
  | x :: xs => xs.foldl (fMax fmtF32) x

/-- The 16 bytes of a list entry (R236). -/
def entryBytes16 (index logit w1 : Nat) : List Byte := leBytes 8 (index * 2 ^ 32 + logit) ++ leBytes 8 w1

/-- `tosscand` (R242). -/
def candOf (r : List Word) (ls : List Nat) : TossResult :=
  if ls.any (fun l => fClt fmtF32 (tossLmax r) l) then .bad 4
  else
    let es := ls.mapIdx (fun i l => TossEntry.mk (tossBase r + i) l (tossWeight l (tossLmax r) (tossInvT r)))
    let c := tossCandidates es (tossK r)
    if tossCap r < c.length then .bad 5
    else .done (fun _ => c.length) (c.flatMap (fun e => entryBytes16 e.index e.logit e.w))

/-- A candidate entry that breaks R236. -/
def candBad (v : Nat) (e : Nat × Nat) : Bool :=
  bitsOf e.1 63 56 != 0 || bitsOf e.2 63 32 != 0 || decide (v ≤ bitsOf e.1 55 32) || (fmtF32.val (bitsOf e.1 31 0)).isNan

/-- Pairs of words. -/
def pairsOf : List Nat → List (Nat × Nat)
  | a :: b :: r => (a, b) :: pairsOf r
  | _ => []

/-- The running sums of a list of entries in ascending index (R243). -/
def runningSums : List TossEntry → Nat → List (TossEntry × Nat)
  | [], _ => []
  | e :: r, n => (e, n + e.w) :: runningSums r (n + e.w)

/-- `tossmerge` (R243) on the shard table's entries and the entries of each list. -/
def mergeOf (r : List Word) (tab : List (Nat × Nat)) (lists : List (List (Nat × Nat))) : TossResult :=
  let bad := (tab.zip lists).any (fun p =>
    bitsOf p.1.1 63 56 != 0 || bitsOf p.1.2 63 24 != 0 || p.2.any (candBad (tossV r)))
  let es := lists.flatten.map (fun e => TossEntry.mk (bitsOf e.1 55 32) (bitsOf e.1 31 0) (bitsOf e.2 31 0))
  let idx := es.map (·.index)
  if bad then .bad 6
  else if idx.eraseDups.length ≠ idx.length then .bad 7
  else
    let l := topP (tossCandidates es (tossK r)) (tossInvT r) (tossP16 r)
    if tossCap r < l.length then .bad 5
    else
      let out := runningSums (sortBy (fun a b => decide (a.index ≤ b.index)) l) 0
      .done (fun _ => l.length) (leBytes 8 l.length ++ leBytes 8 (tossSum l) ++
        out.flatMap (fun p => entryBytes16 p.1.index p.1.logit p.2))

/-- `tossdraw` (R244) on the words of the merged list. -/
def drawOf (r : List Word) (ws : List (Nat × Nat)) : TossResult :=
  let h := ws.headD (0, 0)
  let es := ws.drop 1
  if bitsOf h.1 63 24 ≠ 0 ∨ tossCap r < bitsOf h.1 23 0 then .bad 8
  else if es.any (fun e => bitsOf e.1 63 56 != 0 || decide (tossV r ≤ bitsOf e.1 55 32)) then .bad 8
  else if h.2 ≠ (es.getLast?.map (·.2)).getD 0 then .bad 8
  else if h.2 = 0 then .done (fun _ => tossV r + 2 ^ 32) []
  else
    let t := toss128 (tossKey r) (tossCtr r (tossDrawIdx r)) / 2 ^ 64 * h.2 / 2 ^ 64
    .done (fun _ => ((es.find? (fun e => decide (t < e.2))).map (fun e => bitsOf e.1 55 32)).getD 0) []

/-- `tossgen` (R245) in a lane. -/
def genOf (r : List Word) (hi : Bool) (lane : Nat) : Nat :=
  let o := toss128 (tossKey r) (tossCtr r ((tossDrawIdx r + lane) % 2 ^ 24))
  if hi then o / 2 ^ 64 else o % 2 ^ 64

/-- What the word computes from the bytes of its ranges (R241 to R246, check 5.5). -/
def TossJob.result (j : TossJob) (ins : List (List Byte)) : TossResult :=
  let r := j.words
  let list := fun (bs : List Byte) => pairsOf (wordsOf (bs.length / 8) bs)
  match j.kind with
  | .max t => .done (fun _ => maxOf (logitsOf t (tossN r) (ins.headD []))) []
  | .cand t => candOf r (logitsOf t (tossN r) (ins.headD []))
  | .merge => mergeOf r (list (ins.headD [])) ((ins.drop 1).map list)
  | .draw => drawOf r (list (ins.headD []))
  | .genHi => .done (genOf r true) []
  | .genLo => .done (genOf r false) []

/-! ### Ranges and the bytes of a word (R246, R248) -/

/-- The places of a run of a range: those of its locations that it covers. -/
def slicePlaces : List (Loc × Nat × Bool) → Nat → Nat → List (Loc × Nat × Bool)
  | [], _, _ => []
  | (l, k, d) :: r, o, n =>
    let a := min o k
    let m := min n (k - a)
    (if m = 0 then [] else [(l.plus a, m, d)]) ++ slicePlaces r (o - a) (n - m)

/-- Bytes at places, as the unit reads them for the lanes of a word: no L1 serves it, a memory-side line is read at its base die, and the
L1 of the word's core is no older afterwards (R111, R115, R132 item 1, R141). -/
def State.readPlaces (s : State) (who : Who) (ps : List (Loc × Nat × Bool)) : State × List Byte :=
  ps.foldl (fun acc p =>
    let r := acc.1.laneRead who false p.2.2 p.1 p.2.1
    (r.1.dropRun who.1 p.1 p.2.1, acc.2 ++ r.2)) (s, [])

/-- The bytes of a range: those that the unit has read, and the others as they are now (R248). -/
def TossRange.read (q : TossRange) (s : State) (who : Who) : State × List Byte :=
  let r := s.readPlaces who q.locs
  (r.1, q.got.foldl (fun bs x => overlay 0 bs x.1 x.2) r.2)

/-- The unit reads a run of a range ahead of the others (R248; log entry 4). -/
def TossRange.readSome (q : TossRange) (s : State) (who : Who) (o n : Nat) : State × TossRange :=
  let r := s.readPlaces who (slicePlaces q.locs o n)
  (r.1, { q with got := (o, r.2) :: q.got })

/-- The accesses that a range stands for in the program order of some lanes (R132, R133). -/
def TossRange.accesses (q : TossRange) (act : LaneBits) : List Access :=
  q.locs.map (fun p => { lane := 0, lanes := act, spot := .vm p.1, n := p.2.1, act := .load .b8 false none none })

/-- The bytes of the ranges of a word. -/
def State.readRanges (s : State) (who : Who) (qs : List TossRange) : State × List (List Byte) :=
  qs.foldl (fun acc q =>
    let r := q.read acc.1 who
    (r.1, acc.2 ++ [r.2])) (s, [])

/-- The offset lies in one of some runs. -/
def inRuns (ls : List (Nat × Nat)) (i : Nat) : Bool := ls.any (fun p => decide (p.1 ≤ i) && decide (i < p.1 + p.2))

/-- The first byte of a range that the unit has still to read and that lies in a failing granule, its own staged bytes (`own`) apart
(R126, R246 check 5.4): its virtual and its physical address. -/
def TossRange.firstBad (q : TossRange) (s : State) (own : Nat → Bool) : Option (Nat × Nat) :=
  if s.failing.isEmpty then none
  else
    let runs := q.got.map (fun x => (x.1, x.2.length))
    (q.locs.foldl (fun (acc : Nat × Option (Nat × Nat)) p =>
      (acc.1 + p.2.1, acc.2.or (match p.1 with
        | .pkg a => ((List.range p.2.1).find? (fun i =>
            s.failing.contains ((a + i) / 32) && !inRuns runs (acc.1 + i) && !own (acc.1 + i))).map (fun i => (q.va + acc.1 + i, a + i))
        | _ => none))) (0, none)).2

/-- Writing bytes at places, each byte for which `keep` holds. -/
def State.writePlaces (s : State) (who : Who) (keep : Nat → Bool) : List (Loc × Nat × Bool) → Nat → List Byte → State
  | [], _, _ => s
  | (loc, n, _) :: r, o, bs =>
    if bs.isEmpty then s
    else
      let s1 := if (List.range n).all (fun i => keep (o + i)) then s.laneWrite who {} loc (bs.take n)
        else (List.range (min n bs.length)).foldl (fun s i =>
          if keep (o + i) then s.laneWrite who {} (loc.plus i) [bs.getD i 0] else s) s
      s1.writePlaces who keep r (o + n) (bs.drop n)

/-- A word that is abandoned, by a save or by a kill, may have written any of its output bytes (R152, R251; log entry 17); in a
deterministic launch it writes none of them itself (R250). -/
def State.maybeToss (s : State) (who : Who) (det : Bool) (j : TossJob) : State :=
  match j.outs with
  | [] => s
  | q :: _ =>
    if det || (j.ins.any (fun x => (x.firstBad s (fun _ => false)).isSome)) then s
    else
      let (s1, ins) := s.readRanges who j.ins
      match j.result ins with
      | .bad _ => s
      | .done _ out =>
        ({ s1 with freshCount := s1.freshCount + out.length } : State).writePlaces who
          (fun i => Config.freeChoice (s1.freshCount + i) && !inRuns q.did i) q.locs 0 out

end Sys2Proof.Machine
end

