-- ==== Sys2Proof/Machine/Ops.lean ====
section
/-! DEFINITION. The shared operations of the words: the context of a word, moving lanes on, clause instances and flags (R39),
held words (R32), taking a trap (R305 to R310, R323, R324), the end of a handler (R308, R311, R312), barriers (R200),
Clearing (R204) and the release of a block's state (R324). -/
namespace Sys2Proof.Machine

/-! ### The word being issued -/

/-- The block, the gang and the issue data of the word exec runs. -/
structure Ctx where
  blk : Block
  g : Gang
  iss : Issue
  deriving DecidableEq, Repr

/-- The context of `s.cur`, if it names a gang of a resident block (log entry 3). -/
def ctx? (s : State) : Option Ctx :=
  match s.block? s.cur.core with
  | none => none
  | some b =>
    match b.gangs[s.cur.gang]? with
    | none => none
    | some g => some ⟨b, g, s.cur⟩

/-- A step of another agent that may or may not be possible: one that is not possible changes nothing (log entry 4). -/
def happens (s : State) (r : Option State) : Out := .next (r.getD s)

/-- Running a meaning in the context of the word being issued. -/
def withCtx (s : State) (k : Ctx → Out) : Out :=
  match ctx? s with
  | none => .fault .noIssuer
  | some c => k c

/-- The cause codes of R307. -/
def Cause.illegalEncoding : Nat := 0x01
/-- R307. -/
def Cause.privileged : Nat := 0x02
/-- R307. -/
def Cause.registerBounds : Nat := 0x03
/-- R307. -/
def Cause.windowBounds : Nat := 0x04
/-- R307. -/
def Cause.illegalConvergence : Nat := 0x05
/-- R307. -/
def Cause.formatDivergence : Nat := 0x06
/-- R307. -/
def Cause.formatIllegal : Nat := 0x07
/-- R307. -/
def Cause.scaleMismatch : Nat := 0x08
/-- R307. -/
def Cause.rangeAmbiguous : Nat := 0x09
/-- R307. -/
def Cause.residueUncorrectable : Nat := 0x0A
/-- R307. -/
def Cause.misaligned : Nat := 0x0B
/-- R307. -/
def Cause.accessViolation : Nat := 0x0C
/-- R307. -/
def Cause.uncorrectableData : Nat := 0x0D
/-- R307. -/
def Cause.queueUnbound : Nat := 0x0E
/-- R307. -/
def Cause.partnerLost : Nat := 0x0F
/-- R307. -/
def Cause.selfDeadlock : Nat := 0x10
/-- R307. -/
def Cause.escrowFull : Nat := 0x11
/-- R307. -/
def Cause.groupMembership : Nat := 0x12
/-- R307. -/
def Cause.tossInput : Nat := 0x13
/-- R307. -/
def Cause.software : Nat := 0x14
/-- R307. -/
def Cause.breakpoint : Nat := 0x15

/-- TINFO of the causes 0x0B, 0x0C and 0x0D: the address and the space (R306). -/
def spaceInfo (addr space : Nat) : Nat := addr % 2 ^ 56 + space * 2 ^ 56

/-! ### Clause instances and flags (R39) -/

/-- The held word numbered `id`. -/
def Gang.heldOf (g : Gang) (id : Nat) : Option Held := g.held.find? (·.id == id)

/-- The word has issued, and its lanes wait for its end (and not to issue). -/
def HeldKind.issued : HeldKind → Bool
  | .fault _ _ | .lease => false
  | _ => true

/-- The completion class of a held word that counts in one (R185, R215). -/
def HeldKind.cls : HeldKind → Option OpClass
  | .drain _ | .mxgsum _ _ => some .b
  | .peer _ _ => some .a
  | _ => none

/-- The lane has still to issue words of clause `id`, or may issue again the word a trap interrupted there (R39, R312). -/
def Gang.laneOpen (g : Gang) (id : Nat) (l : Lane) : Bool :=
  !l.exited &&
  ((l.clause == some id &&
      !(match l.wait with
        | none => false
        | some k =>
          match g.heldOf k with
          | none => false
          | some h => h.kind.issued && decide (l.cpos ≤ h.iss.words)))
    || l.savedClause == some id)

/-- An operation of a class of clause instance `id` has not completed (R39). -/
def Gang.outstanding (g : Gang) (id : Nat) (cls : OpClass) : Bool :=
  g.ops.any (fun o => o.cls == cls && o.clauses.contains id)
  || (cls == .b && g.slots.any (fun s => s.prog.any (fun p => p.clauses.contains id)))
  || g.held.any (fun h => h.kind.cls == some cls &&
      (laneList h.lanes).any (fun l => (g.lane l).clause == some id))

/-- One less in a flag's count (R39). -/
def decFlag (flags : List Nat) (f : Fin 12) : List Nat := modAt flags f.val (· - 1)

/-- One more in a flag's count (R39). -/
def incFlag (flags : List Nat) (f : Fin 12) : List Nat := modAt flags f.val (· + 1)

/-- One clause instance's flags, decremented if its class is done, a flag that both fields name once both are (R39, log entry 70); an
instance with nothing left is dropped. -/
def Gang.settleOne (g : Gang) (c : Clause) : Gang :=
  let opn := g.lanes.any (g.laneOpen c.id)
  let doneA := !opn && !g.outstanding c.id .a
  let doneB := !opn && !g.outstanding c.id .b
  let same := c.flagA.isSome && c.flagA == c.flagB
  let fa := if same then doneA && doneB else doneA
  let fb := if same then doneA && doneB else doneB
  let fl1 := match c.flagA with
    | some f => if fa then decFlag g.flags f else g.flags
    | none => g.flags
  let fl2 := match c.flagB with
    | some f => if fb && !same then decFlag fl1 f else fl1
    | none => fl1
  let c' := { c with flagA := if fa then none else c.flagA, flagB := if fb then none else c.flagB }
  let drop := !opn && c'.flagA.isNone && c'.flagB.isNone
  { g with
    flags := fl2
    clauses := if drop then g.clauses.filter (fun x => x.id != c.id)
               else g.clauses.map (fun x => if x.id = c.id then c' else x) }

/-- Every clause instance's flags brought up to date (R39). -/
def Gang.settle (g : Gang) : Gang := g.clauses.foldl Gang.settleOne g

/-- The clause instances of a set of lanes, each once. -/
def Gang.clausesOf (g : Gang) (act : LaneBits) : List Nat :=
  ((laneList act).filterMap (fun l => (g.lane l).clause)).eraseDups

/-! ### Moving lanes on -/

/-- A lane that has issued a word goes to the next one (R49); after the last word of the clause it is at a header. -/
def Lane.next (l : Lane) (addr : VAddr) (words : Nat) : Lane :=
  { l with pc := addr + 4, cpos := l.cpos - words, clause := if l.cpos ≤ words then none else l.clause }

/-- A lane that goes to a clause header (R57, R159). -/
def Lane.goto (l : Lane) (pc : VAddr) : Lane := { l with pc := pc, cpos := 0, clause := none }

/-- The lanes of a word go to the next word (R49). -/
def Gang.advance (g : Gang) (iss : Issue) (act : LaneBits) : Gang :=
  (g.modLanes act (fun _ l => l.next iss.addr iss.words)).settle

/-- The word being issued has completed with its gang in state `g`: its lanes go on. -/
def State.retire (s : State) (g : Gang) : State := s.setGang s.cur.core s.cur.gang (g.advance s.cur s.cur.active)

/-- The word being issued is a control transfer that has placed its lanes in `g` itself. -/
def State.placed (s : State) (g : Gang) : State := s.setGang s.cur.core s.cur.gang g.settle

/-! ### Held words (R32) -/

/-- The lanes of a word are held: not eligible, and still at the word. -/
def Gang.hold (g : Gang) (iss : Issue) (act : LaneBits) (kind : HeldKind) : Gang :=
  let id := g.nextId
  let g1 : Gang := { g with held := g.held ++ [Held.mk id iss act kind], nextId := id + 1 }
  (g1.modLanes act (fun _ l => { l with wait := some id })).settle

/-- Lanes leave a held word, without a change of their program counters. -/
def Gang.unhold (g : Gang) (id : Nat) (act : LaneBits) : Gang :=
  let g1 := g.modLanes act (fun _ l => if l.wait = some id then { l with wait := none } else l)
  let hs := g1.held.map (fun h => if h.id = id then { h with lanes := h.lanes &&& ~~~act } else h)
  { g1 with held := hs.filter (fun h => h.lanes != 0) }

/-- Lanes of a held word are released: the word has completed for them, and they go on (R32, R200, R202). -/
def Gang.release (g : Gang) (id : Nat) (act : LaneBits) : Gang :=
  match g.heldOf id with
  | none => g
  | some h =>
    let act := act &&& h.lanes
    ((g.unhold id act).modLanes act (fun _ l => l.next h.iss.addr h.iss.words)).settle

/-- The header that issued with a word that cannot issue is undone (R32, R60): its lanes are at the header again, and its
flags as before. -/
def Gang.undoHeader (g : Gang) (iss : Issue) : Gang :=
  match iss.hdr with
  | none => g
  | some h => (g.modLanes iss.active (fun _ l => l.goto h)).settle

/-- The word cannot issue now, because the unit it needs is full (R32, R148, R319): it stays where it is. Its lanes are not
eligible then (`unitFull`), so that no step issues it. -/
def State.notIssued (s : State) (g : Gang) : State := s.setGang s.cur.core s.cur.gang (g.undoHeader s.cur)

/-- The word cannot issue, because the lease is another gang's (R45): its lanes wait. -/
def State.awaitLease (s : State) (g : Gang) : State :=
  s.setGang s.cur.core s.cur.gang ((g.undoHeader s.cur).hold s.cur s.cur.active .lease)

/-- A new operation of the word being issued (R39). -/
def Gang.newOp (g : Gang) (act : LaneBits) (cls : OpClass) (kind : OpKind) : Op :=
  { id := g.nextId, cls := cls, kind := kind, clauses := g.clausesOf act, lanes := act }

/-- The gang with an operation outstanding. -/
def Gang.addOp (g : Gang) (o : Op) : Gang := { g with ops := g.ops ++ [o], nextId := g.nextId + 1 }

/-- The operation is no longer outstanding. -/
def Gang.dropOp (g : Gang) (id : Nat) : Gang := { g with ops := g.ops.filter (fun o => o.id != id) }

/-- Trap entry, step 2 (R310): every special-function result is written. -/
def Gang.retireSpecial (g : Gang) : Gang :=
  let sp := g.ops.filter (fun o => o.kind == .special)
  let g1 := sp.foldl (fun g o => g.writeRegs o.regs) g
  { g1 with ops := g1.ops.filter (fun o => o.kind != .special) }

/-- The fence waits for writes, and for the reads before a later write (R132, R198). -/
def Sem.writes : Sem → Bool
  | .acq => false
  | _ => true

/-- The fence is an acquire (R136). -/
def Sem.acquires : Sem → Bool
  | .rel => false
  | _ => true

/-- An access for which a fence waits (R198, R144): a read, and unless the fence is an acquire alone a write too; of peer and host
memory at domain scope only. -/
def Access.fenced (x : Access) (writes dom : Bool) : Bool := (writes || x.reads) && (dom || !x.spot.far)

/-- The access writes a scratchpad (R220). -/
def Access.toScratch (x : Access) : Bool :=
  match x.act, x.spot with
  | .fill _, _ => true
  | .store _, .vm _ => false
  | .store _, _ => true
  | _, _ => false

/-- The operation is an `rpld` on peer memory that its lanes wait for (R193, R220). -/
def HeldKind.peerFill : HeldKind → Bool
  | .peer o _ => o.todo.any Access.toScratch
  | _ => false

/-- A fence, `mxfence` or `mxwait` that has nothing left to wait for (R198, R220). -/
def Gang.waitOver (g : Gang) (h : Held) : Bool :=
  match h.kind with
  | .fence sem sc => !g.ops.any (fun o =>
      (sc == .dom && Sem.writes sem && o.peer && o.lanes &&& h.lanes != 0)
        || o.todo.any (fun x => x.lanes &&& h.lanes != 0 && x.fenced (Sem.writes sem) (sc == .dom)))
  | .mxfence => !g.ops.any (fun o => o.todo.any Access.toScratch) && !g.held.any (fun x => x.kind.peerFill)
  | .mxwait => g.slots.all (fun s => s.prog.isEmpty) && !g.ops.any (fun o => o.kind == .enc || o.kind == .drainWrite)
  | _ => false

/-- A fence takes effect on a core (R111, R136 to R139, R144): at domain scope a release first performs what its tower has posted; an
acquire applies what its tower's reads have met; an `sc` fence at device scope or wider takes its place in the one order of R139; and a
release passes what its tower knows of on with its later writes. -/
def State.fenceOn (s : State) (c : Nat) (sem : Sem) (sc : Scope) : State :=
  let t := towerOf c
  let total := sem == .sc && scopeDev sc
  let s1 := if sc == .dom && Sem.writes sem then s.flushPosted t (fun _ => false) else s
  let s2 := if Sem.acquires sem then s1.acquireOn c sc (if total then s1.syncPub else []) else s1
  let s3 := if total then s2.publish t else s2
  if Sem.writes sem then s3.releaseFence t sc else s3

/-- A fence or `mxfence` of a gang takes effect (R111, R146, R198): an `mxfence` marks the scratchpad writes that every later `mxm` of
the gang sees. -/
def State.fenceEffect (s : State) (c gi : Nat) (k : HeldKind) : State :=
  match k with
  | .fence sem sc => s.fenceOn c sem sc
  | .mxfence => s.modBlock c (fun b => { b with gangs := modAt b.gangs gi (fun g =>
      { g with rsMark := b.rsLog.length, dsMark := b.dsLog.length }) })
  | _ => s

/-- The waiting lanes of a gang whose wait is over go on (R198, R220). -/
def State.wakeGang (s : State) (c gi : Nat) : State :=
  match s.gang? c gi with
  | none => s
  | some g => (g.held.filter g.waitOver).foldl (fun s h =>
      (s.fenceEffect c gi h.kind).modGang c gi (fun g => g.release h.id h.lanes)) s

/-- One access of an operation is performed, with those of its word that meet it (R186), unless it has to wait (R132, R361): the step of
log entry 4. -/
def State.performTurn (s : State) (core gi id k : Nat) : State :=
  match (s.gang? core gi).bind (fun g => (g.openOps.find? (·.id == id)).map (fun o => (g, o))) with
  | none => s
  | some (g, o) =>
    match o.todo[k]? with
    | none => s
    | some x => if (o.groupOf x).any (s.mustWait core gi g id) then s else (s.performIn core gi o (o.groupOf x)).wakeGang core gi

/-- A release by the lanes of a set that is no access of memory (R137 cases 2 and 4, R205, R206): what they have issued to package memory
and the scratchpads is performed (R144), and at device scope (`dev`) what their tower knows of is published. -/
def State.releasePoint (s : State) (core gi : Nat) (act : LaneBits) (dev : Bool) : State :=
  let s1 := s.performBefore core gi act false
  (if dev then s1.publish (towerOf core) else s1).wakeGang core gi

/-- The held words of the kinds given leave their places: their lanes may issue again (R45). -/
def Gang.letIssue (g : Gang) (p : HeldKind → Bool) : Gang :=
  (g.held.filter (fun h => p h.kind)).foldl (fun g h => g.unhold h.id h.lanes) g

/-- A slot of a gang. -/
def Gang.slot (g : Gang) (n : Nat) : Slot := g.slots.getD n {}

/-- A slot replaced. -/
def Gang.setSlot (g : Gang) (n : Nat) (x : Slot) : Gang := { g with slots := g.slots.set n x }

/-! ### Units that can be full (R32) -/

/-- The matrix words on a slot of a gang that have not completed number 16 (R319): those in its order, and drains whose writes are
outstanding (R223 step 3). -/
def Gang.slotFull (g : Gang) (n : Nat) : Bool :=
  decide (16 ≤ (g.slot n).prog.length + (g.ops.filter (fun o => o.slot == some n)).length)

/-- The commands that a queue of a block has accepted and not completed (R253). -/
def State.queueOf (s : State) (lid index : Nat) (q : Fin 8) : List Command :=
  s.commands.filter (fun c => c.lid = lid && c.block = index && c.queue = q)

/-- Entries of the buffer that belong to an earlier flush of the gang (R148). -/
def Block.earlierFlush (b : Block) (g : Gang) : Bool := b.teller.any (fun e => decide (e.flush < g.flush))

/-- The room test of R148: none if the entries fit, else whether the word waits (true) or traps (false). -/
def Block.stageRoom (b : Block) (g : Gang) (n : Nat) : Option Bool :=
  if b.teller.length + n ≤ Config.tellerEntries then none
  else some (decide (n ≤ Config.tellerEntries) && b.earlierFlush g)

/-! ### Fault records (R348, R349) -/

/-- The lowest free fault buffer entry (R349). -/
def Tower.freeEntry (t : Tower) : Option Nat :=
  (List.range 8).find? (fun e => !t.faults.any (fun r => r.entry == some e))

/-- A requester meets a faulting entry: it joins the record with that key, or creates one, or, with 64 records in use,
waits for the next replay (R349). -/
def Tower.joinFault (t : Tower) (r : Requester) (f : WalkFault) (va : Nat) (asid : BitVec 16) (acc src srcno : Nat) : Tower :=
  match t.faults.find? (·.key == f.key) with
  | some x =>
    if x.reqs.contains r then t
    else
      let x' := { x with reqs := x.reqs ++ [r], count := if x.entry.isSome then min 65535 (x.count + 1) else x.count }
      { t with faults := t.faults.map (fun y => if y.key = f.key then x' else y) }
  | none =>
    if t.faults.length ≥ 64 then { t with dropped := true, fdropped := t.fdropped + 1 }
    else
      let e := t.freeEntry
      let x : FaultRec := ⟨f.key, f.kind, f.level, va / 2 ^ 16, asid, acc, src, srcno, if e.isSome then 1 else 0, e, [r]⟩
      let t := { t with faults := t.faults ++ [x] }
      if e.isSome then { t with flogged := t.flogged + 1 } else { t with dropped := true, fdropped := t.fdropped + 1 }

/-- Requesters that satisfy a condition leave every record of a tower (R353); the records stay. -/
def Tower.withdraw (t : Tower) (p : Requester → Bool) : Tower :=
  { t with faults := t.faults.map (fun x => { x with reqs := x.reqs.filter (fun r => !p r) }) }

/-- The requester is a word of a gang. -/
def Requester.ofGang (c g : Nat) : Requester → Bool
  | .word c' g' _ => c' == c && g' == g
  | .fetch c' g' _ => c' == c && g' == g
  | _ => false

/-- The requester is a word, or the Teller, of a core. -/
def Requester.ofCore (c : Nat) : Requester → Bool
  | .word c' _ _ => c' == c
  | .fetch c' _ _ => c' == c
  | .teller c' => c' == c
  | _ => false

/-- The requester is a stage of an intake stream. -/
def Requester.ofStream (h : Nat) : Requester → Bool
  | .intake x _ => x == h
  | _ => false

/-- The stalled words of a gang leave the fault records (R310, R313, R353). -/
def State.withdrawGang (s : State) (c g : Nat) : State := s.modTower (towerOf c) (·.withdraw (Requester.ofGang c g))

/-- The stalled words of a gang are no longer held: they issue again from order 1 (R310, R313). -/
def Gang.dropStalls (g : Gang) : Gang :=
  let g1 := (g.held.filter (fun h => match h.kind with | .fault _ _ => true | _ => false)).foldl
    (fun g h => g.unhold h.id h.lanes) g
  { g1 with lanes := g1.lanes.map (fun l => { l with req := none }) }

/-- One faulting walk of a word: the fault, the lane that met it, its address and the TINFO that a fail would give. -/
structure StallWalk where
  fault : WalkFault
  lane : Nat
  va : Nat
  info : Nat
  acc : Nat
  deriving DecidableEq, Repr

/-- The number under which a word that walks again waits: the one it had, or a new one (R350). -/
def Gang.stallId (g : Gang) (act : LaneBits) : Nat :=
  match (g.lane (lowLane act)).req with
  | some id => if (laneList act).all (fun l => (g.lane l).req == some id) then id else g.nextId
  | none => g.nextId

/-- A word stalls at translation (R108 step 4, R348, R349): its lanes wait, and it joins the record of every faulting entry
it meets; a table entry that could not be read is an event (R364). `src` is the code of R349; `work` is what repeats from step 4 (R108), none for a fetch. -/
def State.stall (s : State) (src : Nat) (ws : List StallWalk) (work : Option VWork) : State :=
  let c := s.cur.core
  match s.gang? c s.cur.gang with
  | none => s
  | some g =>
    let act := s.cur.active
    let id := g.stallId act
    let kind := HeldKind.fault (ws.map (fun w => (w.fault.key, w.lane, w.info))) work
    let g1 : Gang := { g with held := g.held ++ [Held.mk id s.cur act kind], nextId := max g.nextId (id + 1) }
    let g2 := g1.modLanes act (fun _ l => { l with wait := some id, req := some id })
    let asid := match s.block? c with
      | some b => b.cfg.asid
      | none => 0
    let s1 := s.setGang c s.cur.gang g2
    ws.foldl (fun s w => (s.logWalk w.fault).modTower (towerOf c) (fun t =>
      t.joinFault (.word c s.cur.gang id) w.fault w.va asid w.acc src (if src = 0 then c % 32 else 0))) s1

/-- Words that walked again and no longer wait leave the fault records they had joined (R350). -/
def State.settleReqs (s : State) (c gi : Nat) : State :=
  match s.gang? c gi with
  | none => s
  | some g =>
    let gone := (g.lanes.filterMap (fun l => if l.wait.isNone then l.req else none)).filter (fun id => (g.heldOf id).isNone)
    if gone.isEmpty then s
    else
      let g1 := { g with lanes := g.lanes.map (fun l => if l.wait.isNone then { l with req := none } else l) }
      (s.setGang c gi g1).modTower (towerOf c) (·.withdraw (fun r =>
        match r with
        | .word c' g' id => c' == c && g' == gi && gone.contains id
        | _ => false))

/-! ### Barriers (R200) -/

/-- The lanes of a gang held at `bar.b`. -/
def Gang.atBarB (g : Gang) : List Held := g.held.filter (fun h => match h.kind with | .barB _ => true | _ => false)
/-- The lanes of a gang held at `bar.e`. -/
def Gang.atBarE (g : Gang) : List Held := g.held.filter (fun h => match h.kind with | .barE _ => true | _ => false)

/-- How many lanes a set holds. -/
def laneCount (act : LaneBits) : Nat := (laneList act).length

/-- Lanes held in a list of held words. -/
def heldLanes (l : List Held) : Nat := (l.map (fun h => laneCount h.lanes)).sum

/-- Lanes of a block that have not exited. -/
def Block.liveLanes (b : Block) : Nat := (b.gangs.map (fun g => (g.lanes.filter (fun l => !l.exited)).length)).sum

/-- Every lane held in a list of held words is released. -/
def Gang.releaseAll (g : Gang) (hs : List Held) : Gang := hs.foldl (fun g h => g.release h.id h.lanes) g

/-- The lanes of a block that wait at `bar.b`. -/
def Block.atBarB (b : Block) : Nat := (b.gangs.map (fun g => heldLanes g.atBarB)).sum

/-- The phase of `bar.b` of the block on a core completes when every lane that has not exited has arrived (R200); the departures are
acquires at block scope (R137). -/
def State.checkBarB (s : State) (core : Nat) : State :=
  match s.block? core with
  | none => s
  | some b =>
    if 0 < b.atBarB ∧ b.atBarB = b.liveLanes then
      (s.acquireSync core .block).modBlock core (fun b =>
        { b with gangs := b.gangs.map (fun g => g.releaseAll g.atBarB), barB := { phase := b.barB.phase + 1, arrived := 0 } })
    else s.setBlock core { b with barB := { b.barB with arrived := b.atBarB } }

/-- The ensemble of a block: its launch and its ensemble index (R30). -/
def Block.ensemble (b : Block) : Nat × Nat := (b.cfg.lid, b.cfg.index / b.cfg.ens)

/-- The rank of a block in its ensemble (R30). -/
def Block.rank (b : Block) : Nat := b.cfg.index % b.cfg.ens

/-- The cores that hold the members of an ensemble. -/
def State.membersOf (s : State) (e : Nat × Nat) : List Nat :=
  (List.range s.cores.length).filter (fun c =>
    match s.block? c with
    | some b => b.ensemble == e
    | none => false)

/-- Members present in an ensemble of a launch (R30). -/
def Block.present (b : Block) : Nat := min b.cfg.ens (b.cfg.grid - b.cfg.index / b.cfg.ens * b.cfg.ens)

/-- The present ranks of a block's ensemble that are not live (R121). -/
def State.deadRanks (s : State) (b : Block) : List Nat :=
  (List.range b.present).filter (fun r =>
    !(s.membersOf b.ensemble).any (fun c => match s.block? c with | some x => x.rank == r | none => false))

/-- The lanes counted as arrived at `bar.e`: those that wait there (R200, R316). -/
def Block.countE (b : Block) : Block :=
  { b with barE := { b.barE with arrived := (b.gangs.map (fun g => heldLanes g.atBarE)).sum } }

/-- The phase of `bar.e` of core `c`'s ensemble completes when every lane of every present member has arrived (R200). -/
def State.checkBarE (s : State) (c : Nat) : State :=
  match s.block? c with
  | none => s
  | some b =>
    let ms := s.membersOf b.ensemble
    let blocks := ms.filterMap s.block?
    let n := (blocks.map (fun b => (b.gangs.map (fun g => heldLanes g.atBarE)).sum)).sum
    if 0 < n ∧ n = (blocks.map Block.liveLanes).sum ∧ (s.deadRanks b).isEmpty then
      ms.foldl (fun s m => (s.acquireSync m .ens).modBlock m (fun b =>
        { b with gangs := b.gangs.map (fun g => g.releaseAll g.atBarE), barE := { phase := b.barE.phase + 1, arrived := 0 } })) s
    else ms.foldl (fun s m => s.modBlock m Block.countE) s

/-! ### Clearing (R203, R204) -/

/-- The count of gangs in sections of a parity. -/
def Partition.count (p : Partition) (par : Nat) : BitVec 32 := if par % 2 = 0 then p.c0 else p.c1

/-- The count of a parity changed. -/
def Partition.modCount (p : Partition) (par : Nat) (f : BitVec 32 → BitVec 32) : Partition :=
  if par % 2 = 0 then { p with c0 := f p.c0 } else { p with c1 := f p.c1 }

/-- What the device does at every moment (R204), as often as it applies (at most twice in a row). -/
def Partition.clear : Nat → Partition → Partition
  | 0, p => p
  | n + 1, p =>
    if p.pend ∧ p.count ((p.gen - 1).toNat) = 0 then
      Partition.clear n (if p.queued then { p with done := p.gen, queued := false, gen := p.gen + 1, pend := true }
        else { p with done := p.gen, pend := false })
    else p

/-- request() of R204: the generation given, and the partition after it. -/
def Partition.request (p : Partition) : Word × Partition :=
  if p.pend then (p.gen + 1, { p with queued := true }) else (p.gen + 1, { p with gen := p.gen + 1, pend := true })

/-- The lanes of every resident gang of some blocks that wait in held words of some kinds go on, which is an acquire of a scope on their
cores (R111, R137). -/
def State.releaseHeld (s : State) (sc : Scope) (q : Block → Bool) (p : HeldKind → Bool) : State :=
  (List.range s.cores.length).foldl (fun s c =>
    match s.block? c with
    | none => s
    | some b =>
      if q b && b.gangs.any (fun g => g.held.any (fun h => p h.kind)) then
        (s.acquireSync c sc).modBlock c (fun b => { b with gangs := b.gangs.map (fun g => g.releaseAll (g.held.filter (fun h => p h.kind))) })
      else s) s

/-- The held word waits in `clwait` for a generation that has cleared. -/
def HeldKind.cleared (done : Word) : HeldKind → Bool
  | .clwait x => decide (x.toNat ≤ done.toNat)
  | _ => false

/-- A partition's Clearing state after a change: generations clear, and the lanes that waited for them go on (R204, R205). -/
def State.setClearing (s : State) (p : Fin 16) (q : Partition) : State :=
  let q := Partition.clear 3 q
  (s.setPartition p.val q).releaseHeld .dev (fun b => b.cfg.part == p) (HeldKind.cleared q.done)

/-- A gang that exits or is killed inside a section leaves it (R204). -/
def State.leaveSection (s : State) (p : Fin 16) (g : Gang) : State :=
  if g.depth = 0 then s
  else match s.partition? p.val with
    | none => s
    | some q => s.setClearing p (q.modCount (g.entryGen.toNat) (· - 1))

/-! ### Traps -/

/-- A trap raised by a held word of some gang (R308): core, gang, number of the held word. -/
structure Notice where
  core : Nat
  gang : Nat
  held : Nat
  trap : Trap
  deriving DecidableEq, Repr

/-- TCAUSE (R305). -/
def Trap.tcause (t : Trap) (pfx : Bool) : Word :=
  BitVec.ofNat 64 (t.cause + 256 * t.held.toNat + 512 * pfx.toNat + 1024 * t.hdr.toNat)

/-- TLANE (R305). -/
def Trap.tlane (t : Trap) (act : LaneBits) : Word := BitVec.ofNat 64 (t.lane * 2 ^ 32 + act.toNat)

/-- The handler is entered for a cause (R309). -/
def Block.accepts (b : Block) (cause : Nat) : Bool := b.cfg.handler != 0 && b.cfg.accept.getLsbD cause

/-- The trap CSRs (R304 to R306, R310 step 3). -/
def Gang.recordTrap (g : Gang) (iss : Issue) (act : LaneBits) (t : Trap) : Gang :=
  { g with
    tcause := t.tcause iss.pfx.isSome
    taddr := iss.taddr.setWidth 64
    tlane := t.tlane act
    tinfo := BitVec.ofNat 64 t.info }

/-- A lane that becomes a handler lane (R310 step 5). -/
def Lane.toHandler (l : Lane) (handler : VAddr) : Lane :=
  { l with pc := handler, cpos := 0, savedClause := l.clause, clause := none, skip := 0, hl := true, wait := none, req := none }

/-- Trap entry in the gang (R310): results retired, CSRs written, the handler lanes moved to the handler, the words
stalled at translation withdrawn. -/
def Gang.enterHandler (g : Gang) (handler : VAddr) (iss : Issue) (act : LaneBits) (t : Trap) : Gang :=
  let g := g.retireSpecial.dropStalls
  let cp := (g.lane (lowLane act)).cpos
  let g : Gang := { g.recordTrap iss act t with
    inHandler := true
    resume := some ⟨iss.taddr, iss.words, cp, t.hdr || cp = 0, t.cause⟩
    held := (g.held.map (fun h => { h with lanes := h.lanes &&& ~~~act })).filter (fun h => h.lanes != 0) }
  (g.modLanes act (fun _ l => l.toHandler handler)).settle

/-- The lease is released by gang `g` (R45). -/
def Block.dropLease (b : Block) (g : Nat) : Block :=
  if b.lease.holder = some g then { b with lease := { b.lease with holder := none, count := 0 } } else b

/-- The held words of a gang of a kind, as notices of a trap. -/
def Gang.notices (g : Gang) (c gi : Nat) (p : HeldKind → Bool) (cause info : Nat) : List Notice :=
  (g.held.filter (fun h => p h.kind)).map (fun h => ⟨c, gi, h.id, { cause := cause, lane := lowLane h.lanes, info := info, held := true }⟩)

/-- The notices over all gangs of a block. -/
def Block.notices (b : Block) (c : Nat) (p : HeldKind → Bool) (cause info : Nat) : List Notice :=
  (b.gangs.mapIdx (fun i g => g.notices c i p cause info)).flatten

/-- The notices over all resident blocks that satisfy a condition. -/
def State.notices (s : State) (q : Block → Bool) (p : HeldKind → Bool) (cause info : Nat) : List Notice :=
  ((s.cores.mapIdx (fun c x =>
    match x.block with
    | some b => if q b then b.notices c p cause info else []
    | none => []))).flatten

/-- The held word waits at `bar.e`. -/
def HeldKind.isBarE : HeldKind → Bool
  | .barE _ => true
  | _ => false

/-- The held word is an `mxgsum`. -/
def HeldKind.isGsum : HeldKind → Bool
  | .mxgsum _ _ => true
  | _ => false

/-- The held word waits on one of the named barriers given by handle. -/
def HeldKind.onBarrier (hs : List Word) : HeldKind → Bool
  | .nbar h _ => hs.contains h
  | _ => false

/-- A named barrier's handle (R201). -/
def NBar.handle (n : NBar) (tower : Nat) : Word :=
  BitVec.ofNat 64 (n.serial * 2 ^ 16 + n.device.toNat * 2 ^ 9 + tower * 2 ^ 6 + n.index)

/-- The named barrier objects a block created (R201). -/
def State.barriersOf (s : State) (lid index : Nat) : List Word :=
  (s.towers.mapIdx (fun t x => (x.nbars.filter (fun n => n.lid = lid && n.block = index)).map (·.handle t))).flatten

/-- The live object a handle names, and the tower that holds it (R201). -/
def State.barrier? (s : State) (h : Word) : Option (Nat × NBar) :=
  (s.towers.mapIdx (fun t x => (x.nbars.find? (fun n => n.handle t == h)).map (fun n => (t, n)))).findSome? id

/-- What the end of a block, resident or saved, releases in the rest of the device (R324): read sections, named barriers,
streams, queued Toss words, fault requesters, and the traps of partners. -/
def State.releaseBlock (s : State) (core : Option Nat) (b : Block) : State × List Notice :=
  let s1 := b.gangs.foldl (fun s g => s.leaveSection b.cfg.part g) s
  let hs := s1.barriersOf b.cfg.lid b.cfg.index
  let own := fun (x : Stream) => x.lid = b.cfg.lid && x.block = b.cfg.index
  let s2 := { s1 with towers := s1.towers.map (fun t => { t.withdraw (fun r => (t.streams.filter own).any (fun x => r.ofStream x.handle)) with
      nbars := t.nbars.filter (fun n => !(n.lid = b.cfg.lid && n.block = b.cfg.index))
      streams := t.streams.filter (fun x => !own x) }) }
  let s3 := match core with
    | none => s2
    | some c => s2.modTower (towerOf c) (fun t => { t.withdraw (Requester.ofCore c) with toss := t.toss.filter (fun q => q.1 != c) })
  let lost := s3.notices (fun _ => true) (HeldKind.onBarrier hs) Cause.partnerLost 1
  let part := s3.notices (fun x => x.ensemble == b.ensemble) HeldKind.isBarE Cause.partnerLost 0
  let sums := s3.notices (fun x => x.ensemble == b.ensemble) HeldKind.isGsum Cause.groupMembership (4 + (s3.deadRanks b).headD b.rank)
  (s3, lost ++ part ++ sums)

/-- The commands of a killed block (R265): those not started are discarded, a running one stops. -/
def State.stopCommands (s : State) (lid index : Nat) : State :=
  let left := s.commands.filter (fun c => !(c.lid = lid && c.block = index) || c.started)
  let gone := (s.commands.filter (fun c => c.lid = lid && c.block = index)).map (·.id)
  { s with
    commands := left.map (fun c => if c.lid = lid && c.block = index then { c with stopped := true, stalled := false } else c)
    towers := s.towers.map (·.withdraw (fun r => gone.any (fun i => r == .command i))) }

/-- A block of a launch is recorded as killed; only the first kill of a launch is described (R330, R331). -/
def State.recordKill (s : State) (lid index : Nat) (k : KillInfo) : State :=
  match s.launch? lid with
  | none => s
  | some l =>
    s.setLaunch { l with killed := l.killed ++ [index], kill := match l.kill with | some x => some x | none => some k }

/-! ### Restored blocks (R314, R333) -/

/-- The lanes of a gang that wait at `bar.b`, or `bar.e`, in a phase that has passed go on (R314). -/
def Gang.releasePassed (g : Gang) (bph eph : Nat) : Gang :=
  g.releaseAll (g.held.filter (fun h => match h.kind with
    | .barB p => decide (p < bph)
    | .barE p => decide (p < eph)
    | _ => false))

/-- The lanes of a gang that wait on a named barrier whose phase has passed go on (R314). -/
def State.releaseNamed (s : State) (g : Gang) : Gang :=
  g.releaseAll (g.held.filter (fun h => match h.kind with
    | .nbar x p => match s.barrier? x with
      | some (_, n) => decide (p < n.phase)
      | none => false
    | _ => false))

/-- The traps of resumed lanes whose named barrier has died (R201). -/
def State.deadNamed (s : State) (c : Nat) : List Notice :=
  match s.block? c with
  | none => []
  | some b => (b.gangs.mapIdx (fun gi g => (g.held.filter (fun h => match h.kind with
      | .nbar x _ => (s.barrier? x).isNone
      | _ => false)).map (fun h => ⟨c, gi, h.id, { cause := Cause.partnerLost, lane := lowLane h.lanes, info := 1, held := true }⟩))).flatten

/-- The restored block of a core runs (R314): its waits are brought up to date, and its streams go on (R283). -/
def State.wakeBlock (s : State) (c : Nat) : State :=
  match s.block? c with
  | none => s
  | some b =>
    let b1 : Block := { b with
      gangs := b.gangs.map (fun g => s.releaseNamed (g.releasePassed b.barB.phase b.barE.phase))
      since := (s.core c).cycles, quantumPassed := false, seq := s.starts }
    let s1 := { s with starts := s.starts + 1 }.setCore c { s.core c with bind := .running, block := some b1, l1 := [] }
    (s1.modTower (towerOf c) (fun t => { t with streams := t.streams.map (fun x =>
      if x.lid = b.cfg.lid ∧ x.block = b.cfg.index then { x with stopped := false, core := c } else x) })).settleTower (towerOf c)

/-- Once no member of an ensemble is left in a save area, all that have been restored run (R314, R333): the cores given wait for
that. -/
def State.wakeCores (s : State) (ms : List Nat) : State × List Notice :=
  let s1 := ms.foldl State.wakeBlock s
  (s1, ms.flatMap s1.deadNamed)

/-- The cores whose restored blocks wait for partners though none of them is saved any more (R333). -/
def State.restored (s : State) : List Nat :=
  (List.range s.cores.length).filter (fun c => (s.core c).bind == .resume &&
    (match s.block? c with
     | none => false
     | some b => !s.saved.any (fun x => x.block.ensemble == b.ensemble)))

/-- The saved blocks of a launch with a killed block are discarded (R331: every started block is killed); blocks that had waited
for them go on. -/
def State.dropSaved (s : State) (lid : Nat) : State × List Notice :=
  let mine := s.saved.filter (fun x => x.block.cfg.lid = lid)
  let s1 := { s with saved := s.saved.filter (fun x => x.block.cfg.lid != lid) }
  let (s2, ns) := mine.foldl (fun acc x =>
    let (s', ns) := acc.1.releaseBlock none x.block
    ((s'.stopCommands lid x.block.cfg.index).recordKill lid x.block.cfg.index ⟨x.block.cfg.index, [], 2⟩, acc.2 ++ ns)) (s1, [])
  let (s3, ms) := s2.wakeCores s2.restored
  (s3, ns ++ ms)

/-- What a held word of a killed or saved block may leave written: the stores of a word on peer memory (R152), the output of a Toss
word (R251). -/
def State.maybeHeld (s : State) (c gi : Nat) (det : Bool) (h : Held) : State :=
  match h.kind with
  | .peer o _ => s.maybePerform c gi o
  | .toss j => s.maybeToss (c, gi, h.lanes) det j
  | _ => s

/-- The accesses that a killed block has issued and not performed, each once or not at all (R152); none is posted any longer. -/
def State.maybeAll (s : State) (c : Nat) : State :=
  match s.block? c with
  | none => s
  | some b => b.gangs.zipIdx.foldl (fun s p =>
      p.1.held.foldl (·.maybeHeld c p.2 b.cfg.det) (p.1.ops.foldl (State.maybePerform · c p.2) s)) s

/-- A block is killed (R323, R324): its issued accesses are performed once or not at all, its staged entries are
discarded and its state is released. -/
def State.killBlock (s : State) (c : Nat) (k : KillInfo) : State × List Notice :=
  match s.block? c with
  | none => (s, [])
  | some b =>
    let s1 := (s.readLeaves c).maybeAll c
    let s2 := s1.setCore c { s1.core c with block := none, bind := .killed }
    let (s3, ns) := s2.releaseBlock (some c) b
    let s4 := (s3.stopCommands b.cfg.lid b.cfg.index).recordKill b.cfg.lid b.cfg.index k
    let (s5, ms) := s4.dropSaved b.cfg.lid
    (s5.checkLaunch b.cfg.lid, ns ++ ms)

/-- A trap of a word is dispatched (R308, R309): it becomes pending, the handler is entered, or the block is killed. -/
def State.raise1 (s : State) (c gi : Nat) (iss : Issue) (act : LaneBits) (heldId : Option Nat) (t : Trap) : State × List Notice :=
  match s.block? c with
  | none => (s, [])
  | some b =>
    match b.gangs[gi]? with
    | none => (s, [])
    | some g =>
      if g.inHandler && heldId.isSome && !(laneList act).any (fun l => (g.lane l).hl) then
        match heldId with
        | some h => (s.setGang c gi { g with pending := g.pending ++ [⟨iss, t, h⟩] }, [])
        | none => (s, [])
      else if !g.inHandler && b.accepts t.cause then
        let b1 := ((b.setGang gi (g.enterHandler b.cfg.handler iss act t)).dropLease gi).countE
        ((s.withdrawGang c gi).setBlock c b1, [])
      else
        let r := g.recordTrap iss act t
        s.killBlock c ⟨b.cfg.index, [r.tcause, r.taddr, r.tlane, r.tinfo], 0⟩

/-- The traps that follow from the end of blocks are dispatched one by one (R200, R201, R227). -/
def State.deliver : Nat → List Notice → State → State
  | 0, _, s => s
  | _, [], s => s
  | n + 1, x :: xs, s =>
    match s.gang? x.core x.gang with
    | none => State.deliver n xs s
    | some g =>
      match g.heldOf x.held with
      | none => State.deliver n xs s
      | some h =>
        let (s1, more) := s.raise1 x.core x.gang h.iss h.lanes (some x.held) x.trap
        State.deliver n (xs ++ more) s1

/-- Enough for every held word of every gang to be told several times over. -/
def deliverFuel : Nat := 2 ^ 24

/-- TAKING A TRAP: a word of a gang raises a trap that names its lanes (R305 to R310, R323). -/
def State.trapAt (s : State) (c gi : Nat) (iss : Issue) (act : LaneBits) (heldId : Option Nat) (t : Trap) : State :=
  let (s1, ns) := s.raise1 c gi iss act heldId t
  State.deliver deliverFuel ns s1

/-- The word being issued raises a trap (R66): it has changed nothing. -/
def State.trap (s : State) (t : Trap) : State := s.trapAt s.cur.core s.cur.gang s.cur s.cur.active none t

/-- A held word raises a trap (R305, R308). -/
def State.trapHeld (s : State) (c gi : Nat) (h : Held) (t : Trap) : State :=
  s.trapAt c gi h.iss h.lanes (some h.id) { t with held := true }

/-! ### The end of a handler (R308, R311, R312) -/

/-- MODE[1] clears and the frozen lanes go on (R311, R312). -/
def Gang.leaveHandler (g : Gang) : Gang :=
  let ls := g.lanes.map (fun l => { l with hl := false, savedClause := none })
  ({ g with inHandler := false, resume := none, lanes := ls } : Gang).settle

/-- After the handler has ended, the pending trap with the lowest TADDR is taken (R308). -/
def State.takePending (s : State) (c gi : Nat) : State :=
  match s.gang? c gi with
  | none => s
  | some g =>
    match minBy? (fun p => p.iss.taddr.toNat) g.pending with
    | none => s
    | some p =>
      let s1 := s.setGang c gi { g with pending := g.pending.filter (fun q => q.heldId != p.heldId) }
      match g.heldOf p.heldId with
      | none => s1
      | some h => s1.trapAt c gi h.iss h.lanes (some h.id) p.trap

/-! ### Parking (R35, R163) -/

/-- The lanes parked on a rejoin mask that is zero, and on a zero loop mask, go on (R35, R163, R164). -/
def Gang.releaseParked (g : Gang) : Gang :=
  { g with lanes := g.lanes.map (fun l =>
      match l.park with
      | some (.j n) => if g.j.getD n.val 0 = 0 then { l with park := none } else l
      | some .loop => if g.lm = 0 then { l with park := none } else l
      | none => l) }

end Sys2Proof.Machine
end

