-- ==== Sys2Proof/Machine/Operands.lean ====
section
/-! DEFINITION. Every operand form: reading and writing a register field (R53, R54), the order-4 checks (R51, R54, R44, R66),
prefix options (R55, R63), packed sub-elements (R50), and the shape of an element-wise word (R155). -/
namespace Sys2Proof.Machine

/-- The value of a source register field in a lane (R53, R54). -/
def Gang.read (g : Gang) (gi l : Nat) : Src → Word
  | .v i => regGet (g.lane l).regs (g.wb + i.val)
  | .k i => g.k.getD i.val 0
  | .z => 0
  | .lid => BitVec.ofNat 64 l
  | .gnid => BitVec.ofNat 64 gi
  | .ix n => regGet (g.lane l).regs ((g.lane l).x.getD n.val 0).toNat

/-- Writing a destination register field in a lane; `z` discards (R53, R54). -/
def Lane.write (x : Lane) (wb : Nat) (d : Dst) (v : Word) : Lane :=
  match d with
  | .v i => { x with regs := regSet x.regs (wb + i.val) v }
  | .z => x
  | .ix n => { x with regs := regSet x.regs (x.x.getD n.val 0).toNat v }

/-- Writing a destination in each lane of a set. -/
def Gang.writeDst (g : Gang) (act : LaneBits) (d : Dst) (val : Nat → Word) : Gang :=
  g.modLanes act (fun l x => x.write g.wb d (val l))

/-- The allotment register a destination names in a lane, for a result that comes later; none for `z`. -/
def Gang.dstIndex (g : Gang) (l : Nat) : Dst → Option Nat
  | .v i => some (g.wb + i.val)
  | .z => none
  | .ix n => some ((g.lane l).x.getD n.val 0).toNat

/-- A source in a lane, in the context of the word. -/
def Ctx.read (c : Ctx) (l : Nat) (r : Src) : Word := c.g.read c.iss.gang l r

/-- The lowest active lane. -/
def Ctx.low (c : Ctx) : Nat := lowLane c.iss.active

/-- The active lanes, lowest first. -/
def Ctx.lanes (c : Ctx) : List Nat := laneList c.iss.active

/-- A window operand past the allotment (R51). -/
def Ctx.windowBad (c : Ctx) : Src → Option Nat
  | .v i => if c.g.wb + i.val < c.blk.cfg.allot then none else some (c.g.wb + i.val)
  | _ => none

/-- An indirect operand past the allotment in an active lane: the lowest such lane and its index (R54). -/
def Ctx.indirectBad (c : Ctx) : Src → Option (Nat × Nat)
  | .ix n => (c.lanes.map (fun l => (l, ((c.g.lane l).x.getD n.val 0).toNat))).find? (fun p => !decide (p.2 < c.blk.cfg.allot))
  | _ => none

/-- The order-4 checks of R66: window operands, then indirect operands, the lowest failing lane named, then the slot number. Of
several operands that fail alike the first is named (log entry 12). -/
def Ctx.check (c : Ctx) (rs : List Src) (slot : Option Nat := none) : Except Trap Unit :=
  match rs.findSome? c.windowBad with
  | some r => .error { cause := Cause.registerBounds, lane := c.low, info := r }
  | none =>
    match minBy? (·.1) (rs.filterMap c.indirectBad) with
    | some (l, r) => .error { cause := Cause.registerBounds, lane := l, info := r + 2 ^ 16 }
    | none =>
      match slot with
      | none => .ok ()
      | some n =>
        if n < c.blk.cfg.slots then .ok ()
        else .error { cause := Cause.registerBounds, lane := c.low, info := n + 2 ^ 17 }

/-- The element whose lowest byte is byte `b` of lane `l` is enabled (R55, R63). -/
def Ctx.en (c : Ctx) (l b : Nat) : Bool :=
  match c.iss.pfx with
  | none => true
  | some p =>
    match p.mask with
    | none => true
    | some m => (c.g.m.getD m.val 0).getLsbD (8 * l + b)

/-- Disabled elements of the destination are zeroed (R61, R63). -/
def Ctx.zeroing (c : Ctx) : Bool :=
  match c.iss.pfx with
  | none => false
  | some p => p.zeroing

/-- The rounding mode in force: RNE unless the prefix overrides it (R63). -/
def Ctx.rmode (c : Ctx) : RMode :=
  match c.iss.pfx with
  | none => .rne
  | some p => p.round.getD .rne

/-- The fourth operand: the prefix's c field, or the register d names (R63). -/
def Ctx.fourth (c : Ctx) (d : Dst) : Src :=
  match c.iss.pfx with
  | none => d.src
  | some p => p.c

/-- Sub-element `e` of width `w` of a register value (R50). -/
def subElem (w : Width) (x : Word) (e : Nat) : Nat := x.toNat / 2 ^ (w.bits * e) % 2 ^ w.bits

/-- A register value from its sub-elements, lowest first. -/
def packElems (w : Width) : List Nat → Nat
  | [] => 0
  | x :: xs => x % 2 ^ w.bits + 2 ^ w.bits * packElems w xs

/-- Sub-element `e` of a source in a lane. -/
def Ctx.elem (c : Ctx) (w : Width) (r : Src) (l e : Nat) : Nat := subElem w (c.read l r) e

/-- The destination of a lane after an element-wise word: enabled elements are computed, disabled ones are zeroed or
left (R63, R155). -/
def Ctx.elemResult (c : Ctx) (w : Width) (d : Dst) (f : Nat → Nat → Nat) (l : Nat) : Word :=
  BitVec.ofNat 64 (packElems w ((List.range w.elems).map (fun e =>
    if c.en l (w.bytes * e) then f l e else if c.zeroing then 0 else c.elem w d.src l e)))

/-- The gang after an element-wise word computed by `f` on lane and sub-element (R155). -/
def Ctx.writeElems (c : Ctx) (w : Width) (d : Dst) (f : Nat → Nat → Nat) : Gang :=
  c.g.writeDst c.iss.active d (c.elemResult w d f)

/-- A word that changes only its gang and then goes on: checks first, then the change. -/
def gangWord (s : State) (check : Ctx → Except Trap Unit) (f : Ctx → Gang) : Out :=
  withCtx s (fun c =>
    match check c with
    | .error t => .next (s.trap t)
    | .ok _ => .next (s.retire (f c)))

/-- An element-wise word (R155): operands checked, then computed by lane and sub-element. -/
def elemWord (s : State) (w : Width) (d : Dst) (srcs : Ctx → List Src) (f : Ctx → Nat → Nat → Nat) : Out :=
  gangWord s (fun c => c.check (d.src :: srcs c)) (fun c => c.writeElems w d (f c))

/-- An element-wise word of one source. -/
def unaryWord (s : State) (w : Width) (d : Dst) (a : Src) (f : Nat → Nat) : Out :=
  elemWord s w d (fun _ => [a]) (fun c l e => f (c.elem w a l e))

/-- An element-wise word of two sources. -/
def binaryWord (s : State) (w : Width) (d : Dst) (a b : Src) (f : Nat → Nat → Nat) : Out :=
  elemWord s w d (fun _ => [a, b]) (fun c l e => f (c.elem w a l e) (c.elem w b l e))

/-- An element-wise word of three sources, the third the prefix's c field or d (R63). -/
def ternaryWord (s : State) (w : Width) (d : Dst) (a b : Src) (f : Nat → Nat → Nat → Nat) : Out :=
  elemWord s w d (fun c => [a, b, c.fourth d]) (fun c l e => f (c.elem w a l e) (c.elem w b l e) (c.elem w (c.fourth d) l e))

/-- The mask bits of an element: those of its bytes (R55, R155). -/
def elemMask (w : Width) (l e : Nat) : MaskBits := BitVec.ofNat 256 ((2 ^ w.bytes - 1) * 2 ^ (8 * l + w.bytes * e))

/-- The elements of the active lanes, by lane and sub-element. -/
def Ctx.elements (c : Ctx) (w : Width) : List (Nat × Nat) :=
  c.lanes.flatMap (fun l => (List.range w.elems).map (fun e => (l, e)))

/-- A mask register changed. -/
def Gang.setMask (g : Gang) (m : MaskNo) (v : MaskBits) : Gang := { g with m := g.m.set m.val v }

/-- A mask register read. -/
def Gang.mask (g : Gang) (m : MaskNo) : MaskBits := g.m.getD m.val 0

/-- The mask after a compare word: the bits of each enabled element of each active lane take its relation (R155, R169). -/
def Ctx.compared (c : Ctx) (w : Width) (old : MaskBits) (p : Nat → Nat → Bool) : MaskBits :=
  (c.elements w).foldl (fun m x =>
    if c.en x.1 (w.bytes * x.2) then
      if p x.1 x.2 then m ||| elemMask w x.1 x.2 else m &&& ~~~elemMask w x.1 x.2
    else m) old

/-- A compare word (R169, R173). -/
def compareWord (s : State) (w : Width) (d : MaskNo) (a b : Src) (p : Nat → Nat → Bool) : Out :=
  gangWord s (fun c => c.check [a, b]) (fun c =>
    c.g.setMask d (c.compared w (c.g.mask d) (fun l e => p (c.elem w a l e) (c.elem w b l e))))

/-- The condition bit of a lane: bit 8l of a mask (R55). -/
def Gang.cond (g : Gang) (m : MaskNo) (l : Nat) : Bool := (g.mask m).getLsbD (8 * l)

/-- The eight mask bits of every lane of a set. -/
def lanesMask (act : LaneBits) : MaskBits := (laneList act).foldl (fun m l => m ||| laneMask l) 0

end Sys2Proof.Machine
end

