-- ==== Sys2Proof/Machine/Virtual.lean ====
section
/-! DEFINITION. Accesses to memory as the words make them (R106 to R119, R184 to R186): the checks of R108, what each element
does at its home, staging in the Teller's buffer (R148) and what an issued access leaves outstanding (R185). -/
namespace Sys2Proof.Machine

/-! ### The checks of R108 -/

/-- One virtual access of a word, within one page: its lane, address and length. -/
structure VAcc where
  lane : Nat
  addr : Nat
  n : Nat
  deriving DecidableEq, Repr

/-- What the checks of a virtual access find: every element's location, and whether it is a memory-side line (R116); a trap (with
the granule read, for step 6); or the faulting walks. -/
inductive VCheck
  | ok (locs : List (Loc × Bool))
  | trap (t : Trap) (granule : Option Nat)
  | stall (ws : List StallWalk)
  deriving DecidableEq, Repr

/-- A trap that names an address in a space (R306). -/
def addrTrap (cause lane addr space : Nat) : Trap := { cause := cause, lane := lane, info := spaceInfo addr space }

/-- Step 5 of R108: the leaf admits the access, and the home supports it (R118, R119). -/
def step5 (smode : Bool) (k : AccKind) (home : Loc → Bool) (w : Walk) : Bool :=
  match w with
  | .ok loc leaf => leaf.allows smode k && home loc
  | .fault _ => true

/-- The faulting walks of a word, one for each faulting entry, lowest lane first (R348, R349). -/
def faultWalks (k : AccKind) (ws : List (VAcc × Walk)) : List StallWalk :=
  ws.foldl (fun acc p =>
    match p.2 with
    | .fault f =>
      if acc.any (fun x => x.fault.key == f.key) then acc
      else acc ++ [StallWalk.mk f p.1.lane p.1.addr (spaceInfo p.1.addr 0) k.code]
    | .ok _ _ => acc) []

/-- A lane as a set. -/
def oneLane (l : Nat) : LaneBits := BitVec.ofNat 32 (2 ^ l)

/-- A store of some of the lanes that is still to be performed covers a run whole: it mends an uncorrectable error there before any later
read of theirs (R126, R132 item 1, R133). -/
def Gang.mends (g : Gang) (lanes : LaneBits) (sp : Spot) (n : Nat) : Bool :=
  g.ops.any (fun o => o.todo.any (fun y =>
    y.writes && y.lanes &&& lanes != 0 && y.spot.meets y.n sp 1 && y.spot.meets y.n (sp.plus (n - 1)) 1))

/-- The first byte of an access that a read would consume from a failing granule (R126), but for the bytes that `own` says the lane
supplies itself: its lane, virtual and physical address. -/
def State.badByte (s : State) (g : Gang) (lanes : LaneBits) (own : VAcc → Nat → Bool) (a : VAcc) (loc : Loc) : Option (Nat × Nat × Nat) :=
  match loc with
  | .pkg pa =>
    ((List.range a.n).find? (fun i => s.failing.contains ((pa + i) / 32) && !own a i
      && !g.mends lanes (.vm (.pkg ((pa + i) / 32 * 32))) 32)).map (fun i => (a.lane, a.addr + i, pa + i))
  | _ => none

/-- The locations of walks that all succeed, and whether each is a memory-side line. -/
def walkLocs (ws : List (VAcc × Walk)) : List (VAcc × Loc × Bool) :=
  ws.filterMap (fun p =>
    match p.2 with
    | .ok loc leaf => some (p.1, loc, leaf.ms)
    | .fault _ => none)

/-- Step 6 of R108 over the elements. -/
def step6 (s : State) (g : Gang) (lanes : Nat → LaneBits) (own : VAcc → Nat → Bool) (ls : List (VAcc × Loc × Bool)) : VCheck :=
  match ls.findSome? (fun p => s.badByte g (lanes p.1.lane) own p.1 p.2.1) with
  | some (l, va, pa) => .trap (addrTrap Cause.uncorrectableData l va 0) (some pa)
  | none => .ok (ls.map (·.2))

/-- The translations held for the core of the word (R346). -/
def Ctx.tlb (c : Ctx) (s : State) : List TlbEntry := s.coreTlb c.iss.core

/-- Steps 4 to 6 of R108 for virtual accesses in increasing lane order; step 6 only where data is read (R148), and not for the bytes
that `own` says the lane supplies; `lanes` gives the lanes in whose program order an access stands (R133). -/
def Ctx.translateAll (c : Ctx) (s : State) (k : AccKind) (home : Loc → Bool) (reads : Bool) (as : List VAcc)
    (own : VAcc → Nat → Bool := fun _ _ => false) (lanes : Nat → LaneBits := oneLane) : VCheck :=
  let ws := as.map (fun a => (a, walk s (c.tlb s) c.blk.cfg.asid a.addr))
  match faultWalks k ws with
  | f :: fs => .stall (f :: fs)
  | [] =>
    match ws.find? (fun p => !step5 c.blk.cfg.smode k home p.2) with
    | some p => .trap (addrTrap Cause.accessViolation p.1.lane p.1.addr 0) none
    | none => if reads then step6 s c.g lanes own (walkLocs ws) else .ok ((walkLocs ws).map (·.2))

/-- Steps 1 and 2 of R108 for virtual accesses. -/
def virtualForm (align : Nat) (as : List VAcc) : Option Trap :=
  match as.find? (fun a => decide (2 ^ 56 ≤ a.addr)) with
  | some a => some (addrTrap Cause.accessViolation a.lane a.addr 0)
  | none => (as.find? (fun a => a.addr % align != 0)).map (fun a => addrTrap Cause.misaligned a.lane a.addr 0)

/-- All the checks of R108 for virtual accesses. -/
def Ctx.virtualChecks (c : Ctx) (s : State) (align : Nat) (k : AccKind) (home : Loc → Bool) (reads : Bool)
    (as : List VAcc) : VCheck :=
  match virtualForm align as with
  | some t => .trap t none
  | none => c.translateAll s k home reads as

/-- Steps 1 and 2 of R108 for offsets in a scratchpad (space 1) or a group window (space 3). -/
def Ctx.offsetChecks (c : Ctx) (n space : Nat) (os : List (Nat × Int)) : Option Trap :=
  let lim : Int := ((1024 * c.blk.cfg.dsp : Nat) : Int)
  match os.find? (fun p => decide (p.2 < 0) || decide (lim < p.2 + n)) with
  | some (l, o) => some (addrTrap Cause.accessViolation l (lowBits 56 o) space)
  | none => (os.find? (fun p => decide (p.2 % (n : Int) ≠ 0))).map (fun p => addrTrap Cause.misaligned p.1 (lowBits 56 p.2) space)

/-- A check's trap, its read of a failing granule logged (R364), or its stall, from which `work` repeats (R108); otherwise the
word goes on. `src` is the code of R349. -/
def vOut (s : State) (src : Nat) (work : VWork) (v : VCheck) (k : List (Loc × Bool) → Out) : Out :=
  match v with
  | .ok locs => k locs
  | .trap t none => .next (s.trap t)
  | .trap t (some pa) => .next ((s.log (pa / Config.towerBytes) { kind := 1, addr := pa }).trap t)
  | .stall ws => .next (s.stall src ws (some work))

/-! ### Elements of a vector access word (R184) -/

/-- The active lanes whose element is enabled: mask bit 8l (R55, R184). -/
def Ctx.onLanes (c : Ctx) : List Nat := c.lanes.filter (fun l => c.en l 0)

/-- The active lanes whose element is disabled and zeroed (R63). -/
def Ctx.zeroLanes (c : Ctx) : List Nat := if c.zeroing then c.lanes.filter (fun l => !c.en l 0) else []

/-- EA of a lane (R184). -/
def Ctx.ea (c : Ctx) (a : Src) (off : Int) (l : Nat) : Nat := lowBits 64 (((c.read l a).toNat : Int) + off)

/-- The offset of a lane in a scratchpad (R184). -/
def Ctx.offset (c : Ctx) (a : Src) (off : Int) (l : Nat) : Int := ((c.read l a).toNat : Int) + off

/-- The home supports the atomic (R119): on a host page only `aadd`, `axch` and `acas`. -/
def atomHome (op : AtomOp) : Loc → Bool
  | .host _ => op == .aadd || op == .axch || op == .acas
  | _ => true

/-! ### Issuing accesses (R185) -/

/-- The register results of zeroed elements (R63, R189). -/
def zeroResults (zs : List MemElem) : List RegWrite :=
  zs.filterMap (fun e => e.reg.map (fun r => { lane := e.lane, reg := r, value := 0 }))

/-- The zeroed elements of a destination (R63, R189). -/
def Ctx.zeroElems (c : Ctx) (d : Dst) : List MemElem := c.zeroLanes.map (fun l => { lane := l, reg := c.g.dstIndex l d })

/-- A memory operation of the word, with accesses in the word's context (R39, R347). -/
def Ctx.memOp (c : Ctx) (xs : List Access) (zs : List MemElem) : Op :=
  { c.g.newOp c.iss.active .a .memory with
    isRead := xs.any Access.reads
    isWrite := xs.any Access.writes
    todo := xs
    peer := xs.any (fun x => x.spot.isPeer)
    asid := some c.blk.cfg.asid
    regs := zeroResults zs }

/-- Accesses with their places among the requests of a tower to peer memory, from a number on (R361). -/
def numberFrom (n : Nat) : List Access → List Access
  | [] => []
  | x :: r => if x.spot.isPeer then { x with turn := n + 1 } :: numberFrom (n + 1) r else x :: numberFrom n r

/-- The accesses of an operation take their places among the requests of its tower to peer memory (R361). -/
def State.numbered (s : State) (core : Nat) (o : Op) : State × Op :=
  let k := (o.todo.filter (·.spot.isPeer)).length
  if k = 0 then (s, o)
  else
    (s.modTower (towerOf core) (fun t => { t with requests := t.requests + k }),
     { o with todo := numberFrom (s.tower (towerOf core)).requests o.todo })

/-- Accesses, each with the topmost entry that the translation of its address used (R347). -/
def translatedBy (tlb : List TlbEntry) (asid : BitVec 16) : List Access → List (Nat × Nat) → List Access
  | x :: xs, p :: ps => { x with via := topEntry tlb asid p.2 } :: translatedBy tlb asid xs ps
  | xs, _ => xs

/-- A word issues its operation, and its lanes go on (R185); one that reads peer memory waits for its completion (R119, R362):
`vas` gives the lane and the virtual address of each access. -/
def Ctx.issueOp (c : Ctx) (s : State) (o : Op) (vas : List (Nat × Nat)) : State :=
  let (s1, o1) := s.numbered c.iss.core { o with todo := translatedBy (c.tlb s) c.blk.cfg.asid o.todo vas }
  if o1.todo.any (fun x => x.spot.isPeer && x.reads) then
    s1.setGang c.iss.core c.iss.gang (c.g.hold c.iss c.iss.active (.peer o1 vas))
  else s1.retire (c.g.addOp o1)

/-! ### Staged entries (R148, R151) -/

/-- An access to be staged, before it has its place. -/
structure StageReq where
  kind : TellerKind
  size : Nat
  addr : Nat
  data : Word
  lane : Nat
  deriving DecidableEq, Repr

/-- The trap of a word that cannot be staged (R148, R306): space 7, the lowest address it would write. -/
def stageTrap (lane : Nat) (rs : List StageReq) : Trap :=
  addrTrap Cause.accessViolation lane (rs.foldl (fun m r => min m r.addr) (2 ^ 56)) 7

/-- Entries appended to the buffer, numbered in staging order (R150, R320). -/
def Block.stageAll (b : Block) (gi : Nat) (g : Gang) (rs : List StageReq) : Block × Gang :=
  let es := rs.mapIdx (fun i r => TellerEntry.mk r.kind r.size (BitVec.ofNat 56 r.addr) r.data g.flush r.lane gi (g.stagedSeq + i))
  ({ b with teller := b.teller ++ es }, { g with stagedSeq := g.stagedSeq + rs.length })

/-- A word of a deterministic launch stages its entries, does not issue for want of room, or traps (R148); its flag A counts an operation
that is complete once staged (R185). `src` says which residues an `rpst` stages (R367). -/
def Ctx.stageWord (c : Ctx) (s : State) (rs : List StageReq) (src : Option (Nat × Nat × Nat × Nat) := none) : State :=
  match c.blk.stageRoom c.g rs.length with
  | some true => s.notIssued c.g
  | some false => s.trap (stageTrap ((rs.map (·.lane)).foldl min 31) rs)
  | none =>
    let (b, g) := c.blk.stageAll c.iss.gang c.g rs
    let g1 := g.addOp { g.newOp c.iss.active .a .memory with isWrite := true, staged := src }
    (s.setBlock c.iss.core (b.setGang c.iss.gang g1)).retire g1

/-- The bytes of a range cut into naturally aligned pieces of at most 8 bytes, lowest first (R148): address and length. -/
def cutRange : Nat → Nat → Nat → List (Nat × Nat)
  | 0, _, _ => []
  | fuel + 1, a, n =>
    if n = 0 then []
    else
      let k := if a % 8 = 0 ∧ 8 ≤ n then 8 else if a % 4 = 0 ∧ 4 ≤ n then 4 else if a % 2 = 0 ∧ 2 ≤ n then 2 else 1
      (a, k) :: cutRange fuel (a + k) (n - k)

/-- The store entries of a range of bytes (R148). -/
def stageRange (lane a : Nat) (bytes : List Byte) : List StageReq :=
  (cutRange (bytes.length + 1) a bytes.length).map (fun p =>
    ⟨.store, p.2, p.1, BitVec.ofNat 64 (ofLeBytes ((bytes.drop (p.1 - a)).take p.2)), lane⟩)

/-! ### Words -/

/-- The access of an element at its place. -/
def MemElem.access (e : MemElem) (p : Loc × Bool) (n : Nat) (ord : MemOrder) (a : AccAct) : Access :=
  { lane := e.lane, lanes := oneLane e.lane, spot := .vm p.1, n := n, act := a, ord := ord, direct := p.2 }

/-- The checks of the elements of a word. -/
def elemAccs (es : List MemElem) (n : Nat) : List VAcc := es.map (fun e => ⟨e.lane, e.va, n⟩)

/-- The lanes of elements, with their addresses. -/
def elemVas (es : List MemElem) : List (Nat × Nat) := es.map (fun e => (e.lane, e.va))

/-- What a load of an address takes from its lane's own staged entries (R151). -/
def Ctx.forward (c : Ctx) (fresh va : Nat) : Option Forward := if c.blk.cfg.det then some ⟨c.iss.gang, va, c.g.stagedSeq, fresh⟩ else none

/-- A byte of a load that its lane's own staged entries supply (R151). -/
def Ctx.ownByte (c : Ctx) (fresh : Nat) (a : VAcc) (i : Nat) : Bool :=
  (c.forward fresh a.addr).any (fun f => (c.blk.forwardByte f a.lane i).isSome)

/-- The accesses of a load, at its places. -/
def Ctx.loads (c : Ctx) (fresh : Nat) (w : Width) (sgn : Bool) (ord : MemOrder) (es : List MemElem) (locs : List (Loc × Bool)) :
    List Access :=
  (es.zip locs).map (fun p => p.1.access p.2 w.bytes ord (.load w sgn p.1.reg (c.forward fresh p.1.va)))

/-- A load from step 4 of R108 on (R189 to R191). -/
def Ctx.goLoad (c : Ctx) (s : State) (w : Width) (sgn : Bool) (ord : MemOrder) (es zs : List MemElem) : Out :=
  vOut s 0 (.load w sgn ord es zs)
      (c.translateAll s .read (fun _ => true) true (elemAccs es w.bytes) (c.ownByte s.freshCount)) (fun locs =>
    let s1 := if c.blk.cfg.det then { s with freshCount := s.freshCount + 256 } else s
    .next (c.issueOp s1 (c.memOp (c.loads s.freshCount w sgn ord es locs) zs) (elemVas es)))

/-- The entry that an element of a store or an atomic stages (R148). -/
def MemElem.staged (e : MemElem) (k : TellerKind) (w : Width) : StageReq :=
  ⟨k, w.bytes, e.va, BitVec.ofNat 64 (e.v.toNat % 2 ^ w.bits), e.lane⟩

/-- The accesses of a store, at its places. -/
def stores (w : Width) (ord : MemOrder) (es : List MemElem) (locs : List (Loc × Bool)) : List Access :=
  (es.zip locs).map (fun p => p.1.access p.2 w.bytes ord (.store (leBytes w.bytes p.1.v.toNat)))

/-- A store from step 4 of R108 on (R189, R190): staged in a deterministic launch (R148). -/
def Ctx.goStore (c : Ctx) (s : State) (w : Width) (ord : MemOrder) (es : List MemElem) : Out :=
  vOut s 0 (.store w ord es) (c.translateAll s .write (fun _ => true) false (elemAccs es w.bytes)) (fun locs =>
    if c.blk.cfg.det then .next (c.stageWord s (es.map (·.staged .store w)))
    else .next (c.issueOp s (c.memOp (stores w ord es locs) []) (elemVas es)))

/-- The order of an atomic (R197): device scope, or domain scope in peer or host memory. -/
def atomOrder (sem : ASem) (loc : Loc) : MemOrder :=
  { acq := sem == .acq || sem == .ar, rel := sem == .rel || sem == .ar, scope := if (Spot.vm loc).far then .dom else .dev }

/-- The accesses of an atomic, at its places. -/
def atomics (op : AtomOp) (w : Width) (sem : ASem) (es : List MemElem) (locs : List (Loc × Bool)) : List Access :=
  (es.zip locs).map (fun p => p.1.access p.2 w.bytes (atomOrder sem p.2.1) (.atomic op w p.1.reg p.1.v p.1.c))

/-- The kind of entry that an atomic is staged as (R148). -/
def stagedKind : AtomOp → Option TellerKind
  | .fadda => some .fadda
  | .amaxm => some .amaxm
  | _ => none

/-- An atomic from step 4 of R108 on (R195 to R197): `fadda` and `amaxm` are staged in a deterministic launch (R148). -/
def Ctx.goAtomic (c : Ctx) (s : State) (op : AtomOp) (w : Width) (sem : ASem) (es zs : List MemElem) : Out :=
  let staged := if c.blk.cfg.det then stagedKind op else none
  vOut s 0 (.atomic op w sem es zs) (c.translateAll s .both (atomHome op) staged.isNone (elemAccs es w.bytes)) (fun locs =>
    match staged with
    | some k => .next (c.stageWord s (es.map (·.staged k w)))
    | none => .next (c.issueOp s (c.memOp (atomics op w sem es locs) zs) (elemVas es)))

/-- Steps 1 and 2 of R108 over the elements of a word, and then `k`. -/
def formed (s : State) (align : Nat) (es : List MemElem) (k : Out) : Out :=
  match virtualForm align (elemAccs es align) with
  | some t => .next (s.trap t)
  | none => k

/-- The enabled elements of a word, each lane's address from `ea`. -/
def Ctx.elems (c : Ctx) (ea : Nat → Nat) (reg : Nat → Option Nat) (v cc : Nat → Word) : List MemElem :=
  c.onLanes.map (fun l => { lane := l, reg := reg l, va := ea l, v := v l, c := cc l })

/-- A load from virtual memory, each enabled lane from an address of its own (R189 to R191). -/
def Ctx.virtualLoad (c : Ctx) (s : State) (w : Width) (sgn : Bool) (ord : MemOrder) (d : Dst) (ea : Nat → Nat) : Out :=
  let es := c.elems ea (fun l => c.g.dstIndex l d) (fun _ => 0) (fun _ => 0)
  formed s w.bytes es (c.goLoad s w sgn ord es (c.zeroElems d))

/-- A store to virtual memory (R189, R190). -/
def Ctx.virtualStore (c : Ctx) (s : State) (w : Width) (ord : MemOrder) (ea : Nat → Nat) (val : Nat → Word) : Out :=
  let es := c.elems ea (fun _ => none) val (fun _ => 0)
  formed s w.bytes es (c.goStore s w ord es)

/-- An atomic (R195 to R197). -/
def Ctx.atomicWord (c : Ctx) (s : State) (op : AtomOp) (w : Width) (sem : ASem) (d : Dst) (a : Src) (v cc : Nat → Word) : Out :=
  let es := c.elems (c.ea a 0) (fun l => c.g.dstIndex l d) v cc
  formed s w.bytes es (c.goAtomic s op w sem es (c.zeroElems d))

/-- A word whose operands are checked before it runs (R66). -/
def checkedWord (s : State) (srcs : Ctx → List Src) (k : Ctx → Out) : Out :=
  withCtx s (fun c =>
    match c.check (srcs c) with
    | .error t => .next (s.trap t)
    | .ok _ => k c)

end Sys2Proof.Machine
end

