-- ==== Sys2Proof/Machine/Atomics.lean ====
section
/-! DEFINITION. The atomics (R195 to R197). -/
namespace Sys2Proof.Machine

/-- The width of an atomic (R195). -/
def atomWidth (wide : Bool) : Width := if wide then .b64 else .b32

/-- An atomic of one operand. -/
def atomWord (s : State) (op : AtomOp) (sem : ASem) (wide : Bool) (d : Dst) (a b : Src) : Out :=
  checkedWord s (fun _ => [d.src, a, b]) (fun c => c.atomicWord s op (atomWidth wide) sem d a (fun l => c.read l b) (fun _ => 0))

/-- An atomic with a fourth operand: the prefix's c field or d (R63, R195). -/
def atomWord4 (s : State) (op : AtomOp) (sem : ASem) (wide : Bool) (d : Dst) (a b : Src) : Out :=
  checkedWord s (fun c => [d.src, a, b, c.fourth d]) (fun c =>
    c.atomicWord s op (atomWidth wide) sem d a (fun l => c.read l b) (fun l => c.read l (c.fourth d)))

/-- `aadd` (R195). -/
def execAadd (wide : Bool) (sem : ASem) (d : Dst) (a b : Src) (s : State) : Out := atomWord s .aadd sem wide d a b
/-- `aand` (R195). -/
def execAand (wide : Bool) (sem : ASem) (d : Dst) (a b : Src) (s : State) : Out := atomWord s .aand sem wide d a b
/-- `aor` (R195). -/
def execAor (wide : Bool) (sem : ASem) (d : Dst) (a b : Src) (s : State) : Out := atomWord s .aor sem wide d a b
/-- `axor` (R195). -/
def execAxor (wide : Bool) (sem : ASem) (d : Dst) (a b : Src) (s : State) : Out := atomWord s .axor sem wide d a b
/-- `axch` (R195). -/
def execAxch (wide : Bool) (sem : ASem) (d : Dst) (a b : Src) (s : State) : Out := atomWord s .axch sem wide d a b
/-- `acas` (R195). -/
def execAcas (wide : Bool) (sem : ASem) (d : Dst) (a b : Src) (s : State) : Out := atomWord4 s .acas sem wide d a b
/-- `amin.iW` (R195). -/
def execAminI (wide : Bool) (sem : ASem) (d : Dst) (a b : Src) (s : State) : Out := atomWord s .aminI sem wide d a b
/-- `amax.iW` (R195). -/
def execAmaxI (wide : Bool) (sem : ASem) (d : Dst) (a b : Src) (s : State) : Out := atomWord s .amaxI sem wide d a b
/-- `amin.nW` (R195). -/
def execAminN (wide : Bool) (sem : ASem) (d : Dst) (a b : Src) (s : State) : Out := atomWord s .aminN sem wide d a b
/-- `amax.nW` (R195). -/
def execAmaxN (wide : Bool) (sem : ASem) (d : Dst) (a b : Src) (s : State) : Out := atomWord s .amaxN sem wide d a b
/-- `aincw` (R195). -/
def execAincw (wide : Bool) (sem : ASem) (d : Dst) (a b : Src) (s : State) : Out := atomWord s .aincw sem wide d a b
/-- `adecw` (R195). -/
def execAdecw (wide : Bool) (sem : ASem) (d : Dst) (a b : Src) (s : State) : Out := atomWord s .adecw sem wide d a b
/-- `aaddb`, with its success bits in m7 (R196). -/
def execAaddb (wide : Bool) (sem : ASem) (d : Dst) (a b : Src) (s : State) : Out := atomWord4 s .aaddb sem wide d a b
/-- `fadda.f32` (R195, R197). -/
def execFadda (sem : ASem) (d : Dst) (a b : Src) (s : State) : Out := atomWord s .fadda sem false d a b
/-- `amaxm.f32` (R195, R197). -/
def execAmaxm (sem : ASem) (d : Dst) (a b : Src) (s : State) : Out := atomWord s .amaxm sem false d a b
/-- `amaxrs.f32` (R195). -/
def execAmaxrs (sem : ASem) (d : Dst) (a : Src) (s : State) : Out := atomWord s .amaxrs sem false d a .z

end Sys2Proof.Machine
end

