-- ==== Sys2Proof/Machine/Memory.lean ====
section
/-! DEFINITION. Loads and stores (R189 to R191), group loads (R120 to R125, R192) and residue-plane transfers (R193, R194). -/
namespace Sys2Proof.Machine

/-- The byte offset of an I-form access (R184). -/
def immOffset (w : Width) (i : BitVec 8) : Int := i.toInt * w.bytes

/-! ### Virtual memory (R189, R190) -/

/-- `ld.n` (R189). -/
def execLdN (w : Width) (d : Dst) (a : Src) (i : BitVec 8) (s : State) : Out :=
  checkedWord s (fun _ => [d.src, a]) (fun c => c.virtualLoad s w false {} d (c.ea a (immOffset w i)))
/-- `ld.i` (R189). -/
def execLdI (w : Width) (d : Dst) (a : Src) (i : BitVec 8) (s : State) : Out :=
  checkedWord s (fun _ => [d.src, a]) (fun c => c.virtualLoad s w true {} d (c.ea a (immOffset w i)))
/-- `st` (R189). -/
def execSt (w : Width) (d a : Src) (i : BitVec 8) (s : State) : Out :=
  checkedWord s (fun _ => [d, a]) (fun c => c.virtualStore s w {} (c.ea a (immOffset w i)) (fun l => c.read l d))
/-- `lda`: an acquire read (R190). -/
def execLda (w : Width) (sc : Scope) (d : Dst) (a : Src) (s : State) : Out :=
  checkedWord s (fun _ => [d.src, a]) (fun c =>
    c.virtualLoad s w false { acq := true, scope := sc } d (c.ea a 0))
/-- `stl`: a release write (R190). -/
def execStl (w : Width) (sc : Scope) (a b : Src) (s : State) : Out :=
  checkedWord s (fun _ => [a, b]) (fun c =>
    c.virtualStore s w { rel := true, scope := sc } (c.ea a 0) (fun l => c.read l b))

/-! ### The data scratchpad (R109, R189) -/

/-- The access of a lane at an offset of its block's data scratchpad (R143). -/
def Ctx.scratchAccess (c : Ctx) (lane o n : Nat) (a : AccAct) : Access :=
  { lane := lane, lanes := oneLane lane, spot := .ds c.iss.core o, n := n, act := a }

/-- The first byte of a run of the data scratchpad of the block on a core that lies in a group with an uncorrectable error, which no store of
the lanes, still to be performed, will mend first (R126, R132 item 1). -/
def Gang.dsFails (g : Gang) (core : Nat) (b : Block) (lanes : LaneBits) (o n : Nat) : Option Nat :=
  (List.range n).find? (fun i => b.dsFail.contains ((o + i) / 8) && !g.mends lanes (.ds core ((o + i) / 8 * 8)) 8)

/-- A scratchpad load (R184, R189): the checks, then its accesses. -/
def Ctx.scratchLoad (c : Ctx) (s : State) (w : Width) (sgn : Bool) (d : Dst) (a : Src) (off : Int) : State :=
  let os := c.onLanes.map (fun l => (l, c.offset a off l))
  match c.offsetChecks w.bytes 1 os with
  | some t => s.trap t
  | none =>
    match os.find? (fun p => (c.g.dsFails c.iss.core c.blk (oneLane p.1) p.2.toNat w.bytes).isSome) with
    | some (l, o) => s.trap (addrTrap Cause.uncorrectableData l o.toNat 1)
    | none =>
      c.issueOp s (c.memOp (os.map (fun p =>
        c.scratchAccess p.1 p.2.toNat w.bytes (.load w sgn (c.g.dstIndex p.1 d) none))) (c.zeroElems d)) []

/-- `lds.n` (R189). -/
def execLdsN (w : Width) (d : Dst) (a : Src) (i : BitVec 8) (s : State) : Out :=
  checkedWord s (fun _ => [d.src, a]) (fun c => .next (c.scratchLoad s w false d a (immOffset w i)))
/-- `lds.i` (R189). -/
def execLdsI (w : Width) (d : Dst) (a : Src) (i : BitVec 8) (s : State) : Out :=
  checkedWord s (fun _ => [d.src, a]) (fun c => .next (c.scratchLoad s w true d a (immOffset w i)))

/-- `sts` (R189). -/
def execSts (w : Width) (d a : Src) (i : BitVec 8) (s : State) : Out :=
  checkedWord s (fun _ => [d, a]) (fun c =>
    let os := c.onLanes.map (fun l => (l, c.offset a (immOffset w i) l))
    match c.offsetChecks w.bytes 1 os with
    | some t => .next (s.trap t)
    | none => .next (c.issueOp s (c.memOp (os.map (fun p =>
        c.scratchAccess p.1 p.2.toNat w.bytes (.store (leBytes w.bytes (c.read p.1 d).toNat)))) []) []))

/-! ### The uniform table (R191) -/

/-- A uniform-table word: an index past the table fails (R191, R210). -/
def Ctx.tableLoad (c : Ctx) (s : State) (d : Dst) (idx : Nat → Nat) : Out :=
  match c.lanes.find? (fun l => decide (c.blk.cfg.ucount ≤ idx l)) with
  | some l => .next (s.trap (addrTrap Cause.accessViolation l (idx l) 4))
  | none => c.virtualLoad s .b64 false {} d (fun l => (c.blk.cfg.utab.toNat + 8 * idx l) % 2 ^ 64)

/-- `ldk` (R191). -/
def execLdk (d : Dst) (i : BitVec 8) (s : State) : Out :=
  checkedWord s (fun _ => [d.src]) (fun c => c.tableLoad s d (fun _ => i.toNat))
/-- `ldk.x` (R191). -/
def execLdkX (d : Dst) (a : Src) (s : State) : Out :=
  checkedWord s (fun _ => [d.src, a]) (fun c => c.tableLoad s d (fun l => (c.read l a).toNat))

/-! ### Group loads (R120 to R125, R192) -/

/-- The core that holds a rank of a block's ensemble, if its block is resident. -/
def State.rankCore (s : State) (b : Block) (r : Nat) : Option Nat :=
  (s.membersOf b.ensemble).find? (fun c => (s.block? c).any (fun x => x.rank == r))

/-- A leaf that meets an uncorrectable error: lane, rank and offset, lowest rank first for the lowest lane (R125). -/
def State.groupBad (s : State) (g : Gang) (act : LaneBits) (ms : List (Nat × Nat)) (w : Width) (els : List (Nat × Nat × Nat)) : Option (Nat × Nat × Nat) :=
  els.findSome? (fun p => (ms.find? (fun m => (s.block? m.2).any (fun b => (g.dsFails m.2 b act p.2.2 w.bytes).isSome))).map
    (fun m => (p.1, m.1, p.2.2)))

/-- The leaves of a group load: for each enabled element, one read of each present rank's scratchpad (R120, R124), in the program order of
every active lane (R129, R133). -/
def groupLeaves (act : LaneBits) (ms : List (Nat × Nat)) (w : Width) (els : List (Nat × Nat × Nat)) : List Access :=
  els.flatMap (fun p => ms.map (fun m =>
    { lane := p.1, lanes := act, spot := .ds m.2 p.2.2, n := w.bytes, act := .leaf m.1 p.2.1 }))

/-- A lane's register bits of disabled elements that are zeroed (R63, R192). -/
def Ctx.zeroedParts (c : Ctx) (w : Width) (d : Dst) : List RegWrite :=
  if c.zeroing then
    c.lanes.flatMap (fun l => ((List.range w.elems).filter (fun e => !c.en l (w.bytes * e))).filterMap (fun e =>
      (c.g.dstIndex l d).map (fun r => { lane := l, reg := r, bits := BitVec.ofNat 64 ((2 ^ w.bits - 1) * 2 ^ (w.bits * e)), value := 0 })))
  else []

/-- A group load (R120 to R125, R192): its checks, then its leaves, each read at an instant of its own before it completes. -/
def groupWord (s : State) (op : GroupOp) (d : Dst) (a : Src) : Out :=
  checkedWord s (fun _ => [d.src, a]) (fun c =>
    let w := op.width
    let lanes := c.lanes.filter (fun l => (List.range w.elems).any (fun e => c.en l (w.bytes * e)))
    match c.offsetChecks 8 3 (lanes.map (fun l => (l, c.offset a 0 l))) with
    | some t => .next (s.trap t)
    | none =>
      match lanes, s.deadRanks c.blk with
      | l :: _, r :: _ => .next (s.trap { cause := Cause.groupMembership, lane := l, info := r })
      | _, _ =>
        let ms := (List.range c.blk.cfg.ens).filterMap (fun r => (s.rankCore c.blk r).map (fun k => (r, k)))
        let els := lanes.flatMap (fun l => ((List.range w.elems).filter (fun e => c.en l (w.bytes * e))).map (fun e =>
          (l, e, (c.read l a).toNat + w.bytes * e)))
        match s.groupBad c.g c.iss.active ms w els with
        | some (l, r, o) =>
          .next (s.trap { cause := Cause.uncorrectableData, lane := l, info := spaceInfo o 3 + r * 2 ^ 60 })
        | none =>
          let job : GroupJob := ⟨op, c.blk.cfg.ens, els.filterMap (fun x => (c.g.dstIndex x.1 d).map (fun r => (x.1, x.2.1, r))), []⟩
          let o := { c.memOp (groupLeaves c.iss.active ms w els) [] with regs := c.zeroedParts w d, group := some job }
          .next (s.retire (c.g.addOp o)))

/-- `ldg.add.f32` (R192). -/
def execLdgAddF32 (d : Dst) (a : Src) (s : State) : Out := groupWord s .addF32 d a
/-- `ldg.add.i32` (R192). -/
def execLdgAddI32 (d : Dst) (a : Src) (s : State) : Out := groupWord s .addI32 d a
/-- `ldg.add.i64` (R192). -/
def execLdgAddI64 (d : Dst) (a : Src) (s : State) : Out := groupWord s .addI64 d a
/-- `ldg.max.f32` (R192). -/
def execLdgMaxF32 (d : Dst) (a : Src) (s : State) : Out := groupWord s .maxF32 d a
/-- `ldg.min.f32` (R192). -/
def execLdgMinF32 (d : Dst) (a : Src) (s : State) : Out := groupWord s .minF32 d a
/-- `ldg.amax.f32` (R192). -/
def execLdgAmaxF32 (d : Dst) (a : Src) (s : State) : Out := groupWord s .amaxF32 d a

/-! ### Residue planes (R193, R194) -/

/-- A residue-plane word's operands: residue element address and virtual address of the lowest active lane (R193). -/
structure PlaneArgs where
  r : Nat
  v : Nat
  n : Nat
  deriving DecidableEq, Repr

/-- Steps 1 and 2 of R193. -/
def Ctx.planeForm (c : Ctx) (p : PlaneArgs) : Option Trap :=
  if 2 ^ 56 ≤ p.v then some (addrTrap Cause.accessViolation c.low p.v 0)
  else if 256 * c.blk.cfg.rsp < p.r + 256 * p.n then some (addrTrap Cause.accessViolation c.low p.r 2)
  else if p.r % 256 ≠ 0 then some (addrTrap Cause.misaligned c.low p.r 2)
  else if p.v % 2048 ≠ 0 then some (addrTrap Cause.misaligned c.low p.v 0)
  else none

/-- Step 1 fails for a block that runs past the address space. -/
def PlaneArgs.past (p : PlaneArgs) : Bool := decide (2 ^ 56 < p.v + 2048 * p.n)

/-- The virtual accesses of the word, block by block. -/
def PlaneArgs.accs (p : PlaneArgs) (lane : Nat) : List VAcc := (List.range p.n).map (fun j => ⟨lane, p.v + 2048 * j, 2048⟩)

/-- A residue-plane word up to step 3 (R193). -/
def planeWord (s : State) (d a : Src) (n : BitVec 8) (go : Ctx → PlaneArgs → Out) : Out :=
  checkedWord s (fun _ => [d, a]) (fun c =>
    let p : PlaneArgs := ⟨(c.read c.low d).toNat, (c.read c.low a).toNat, n.toNat + 1⟩
    match c.planeForm p with
    | some t => .next (s.trap t)
    | none => if p.past then .next (s.trap (addrTrap Cause.accessViolation c.low p.v 0)) else go c p)

/-- The accesses of a residue-plane transfer, one for each block; each byte is an access of its own (R130, R133, R193). -/
def Ctx.planeAccs (c : Ctx) (r : Nat) (locs : List (Loc × Bool)) (act : Nat → AccAct) : List Access :=
  locs.mapIdx (fun j p =>
    { lane := c.low, lanes := c.iss.active, spot := .vm p.1, n := 2048, act := act (8 * r + 2048 * j), direct := p.2,
      async := true, grain := 1 })

/-- `rpld` from step 4 of R108 on (R193). -/
def Ctx.goRpld (c : Ctx) (s : State) (p : PlaneArgs) : Out :=
  vOut s 0 (.rpld p.r p.v p.n) (c.translateAll s .read (fun _ => true) true (p.accs c.low) (lanes := fun _ => c.iss.active)) (fun locs =>
    .next (c.issueOp s (c.memOp (c.planeAccs p.r locs .fill) []) ((p.accs c.low).map (fun a => (a.lane, a.addr)))))

/-- `rpld` (R193). -/
def execRpld (d a : Src) (n : BitVec 8) (s : State) : Out := planeWord s d a n (fun c p => c.goRpld s p)

/-- The read of the residue scratchpad that a staged `rpst` makes (R148, R193). -/
def Ctx.stagedRead (c : Ctx) (p : PlaneArgs) : Access :=
  { lane := c.low, lanes := c.iss.active, spot := .rs (8 * p.r), n := 2048 * p.n, act := .spill (8 * p.r), async := true }

/-- An `rpst` is staged (R148), as entries of the lowest active lane (log entry 64), from residues that what its lanes have issued before has
written (R132 item 1). -/
def Ctx.stageRpst (c : Ctx) (s : State) (p : PlaneArgs) : State :=
  let data := fun (j : Nat) => planeBytes c.blk.rs (retiredChannel s c.iss.core) (8 * p.r + 2048 * j) 2048
  c.stageWord s ((List.range p.n).flatMap (fun j => stageRange c.low (p.v + 2048 * j) (data j)))
    (some (c.g.stagedSeq, 256 * p.n, 8 * p.r, p.v))

/-- `rpst` from step 4 of R108 on (R193); staged in a deterministic launch (R148). -/
def Ctx.goRpst (c : Ctx) (s : State) (p : PlaneArgs) : Out :=
  vOut s 0 (.rpst p.r p.v p.n) (c.translateAll s .write (fun _ => true) false (p.accs c.low)) (fun locs =>
    if c.blk.cfg.det then
      if Config.tellerEntries < 256 * p.n then .next (s.trap (addrTrap Cause.accessViolation c.low p.v 7))
      else
        let s1 := s.performFirst c.iss.core c.iss.gang [c.stagedRead p]
        withCtx s1 (fun c => .next (c.stageRpst s1 p))
    else .next (c.issueOp s (c.memOp (c.planeAccs p.r locs .spill) []) ((p.accs c.low).map (fun a => (a.lane, a.addr)))))

/-- `rpst` (R193). -/
def execRpst (d a : Src) (n : BitVec 8) (s : State) : Out := planeWord s d a n (fun c p => c.goRpst s p)

/-- The location is package memory (R118). -/
def Loc.isPkg : Loc → Bool
  | .pkg _ => true
  | _ => false

/-- `rpst.add` from step 4 of R108 on: it takes one entry of the commit stage (R194). -/
def Ctx.goRpstAdd (c : Ctx) (s : State) (p : PlaneArgs) : Out :=
  vOut s 0 (.rpstAdd p.r p.v p.n) (c.translateAll s .both Loc.isPkg true (p.accs c.low) (lanes := fun _ => c.iss.active)) (fun _ =>
    if Config.commitEntries ≤ c.g.commit.length then .next (s.trap (addrTrap Cause.accessViolation c.low p.v 5))
    else
      let g := { c.g with commit := c.g.commit ++ [Commit.mk (p.n - 1) p.r (BitVec.ofNat 64 p.v)] }
      .next (s.retire (g.addOp { g.newOp c.iss.active .a .memory with isWrite := true })))

/-- `rpst.add` (R194). -/
def execRpstAdd (d a : Src) (n : BitVec 8) (s : State) : Out := planeWord s d a n (fun c p => c.goRpstAdd s p)

/-- The blocks of the staged reduce-stores, in staging order: residue element address and virtual address (R194, R208). -/
def commitBlocks (cs : List Commit) : List (Nat × Nat) :=
  cs.flatMap (fun e => (List.range (e.nm1 + 1)).map (fun j => (e.res + 256 * j, e.va.toNat + 2048 * j)))

/-- A trap of `tcommit` names space 5 (R353). -/
def toCommitSpace (v : VCheck) : VCheck :=
  match v with
  | .trap t g => if t.cause = Cause.accessViolation then .trap { t with info := t.info % 2 ^ 56 + 5 * 2 ^ 56 } g else .trap t g
  | .stall ws => .stall (ws.map (fun w => { w with info := w.info % 2 ^ 56 + 5 * 2 ^ 56 }))
  | .ok l => .ok l

/-- The reduce-adds of a `tcommit`, block by block (R118, R208). -/
def Ctx.reduceAccs (c : Ctx) (tlb : List TlbEntry) (bs : List (Nat × Nat)) (locs : List (Loc × Bool)) : List Access :=
  (bs.zip locs).map (fun p =>
    { lane := c.low, lanes := c.iss.active, spot := .vm p.2.1, n := 2048, act := .reduce (8 * p.1.1), direct := p.2.2,
      async := true, grain := 1, via := topEntry tlb c.blk.cfg.asid p.1.2 })

/-- `tcommit` from step 4 of R108 on (R208, R353): its adds are writes at its place in its lanes' program order (R147). -/
def Ctx.goCommit (c : Ctx) (s : State) (t : BitVec 32) : Out :=
  let bs := commitBlocks c.g.commit
  vOut s 0 (.commit t) (toCommitSpace (c.translateAll s .both Loc.isPkg true (bs.map (fun p => ⟨c.low, p.2, 2048⟩)) (lanes := fun _ => c.iss.active))) (fun locs =>
    let g := { c.g with commit := [], tlast := t }
    .next (s.retire (g.addOp { c.memOp (c.reduceAccs (c.tlb s) bs locs) [] with isWrite := true })))

/-- `tcommit` (R208). -/
def execTcommit (a : Src) (s : State) : Out :=
  checkedWord s (fun _ => [a]) (fun c =>
    let t := (c.read c.low a).setWidth 32
    if t.toNat ≤ c.g.tlast.toNat then
      let g := { c.g with commit := [] }
      .next (s.retire (g.addOp { g.newOp c.iss.active .a .memory with isWrite := true }))
    else c.goCommit s t)

end Sys2Proof.Machine
end

