-- ==== Sys2Proof/Machine/Sync.lean ====
section
/-! DEFINITION. Fences (R198), barriers (R199 to R201), monitors (R202), Clearing (R203 to R205), Escrow (R206, R322) and `dflush`
(R149, R207). -/
namespace Sys2Proof.Machine

/-! ### Fences (R198) -/

/-- The word of `cur` is held, and goes on at once if it has nothing to wait for. -/
def Ctx.holdOrGo (c : Ctx) (s : State) (kind : HeldKind) : State :=
  (s.setGang c.iss.core c.iss.gang (c.g.hold c.iss c.iss.active kind)).wakeGang c.iss.core c.iss.gang

/-- `fence` (R198): peer and host accesses are waited for at domain scope only (R144). -/
def execFence (sc : Scope) (sem : Sem) (s : State) : Out :=
  withCtx s (fun c =>
    .next (c.holdOrGo s (.fence sem sc)))

/-- A word that is a release of its active lanes though no access of memory (R137, R205, R206): what they have issued is performed
first. -/
def released (s : State) (dev : Bool) (k : State → Ctx → Out) : Out :=
  let s1 := s.releasePoint s.cur.core s.cur.gang s.cur.active dev
  withCtx s1 (k s1)

/-! ### Barriers (R200, R201) -/

/-- `bar.b` (R200), at block scope (R137). -/
def execBarB (s : State) : Out :=
  released s false (fun s c =>
    let b := c.blk.setGang c.iss.gang (c.g.hold c.iss c.iss.active (.barB c.blk.barB.phase))
    .next ((s.setBlock c.iss.core b).checkBarB c.iss.core))

/-- `bar.e` (R200), at ensemble scope (R137): a partner that has exited or been killed is lost. -/
def execBarE (s : State) : Out :=
  withCtx s (fun c =>
    match s.deadRanks c.blk with
    | _ :: _ => .next (s.trap { cause := Cause.partnerLost, lane := c.low, info := 0 })
    | [] => released s false (fun s c =>
      let b := c.blk.setGang c.iss.gang (c.g.hold c.iss c.iss.active (.barE c.blk.barE.phase))
      .next ((s.setBlock c.iss.core b).checkBarE c.iss.core)))

/-- A named barrier replaced on its tower. -/
def State.setNBar (s : State) (t : Nat) (n : NBar) : State :=
  s.modTower t (fun x => { x with nbars := x.nbars.map (fun y => if y.serial = n.serial then n else y) })

/-- The held word waits on a named barrier in a phase below `p`. -/
def HeldKind.waitsBelow (h : Word) (p : Nat) : HeldKind → Bool
  | .nbar h' q => h' == h && decide (q < p)
  | _ => false

/-- The scope of a named barrier's object (R137 case 2, R201). -/
def NBar.scope (n : NBar) : Scope := if n.device then .dev else .tower

/-- The lanes of every resident gang that wait on an object in a phase below `p` go on, which is an acquire (R201). -/
def State.releaseBarrier (s : State) (h : Word) (sc : Scope) (p : Nat) : State :=
  s.releaseHeld sc (fun _ => true) (HeldKind.waitsBelow h p)

/-- The lanes of a set that arrive last: all but the first `k` (R201). -/
def lastLanes (act : LaneBits) (k : Nat) : LaneBits := laneSet (fun l => (laneList act).drop k |>.contains l)

/-- The arrival of the lanes of an `nbar` at object `n` of tower `t` (R201): one by one; each arrival that brings the phase to n
completes it. -/
def Ctx.arrive (c : Ctx) (s : State) (h : Word) (t : Nat) (n : NBar) : State :=
  let total := n.arrived + c.lanes.length
  let done := total / n.n
  let left := total % n.n
  let stay := if done = 0 then c.iss.active else lastLanes c.iss.active (c.lanes.length - left)
  let s1 := (s.setNBar t { n with phase := n.phase + done, arrived := left }).releaseBarrier h n.scope (n.phase + done)
  let s2 := if stay = c.iss.active then s1 else s1.acquireSync c.iss.core n.scope
  s2.modGang c.iss.core c.iss.gang (fun g =>
    let g1 := g.advance c.iss (c.iss.active &&& ~~~stay)
    if stay = 0 then g1 else g1.hold c.iss stay (.nbar h (n.phase + done)))

/-- `nbar` (R201): the traps, then the arrivals, which are releases (R137). The trap of a tower-scope object names no address:
its TINFO is free (log entry 23). -/
def execNbar (a : Src) (s : State) : Out :=
  checkedWord s (fun _ => [a]) (fun c =>
    let h := c.read c.low a
    match s.barrier? h with
    | none => .next (s.trap { cause := Cause.partnerLost, lane := c.low, info := 1 })
    | some (t, n) =>
      if !n.device && t != towerOf c.iss.core then
        .next (({ s with freshCount := s.freshCount + 1 }).trap
          { cause := Cause.accessViolation, lane := c.low, info := (Config.freeWord s.freshCount).toNat })
      else released s n.device (fun s c => .next (c.arrive s h t n)))

/-- The lowest free entry of a tower's table of named barriers (R201). -/
def Tower.freeNBar (t : Tower) : Option Nat := (List.range 64).find? (fun i => !t.nbars.any (fun n => n.index == i))

/-- `nbnew` (R201). -/
def execNbnew (d : Dst) (a : Src) (s : State) : Out :=
  checkedWord s (fun _ => [d.src, a]) (fun c =>
    let r := (c.read c.low a).toNat
    let t := towerOf c.iss.core
    let give := fun (v : Word) => c.g.writeDst c.iss.active d (fun _ => v)
    match (s.tower t).freeNBar with
    | none => .next (s.retire (give 0))
    | some i =>
      if r % 2 ^ 32 = 0 ∨ 2 ^ 33 ≤ r then .next (s.retire (give 0))
      else
        let n : NBar := { index := i, serial := (s.tower t).nextSerial, device := decide (2 ^ 32 ≤ r), n := r % 2 ^ 32,
                          lid := c.blk.cfg.lid, block := c.blk.cfg.index }
        let s1 := s.modTower t (fun x => { x with nbars := x.nbars ++ [n], nextSerial := x.nextSerial + 1 })
        .next (s1.retire (give (n.handle t))))

/-- `nbfree`: the object dies, and every lane that waits on it is told (R201). -/
def execNbfree (a : Src) (s : State) : Out :=
  checkedWord s (fun _ => [a]) (fun c =>
    let h := c.read c.low a
    let s1 := s.retire c.g
    match s1.barrier? h with
    | none => .next s1
    | some (t, n) =>
      let s2 := s1.modTower t (fun x => { x with nbars := x.nbars.filter (fun y => y.serial != n.serial) })
      .next (State.deliver deliverFuel (s2.notices (fun _ => true) (HeldKind.onBarrier [h]) Cause.partnerLost 1) s2))

/-! ### Monitors (R202) -/

/-- The condition of `monw` on the memory value and the operand, in `w` bits (R202). -/
def condHolds (k : Cond) (w x v : Nat) : Bool :=
  match k with
  | .eq => x == v
  | .ne => x != v
  | .ltI => decide (sintN w x < sintN w v)
  | .geI => decide (sintN w v ≤ sintN w x)
  | .ltN => decide (x < v)
  | .geN => decide (v ≤ x)

/-- `monw` from step 4 of R108 on: each enabled lane arms its condition and waits; the others go on (R202). -/
def Ctx.goMonw (c : Ctx) (s : State) (w : Width) (k : Cond) (es zs : List MemElem) : Out :=
  vOut s 0 (.monw w k es zs) (c.translateAll s .read (fun _ => true) true (elemAccs es w.bytes)) (fun _ =>
    let on := laneSet (fun l => es.any (fun e => e.lane == l))
    let g1 := (c.g.writeRegs (zeroResults zs)).advance c.iss (c.iss.active &&& ~~~on)
    .next (s.setGang c.iss.core c.iss.gang (if on = 0 then g1 else g1.hold c.iss on (.monw w k es))))

/-- `monw` (R202). -/
def execMonw (wide : Bool) (k : Cond) (d : Dst) (a b : Src) (s : State) : Out :=
  checkedWord s (fun _ => [d.src, a, b]) (fun c =>
    let w : Width := if wide then .b64 else .b32
    let es := c.elems (c.ea a 0) (fun l => c.g.dstIndex l d) (fun l => c.read l b) (fun _ => 0)
    formed s w.bytes es (c.goMonw s w k es (c.zeroElems d)))

/-! ### Clearing (R203, R204) -/

/-- The partition a block runs in. -/
def State.partOf (s : State) (b : Block) : Partition := (s.partition? b.cfg.part.val).getD {}

/-- `secin` (R204), an acquire (R205). -/
def execSecin (s : State) : Out :=
  withCtx s (fun c =>
    let p := s.partOf c.blk
    let g : Gang := { c.g with
      depth := min 65535 (c.g.depth + 1)
      entryGen := if c.g.depth = 0 then p.gen else c.g.entryGen }
    let s1 := (s.acquireSync c.iss.core .dev).retire g
    .next (if c.g.depth = 0 then s1.setClearing c.blk.cfg.part (p.modCount p.gen.toNat (· + 1)) else s1))

/-- `secout` (R204); the one that ends the section is a release (R205). -/
def execSecout (s : State) : Out :=
  withCtx s (fun c =>
    if c.g.depth = 1 then released s true (fun s c =>
      .next ((s.retire { c.g with depth := 0 }).setClearing c.blk.cfg.part ((s.partOf c.blk).modCount c.g.entryGen.toNat (· - 1))))
    else .next (s.retire { c.g with depth := c.g.depth - 1 }))

/-- `clreq` (R204), a release (R205). -/
def execClreq (d : Dst) (s : State) : Out :=
  checkedWord s (fun _ => [d.src]) (fun _ => released s true (fun s c =>
    let (gen, p) := (s.partOf c.blk).request
    .next ((s.retire (c.g.writeDst c.iss.active d (fun _ => gen))).setClearing c.blk.cfg.part p)))

/-- `clwait` (R204), an acquire (R205). -/
def execClwait (a : Src) (s : State) : Out :=
  checkedWord s (fun _ => [a]) (fun c =>
    let gen := c.read c.low a
    if gen.toNat ≤ (s.partOf c.blk).done.toNat then .next ((s.acquireSync c.iss.core .dev).retire c.g)
    else if 0 < c.g.depth ∧ c.g.entryGen.toNat < gen.toNat then
      .next (s.trap { cause := Cause.selfDeadlock, lane := c.low, info := gen.toNat })
    else .next (s.setGang c.iss.core c.iss.gang (c.g.hold c.iss c.iss.active (.clwait gen))))

/-! ### Escrow (R206, R322) -/

/-- The two words of an entry (R206). -/
def Escrow.bytes (e : Escrow) : List Byte := leBytes 7 e.addr.toNat ++ [e.tag] ++ leBytes 8 e.stamp.toNat

/-- An entry appended: held, and written at its place in the ring (R322). -/
def appendEscrow (acc : State × Partition) (x : VAddr × Byte) (stamp : Word) : State × Partition :=
  let p := acc.2
  let e : Escrow := ⟨p.appended, x.1, x.2, stamp⟩
  (acc.1.writePkg (p.escBase + 16 * (p.appended % 2 ^ p.escLog2)) e.bytes,
   { p with appended := p.appended + 1, ring := p.ring ++ [e] })

/-- `escrow` (R206), a release. -/
def execEscrow (a b : Src) (s : State) : Out :=
  checkedWord s (fun _ => [a, b]) (fun c =>
    let xs := (c.lanes.map (fun l => ((c.read l a).setWidth 56, (c.read l b).setWidth 8))).filter (fun x => x.1 != 0)
    if 2 ^ (s.partOf c.blk).escLog2 < (s.partOf c.blk).ring.length + xs.length then
      .next (s.trap { cause := Cause.escrowFull, lane := c.low })
    else released s true (fun s c =>
      let (gen, p1) := (s.partOf c.blk).request
      let (s1, p2) := xs.foldl (fun acc x => appendEscrow acc x gen) (s.retire c.g, p1)
      .next (s1.setClearing c.blk.cfg.part p2)))

/-- Taking the oldest released entry: by stamp, then by appending (R206). -/
def Partition.takeEscrow (p : Partition) : Option (Word × Partition) :=
  match minBy? (fun e => e.stamp.toNat) (p.ring.filter (fun e => decide (e.stamp.toNat ≤ p.done.toNat))) with
  | none => none
  | some e => some (BitVec.ofNat 64 (e.addr.toNat + e.tag.toNat * 2 ^ 56), { p with ring := p.ring.filter (fun x => x.seq != e.seq) })

/-- Taking one entry for each lane of a list; a lane that finds none receives 0 (R206). -/
def takeEscrows : List Nat → Partition → List (Nat × Word) × Partition
  | [], p => ([], p)
  | l :: r, p =>
    let (v, p1) := (p.takeEscrow).getD (0, p)
    let (vs, p2) := takeEscrows r p1
    ((l, v) :: vs, p2)

/-- `escpop` (R206), an acquire. -/
def execEscpop (d : Dst) (s : State) : Out :=
  checkedWord s (fun _ => [d.src]) (fun c =>
    let (vs, p) := takeEscrows c.lanes (s.partOf c.blk)
    .next (((s.acquireSync c.iss.core .dev).retire (c.g.writeDst c.iss.active d (fun l => (vs.lookup l).getD 0))).setPartition c.blk.cfg.part.val p))

/-! ### Flush (R149, R207) -/

/-- `dflush` (R207): what the lanes of the gang have done happens before the application of the flush (R150). -/
def execDflush (s : State) : Out :=
  withCtx s (fun c =>
    if c.blk.cfg.det then
      let s1 := s.performBefore c.iss.core c.iss.gang (BitVec.allOnes 32) true
      withCtx s1 (fun c => .next (s1.retire { c.g with flush := c.g.flush + 1 }))
    else .next (s.retire c.g))

end Sys2Proof.Machine
end

