-- ==== Sys2Proof/Machine/Queues.lean ====
section
/-! DEFINITION. The words of the engines: command words (R253 to R256), command-queue status (R260) and queue registers
(R271 to R275). -/
namespace Sys2Proof.Machine

/-! ### Command words (R254 to R256) -/

/-- A command queue of a block. -/
def Block.queue (b : Block) (q : Fin 8) : CmdQueue := b.queues.getD q.val {}

/-- A command queue of a block replaced. -/
def Block.setQueue (b : Block) (q : Fin 8) (x : CmdQueue) : Block := { b with queues := b.queues.set q.val x }

/-- The command that a word accepts (R255, R256, R259). -/
def Ctx.newCommand (c : Ctx) (s : State) (k : CmdKind) (q : Fin 8) (d : Fin 93) (rel : Bool) : Command :=
  { id := s.nextCommand, kind := k, lid := c.blk.cfg.lid, block := c.blk.cfg.index, core := c.iss.core, queue := q,
    ord := ((c.blk.queue q).ord + 1) % 2 ^ 24, asid := c.blk.cfg.asid, smode := c.blk.cfg.smode,
    regs := (List.range 4).map (fun i => regGet (c.g.lane c.low).regs (c.g.wb + d.val + i)),
    gated := rel, rel := rel, skipped := (c.blk.queue q).failed }

/-- A command word (R254, R255): it is accepted with the values it reads. Its flag-A operation completes with that; with release
semantics, once the accesses before it have been performed. -/
def commandWord (s : State) (k : CmdKind) (q : Fin 8) (d : Fin 93) (rel : Bool) : Out :=
  withCtx s (fun c =>
    let last := c.g.wb + d.val + 3
    if c.blk.cfg.allot ≤ last then
      .next (s.trap { cause := Cause.registerBounds, lane := c.low, info := max (c.g.wb + d.val) c.blk.cfg.allot })
    else if 32 ≤ (s.queueOf c.blk.cfg.lid c.blk.cfg.index q).length then .next (s.notIssued c.g)
    else
      let cmd := c.newCommand s k q d rel
      let g := if rel then c.g.addOp { c.g.newOp c.iss.active .a .command with cmd := some cmd.id } else c.g
      let s1 := { s with commands := s.commands ++ [cmd], nextCommand := s.nextCommand + 1 }
      .next ((s1.setBlock c.iss.core (c.blk.setQueue q { c.blk.queue q with ord := cmd.ord })).retire g))

/-- `cpy` (R254). -/
def execCpy (q : Fin 8) (d : Fin 93) (rel : Bool) (s : State) : Out := commandWord s .cpy q d rel
/-- `cpycv` (R254). -/
def execCpycv (q : Fin 8) (d : Fin 93) (rel : Bool) (s : State) : Out := commandWord s .cpycv q d rel
/-- `cpyrd` (R254). -/
def execCpyrd (q : Fin 8) (d : Fin 93) (rel : Bool) (s : State) : Out := commandWord s .cpyrd q d rel
/-- `coll` (R254). -/
def execColl (q : Fin 8) (d : Fin 93) (rel : Bool) (s : State) : Out := commandWord s .coll q d rel

/-! ### Command-queue status (R260) -/

/-- The status word of a queue (R260). -/
def CmdQueue.status (q : CmdQueue) : Nat := q.satMask.toNat * 2 ^ 32 + q.failOrd % 2 ^ 24 * 2 ^ 8 + q.cause % 2 ^ 8

/-- `cqstat` (R260). -/
def execCqstat (d : Dst) (q : Fin 8) (s : State) : Out :=
  gangWord s (fun c => c.check [d.src]) (fun c =>
    c.g.writeDst c.iss.active d (fun _ => BitVec.ofNat 64 (c.blk.queue q).status))

/-- `cqclr` (R260). -/
def execCqclr (q : Fin 8) (s : State) : Out :=
  withCtx s (fun c =>
    .next ((s.retire c.g).modBlock c.iss.core (fun b =>
      b.setQueue q { b.queue q with ord := 0, cause := 0, failOrd := 0, failed := false })))

/-! ### Ports (R271) -/

/-- A stream of a tower, by handle (R271). -/
def Tower.stream? (t : Tower) (h : Nat) : Option Stream := t.streams.find? (·.handle == h)

/-- A stream of a tower changed. -/
def State.modStream (s : State) (t h : Nat) (f : Stream → Stream) : State :=
  s.modTower t (fun x => { x with streams := x.streams.map (fun y => if y.handle = h then f y else y) })

/-- The pop direction (R271). -/
def Binding.isPop : Binding → Bool
  | .intakeIn _ => false
  | _ => true

/-- The elements a port holds; for the Escrow port, the entries released and not taken (R271, R272). -/
def State.portHeld (s : State) (t : Nat) (part : Fin 16) : Binding → Nat
  | .intakeIn h => (((s.tower t).stream? h).map (fun x => x.inQ.length)).getD 0
  | .intakeOut h => (((s.tower t).stream? h).map (fun x => x.outQ.length)).getD 0
  | .quarantine h => (((s.tower t).stream? h).map (fun x => x.quarQ.length)).getD 0
  | .escrow =>
    let p := (s.partition? part.val).getD {}
    (p.ring.filter (fun e => decide (e.stamp.toNat ≤ p.done.toNat))).length

/-- The first `k` elements of a port are taken (R273). -/
def State.takePort (s : State) (t : Nat) (part : Fin 16) (k : Nat) : Binding → List Word × State
  | .intakeIn _ => ([], s)
  | .intakeOut h => ((((s.tower t).stream? h).map (fun x => x.outQ.take k)).getD [], s.modStream t h (fun x => { x with outQ := x.outQ.drop k }))
  | .quarantine h => ((((s.tower t).stream? h).map (fun x => x.quarQ.take k)).getD [], s.modStream t h (fun x => { x with quarQ := x.quarQ.drop k }))
  | .escrow =>
    let (vs, p) := takeEscrows (List.range k) ((s.partition? part.val).getD {})
    (vs.map (·.2), s.setPartition part.val p)

/-- Places of the intake input port (R271). -/
def inputPlaces : Nat := 16

/-- A pop completes for a held word, if its port holds an element (R273): an acquire. -/
def State.popHeld (s : State) (c gi : Nat) (h : Held) (p : Binding) (regs : List (Nat × Nat)) : Option State :=
  match s.block? c with
  | none => none
  | some b =>
    let n := s.portHeld (towerOf c) b.cfg.part p
    if n = 0 then none
    else
      let lanes := laneList h.lanes
      let (vs, s1) := s.takePort (towerOf c) b.cfg.part (min n lanes.length) p
      let got := fun (l : Nat) => (lanes.zip vs).lookup l
      some ((s1.acquireSync c .dev).modGang c gi (fun g =>
        let g1 := g.writeRegs (regs.map (fun r => { lane := r.1, reg := r.2, value := (got r.1).getD 0 }))
        let g2 := g1.writeMasks (lanes.map (fun l => ((7 : MaskNo), laneMask l, if (got l).isSome then laneMask l else 0)))
        g2.release h.id h.lanes))

/-- A push completes for a held word, if its port has room for all its elements (R273). -/
def State.pushHeld (s : State) (c gi : Nat) (h : Held) (p : Binding) (vals : List Word) : Option State :=
  match p with
  | .intakeIn x =>
    match (s.tower (towerOf c)).stream? x with
    | none => none
    | some st =>
      if inputPlaces < st.inQ.length + vals.length then none
      else some ((s.modStream (towerOf c) x (fun y => { y with inQ := y.inQ ++ vals })).modGang c gi (fun g => g.release h.id h.lanes))
  | _ => none

/-- A held `qpop` or `qpush` completes, if it can (R273): on the port it was held on, though its register may have been unbound since (log
entry 74). -/
def State.queueHeld (s : State) (c gi : Nat) (h : Held) : Option State :=
  match h.kind with
  | .qpop p regs => s.popHeld c gi h p regs
  | .qpush p vals => s.pushHeld c gi h p vals
  | _ => none

/-- The word of `cur` is held on a port, and completes at once if it can (R273). -/
def Ctx.holdOnPort (c : Ctx) (s : State) (kind : HeldKind) : State :=
  let s1 := s.setGang c.iss.core c.iss.gang (c.g.hold c.iss c.iss.active kind)
  match (s1.gang? c.iss.core c.iss.gang).bind (fun g => g.heldOf c.g.nextId) with
  | none => s1
  | some h => (s1.queueHeld c.iss.core c.iss.gang h).getD s1

/-- The binding of a queue register (R271). -/
def Block.binding (b : Block) (n : Fin 4) : Option Binding := (b.binds[n.val]?).join

/-- A word on a queue register: unbound, or bound to a port of the other direction, it traps (R274). -/
def portWord (s : State) (srcs : List Src) (n : Fin 4) (ok : Binding → Bool) (k : Ctx → Binding → Out) : Out :=
  checkedWord s (fun _ => srcs) (fun c =>
    match c.blk.binding n with
    | none => .next (s.trap { cause := Cause.queueUnbound, lane := c.low, info := n.val })
    | some p => if ok p then k c p else .next (s.trap { cause := Cause.queueUnbound, lane := c.low, info := n.val }))

/-- `qpop` (R273). -/
def execQpop (d : Dst) (n : Fin 4) (s : State) : Out :=
  portWord s [d.src] n Binding.isPop (fun c p =>
    .next (c.holdOnPort s (.qpop p (c.lanes.filterMap (fun l => (c.g.dstIndex l d).map (fun r => (l, r)))))))

/-- `qpush` (R273), a release. -/
def execQpush (a : Src) (n : Fin 4) (s : State) : Out :=
  portWord s [a] n (fun p => !p.isPop) (fun _ p => released s true (fun s c =>
    .next (c.holdOnPort s (.qpush p (c.lanes.map (fun l => c.read l a))))))

/-- `qlen` (R272). -/
def execQlen (d : Dst) (n : Fin 4) (s : State) : Out :=
  portWord s [d.src] n (fun _ => true) (fun c p =>
    let held := s.portHeld (towerOf c.iss.core) c.blk.cfg.part p
    let v := if p.isPop then held else inputPlaces - held
    .next (s.retire (c.g.writeDst c.iss.active d (fun _ => BitVec.ofNat 64 v))))

/-! ### Binding (R271, R275) -/

/-- A binding word's outcome: `v` in every active lane. -/
def Ctx.bindResult (c : Ctx) (s : State) (d : Dst) (v : Nat) : State :=
  s.modGang c.iss.core c.iss.gang (fun g => (g.writeDst c.iss.active d (fun _ => BitVec.ofNat 64 v)).advance c.iss c.iss.active)

/-- A queue register bound, or unbound. -/
def Ctx.setBinding (c : Ctx) (s : State) (n : Fin 4) (p : Option Binding) : State :=
  s.modBlock c.iss.core (fun b => { b with binds := b.binds.set n.val p })

/-- A configuration record that breaks R275. -/
def streamCfgBad (w : List Nat) : Bool :=
  let g := fun i => w.getD i 0
  [0, 1, 2].any (fun i => bitsOf (g i) 63 56 != 0) || bitsOf (g 3) 63 33 != 0 || [4, 5, 6, 7].any (fun i => g i != 0)
    || g 0 % 64 != 0 || g 1 % 32 != 0 || g 2 % 16 != 0

/-- The lowest free stream of a tower: handles 1 to 16 (R271, R275). -/
def Tower.freeStream (t : Tower) : Option Nat := ((List.range 16).map (· + 1)).find? (fun h => (t.stream? h).isNone)

/-- The stream a configuration record describes (R275). -/
def Ctx.newStream (c : Ctx) (h : Nat) (w : List Nat) : Stream :=
  { handle := h, lid := c.blk.cfg.lid, block := c.blk.cfg.index, core := c.iss.core, asid := c.blk.cfg.asid,
    smode := c.blk.cfg.smode, cls := w.getD 0 0, bnd := w.getD 1 0, mtab := w.getD 2 0, mcount := bitsOf (w.getD 3 0) 31 0,
    notok := decide (bitsOf (w.getD 3 0) 32 32 = 1) }

/-- The record of an intake input at its places, as the word's lanes see it (R275): what they have issued before it on those bytes is
performed first (R132 item 1). -/
def Ctx.readRecord (c : Ctx) (s : State) (locs : List (Loc × Bool)) : State × List Byte :=
  let q : TossRange := { va := 0, n := 64, locs := locs.map (fun l => (l.1, 64, l.2)) }
  (s.performFirst c.iss.core c.iss.gang (q.accesses c.iss.active)).readPlaces (c.iss.core, c.iss.gang, c.iss.active) q.locs

/-- Binding an intake input from step 4 of R108 on: the record is read, and a stream is created (R271, R275). A record that
cannot be read for permission or uncorrectable data, or breaks R275, fails the binding; so does a register that has been bound while the
word stalled. -/
def Ctx.goBind (c : Ctx) (s : State) (d : Dst) (n : Fin 4) (va : Nat) : Out :=
  let t := towerOf c.iss.core
  match (s.tower t).freeStream, c.blk.binding n with
  | some h, none =>
    match c.translateAll s .read (fun _ => true) true [⟨c.low, va, 64⟩] (lanes := fun _ => c.iss.active) with
    | .stall ws => .next (s.stall 0 ws (some (.bind d n va)))
    | .trap _ none => .next (c.bindResult s d 0)
    | .trap _ (some pa) => .next (c.bindResult (s.log (pa / Config.towerBytes) { kind := 1, addr := pa }) d 0)
    | .ok locs =>
      let (s1, bs) := c.readRecord s locs
      let w := (List.range 8).map (fun i => ofLeBytes ((bs.drop (8 * i)).take 8))
      if streamCfgBad w then .next (c.bindResult s1 d 0)
      else
        let s2 := s1.modTower t (fun x => { x with streams := x.streams ++ [c.newStream h w] })
        .next (c.bindResult (c.setBinding s2 n (some (.intakeIn h))) d h)
  | _, _ => .next (c.bindResult s d 0)

/-- Binding an intake input (R271): a record address that is not a multiple of 64, or past the address space, fails the binding. -/
def Ctx.bindInput (c : Ctx) (s : State) (d : Dst) (n : Fin 4) (va : Nat) : Out :=
  if va % 64 ≠ 0 ∨ 2 ^ 56 < va + 64 then .next (c.bindResult s d 0)
  else c.goBind s d n va

/-- The stream of a handle, if it is the block's own (R271). -/
def Ctx.ownStream (c : Ctx) (s : State) (h : Nat) : Option Stream :=
  match (s.tower (towerOf c.iss.core)).stream? h with
  | none => none
  | some x => if x.lid = c.blk.cfg.lid ∧ x.block = c.blk.cfg.index then some x else none

/-- Unbinding a register: its port is free to be bound again (R271). -/
def Ctx.unbind (c : Ctx) (s : State) (n : Fin 4) (p : Binding) : State :=
  let s1 := c.setBinding s n none
  match p with
  | .intakeOut h => s1.modStream (towerOf c.iss.core) h (fun x => { x with hasOut := false })
  | .quarantine h => s1.modStream (towerOf c.iss.core) h (fun x => { x with hasQuar := false })
  | _ => s1

/-- The effect of a descriptor (R271): the kind and its 56-bit argument. -/
def Ctx.bindKind (c : Ctx) (s : State) (d : Dst) (n : Fin 4) (kind x : Nat) : Out :=
  let no := Host.Outcome.next (c.bindResult s d 0)
  let t := towerOf c.iss.core
  match kind, c.blk.binding n with
  | 0, some p => if x = 0 then .next (c.bindResult (c.unbind s n p) d 1) else no
  | 1, none => c.bindInput s d n x
  | 2, none =>
    match c.ownStream s x with
    | none => no
    | some st =>
      if st.hasOut then no
      else .next (c.bindResult (c.setBinding (s.modStream t x (fun y => { y with hasOut := true })) n (some (.intakeOut x))) d 1)
  | 3, none =>
    match c.ownStream s x with
    | none => no
    | some st =>
      if st.hasQuar then no
      else .next (c.bindResult (c.setBinding (s.modStream t x (fun y => { y with hasQuar := true })) n (some (.quarantine x))) d 1)
  | 4, none => if x = 0 then .next (c.bindResult (c.setBinding s n (some .escrow)) d 1) else no
  | _, _ => no

/-- `qbind` (R271). A descriptor with bits [63:60], or an argument that its kind has to leave zero, that are not zero binds nothing (log
entry 75). -/
def execQbind (d : Dst) (a : Src) (n : Fin 4) (s : State) : Out :=
  checkedWord s (fun _ => [d.src, a]) (fun c =>
    let x := (c.read c.low a).toNat
    if bitsOf x 63 60 ≠ 0 then .next (c.bindResult s d 0)
    else c.bindKind s d n (bitsOf x 59 56) (bitsOf x 55 0))

end Sys2Proof.Machine
end

