-- ==== Sys2Proof/Machine/Control.lean ====
section
/-! DEFINITION. Control flow (R159 to R162), per-lane loops (R163) and rejoin masks (R164). -/
namespace Sys2Proof.Machine

/-- Target of a displacement in words (R57, R163), modulo 2^56 (log entry 69). -/
def wordTarget {n : Nat} (addr : VAddr) (disp : BitVec n) : VAddr := addr + 4 * (disp.signExtend 56)

/-- The active lanes recorded in a rejoin mask, if the word names one (R159). -/
def Gang.recordRejoin (g : Gang) (rejoin : Option JNo) (act : LaneBits) : Gang :=
  match rejoin with
  | none => g
  | some n => { g with j := modAt g.j n.val (fun x => x ||| act) }

/-- A control transfer without a check of its own: its lanes are placed by `f`. -/
def controlWord (s : State) (f : Ctx → Gang) : Out := withCtx s (fun c => .next (s.placed (f c)))

/-- The lanes of a word each go to a header. -/
def Ctx.gotoEach (c : Ctx) (g : Gang) (t : Nat → VAddr) : Gang := g.modLanes c.iss.active (fun l x => x.goto (t l))

/-- `br` (R159). -/
def execBr (m : MaskNo) (inv : Bool) (rejoin : Option JNo) (disp : BitVec 16) (s : State) : Out :=
  controlWord s (fun c => c.gotoEach (c.g.recordRejoin rejoin c.iss.active) (fun l =>
    if c.g.cond m l != inv then wordTarget c.iss.addr disp else c.iss.addr + 4))

/-- `jmp` (R159). -/
def execJmp (rejoin : Option JNo) (disp : BitVec 16) (s : State) : Out :=
  controlWord s (fun c => c.gotoEach (c.g.recordRejoin rejoin c.iss.active) (fun _ => wordTarget c.iss.addr disp))

/-- The link register of every active lane: allotment register A - 1 (R159). -/
def Ctx.link (c : Ctx) (g : Gang) : Gang :=
  g.modLanes c.iss.active (fun _ x =>
    { x with regs := regSet x.regs (c.blk.cfg.allot - 1) ((c.iss.addr + 4).setWidth 64) })

/-- `call` (R159). -/
def execCall (rejoin : Option JNo) (disp : BitVec 16) (s : State) : Out :=
  controlWord s (fun c => c.gotoEach (c.link (c.g.recordRejoin rejoin c.iss.active)) (fun _ => wordTarget c.iss.addr disp))

/-- The checks of a register target over all active lanes (R160, R312). -/
def Ctx.checkTargets (c : Ctx) (t : Nat → Word) : Except Trap Unit :=
  match c.lanes.find? (fun l => (t l).toNat / 2 ^ 56 != 0) with
  | some l => .error { cause := Cause.accessViolation, lane := l, info := spaceInfo (t l).toNat 6 }
  | none =>
    match c.lanes.find? (fun l => (t l).toNat % 4 != 0) with
    | some l => .error { cause := Cause.misaligned, lane := l, info := spaceInfo (t l).toNat 6 }
    | none => .ok ()

/-- A jump of each lane to a target of its own (R160). -/
def jumpWord (s : State) (srcs : List Src) (t : Ctx → Nat → Word) (link : Bool) : Out :=
  withCtx s (fun c =>
    match c.check srcs with
    | .error e => .next (s.trap e)
    | .ok _ =>
      match c.checkTargets (t c) with
      | .error e => .next (s.trap e)
      | .ok _ => .next (s.placed (c.gotoEach (if link then c.link c.g else c.g) (fun l => (t c l).setWidth 56))))

/-- `jr` (R160). -/
def execJr (a : Src) (s : State) : Out := jumpWord s [a] (fun c l => c.read l a) false

/-- `calr`: the target is read before the link is written (R160). -/
def execCalr (a : Src) (s : State) : Out := jumpWord s [a] (fun c l => c.read l a) true

/-- `ret`: to the link register (R160). -/
def execRet (s : State) : Out := jumpWord s [] (fun c l => regGet (c.g.lane l).regs (c.blk.cfg.allot - 1)) false

/-- Lanes exit: their bits leave every rejoin mask and the loop mask, and emptied masks release (R36, R46). -/
def Gang.exitLanes (g : Gang) (act : LaneBits) : Gang :=
  let g1 := g.modLanes act (fun _ x => { x with exited := true, clause := none, cpos := 0 })
  ({ g1 with j := g1.j.map (fun m => m &&& ~~~act), lm := g1.lm &&& ~~~act } : Gang).releaseParked

/-- Every lane of the gang has exited (R46). -/
def Gang.allExited (g : Gang) : Bool := g.lanes.all (·.exited)

/-- A gang whose lanes have all exited leaves its section, which is a release (R205), and its lease (R45, R204). -/
def State.gangExit (s : State) (c gi : Nat) : State :=
  match s.block? c with
  | none => s
  | some b =>
    match b.gangs[gi]? with
    | none => s
    | some g =>
      if g.allExited then
        let s1 := if g.depth = 0 then s else s.releasePoint c gi (BitVec.allOnes 32) true
        ((s1.modGang c gi (fun g => { g with depth := 0 })).leaveSection b.cfg.part g).modBlock c (·.dropLease gi)
      else s

/-- The handler ends when every handler lane has exited (R311). -/
def State.handlerExit (s : State) (c gi : Nat) : State :=
  match s.gang? c gi with
  | none => s
  | some g =>
    if g.inHandler && !g.lanes.any (fun l => l.hl && !l.exited) then
      (s.setGang c gi g.leaveHandler).takePending c gi
    else s

/-- `exit` (R161, R36, R46, R200, R311). -/
def execExit (s : State) : Out :=
  withCtx s (fun c =>
    let s1 := s.placed (c.g.exitLanes c.iss.active)
    let s2 := (s1.gangExit c.iss.core c.iss.gang).checkBarB c.iss.core
    .next ((s2.checkBarE c.iss.core).handlerExit c.iss.core c.iss.gang))

/-- `nop` (R161). -/
def execNop (s : State) : Out := gangWord s (fun _ => .ok ()) (fun c => c.g)

/-- `yield`: the arbiter may give the sub-core to another gang (R161, R336). -/
def execYield (s : State) : Out :=
  gangWord s (fun _ => .ok ()) (fun c => { c.g with yielded := some (s.core c.iss.core).cycles })

/-- `trap` (R162). -/
def execTrap (i : BitVec 8) (s : State) : Out :=
  withCtx s (fun c => .next (s.trap { cause := Cause.software, lane := c.low, info := i.toNat }))

/-- `brk` (R162). -/
def execBrk (i : BitVec 8) (s : State) : Out :=
  withCtx s (fun c => .next (s.trap { cause := Cause.breakpoint, lane := c.low, info := i.toNat }))

/-- The trip count of a lane after a pass (R163). -/
def tripNext (v : Word) : Word := if v = 0 then 0 else v - 1

/-- `loopt` (R163). -/
def execLoopt (cnt : Dst) (disp : BitVec 15) (s : State) : Out :=
  withCtx s (fun c =>
    match c.check [cnt.src] with
    | .error e => .next (s.trap e)
    | .ok _ =>
      let t := fun l => tripNext (c.read l cnt.src)
      let out := laneSet (fun l => c.iss.active.getLsbD l && t l == 0)
      let g1 := c.g.writeDst c.iss.active cnt t
      let g2 := g1.modLanes c.iss.active (fun l x =>
        if t l = 0 then { x.goto (c.iss.addr + 4) with park := some .loop } else x.goto (wordTarget c.iss.addr disp))
      .next (s.placed ({ g2 with lm := g2.lm &&& ~~~out } : Gang).releaseParked))

/-- `loopt.b` (R163). -/
def execLooptB (cnt : Src) (disp : BitVec 15) (s : State) : Out :=
  withCtx s (fun c =>
    match c.check [cnt] with
    | .error e => .next (s.trap e)
    | .ok _ =>
      if c.g.lm ≠ 0 then .next (s.trap { cause := Cause.illegalConvergence, lane := c.low })
      else
        let inl := laneSet (fun l => c.iss.active.getLsbD l && c.read l cnt != 0)
        let g1 := c.g.modLanes c.iss.active (fun l x =>
          if c.read l cnt = 0 then { x.goto (wordTarget c.iss.addr disp) with park := some .loop } else x.goto (c.iss.addr + 4))
        .next (s.placed ({ g1 with lm := inl } : Gang).releaseParked))

/-- A rejoin mask. -/
def Gang.rejoin (g : Gang) (n : JNo) : LaneBits := g.j.getD n.val 0

/-- A rejoin mask replaced; lanes parked on a mask that is now zero go on (R35, R164). -/
def Gang.setRejoin (g : Gang) (n : JNo) (m : LaneBits) : Gang := ({ g with j := g.j.set n.val m } : Gang).releaseParked

/-- `split` (R164). -/
def execSplit (n : JNo) (s : State) : Out :=
  gangWord s (fun _ => .ok ()) (fun c => c.g.setRejoin n (c.g.rejoin n ||| c.iss.active))

/-- The active lanes park on a rejoin mask, at the header after the word (R164). -/
def Ctx.parkOn (c : Ctx) (n : JNo) : Gang :=
  c.g.modLanes c.iss.active (fun _ x => { x.goto (c.iss.addr + 4) with park := some (.j n) })

/-- `join` (R164). -/
def execJoin (n : JNo) (s : State) : Out :=
  controlWord s (fun c => (c.parkOn n).setRejoin n (c.g.rejoin n &&& ~~~c.iss.active))

/-- `waitj` (R164). -/
def execWaitj (n : JNo) (s : State) : Out := controlWord s (fun c => (c.parkOn n).setRejoin n (c.g.rejoin n))

/-- `jget` (R164). -/
def execJget (d : Dst) (n : JNo) (s : State) : Out :=
  gangWord s (fun c => c.check [d.src]) (fun c => (c.g.writeDst c.iss.active d (fun _ => (c.g.rejoin n).setWidth 64)).releaseParked)

/-- `jset` (R164). -/
def execJset (n : JNo) (a : Src) (s : State) : Out :=
  gangWord s (fun c => c.check [a]) (fun c => c.g.setRejoin n ((c.read c.low a).setWidth 32))

end Sys2Proof.Machine
end

