-- ==== Sys2Proof/Machine/Flags.lean ====
section
/-! DEFINITION. The flag computations: the opening of a clause instance and its counts (R39, R59, R60), and the wait and limit
conditions of a header (R32, R39). The decrements stand in Ops.lean (Gang.settle). -/
namespace Sys2Proof.Machine

/-- A flag is busy while its count is not zero (R39). -/
def Gang.busy (g : Gang) (f : Nat) : Bool := g.flags.getD f 0 != 0

/-- The busy flags as bits [11:0] of TFLAGS (R304). -/
def Gang.tflags (g : Gang) : Nat := (List.range 12).foldl (fun n f => if g.busy f then n + 2 ^ f else n) 0

/-- The header's wait mask names no busy flag (R32, R59). -/
def Gang.waitClear (g : Gang) (h : Header) : Bool := (List.range 12).all (fun f => !(h.wait.getLsbD f && g.busy f))

/-- Counting a flag would not pass 63 (R39). -/
def Gang.roomFor (g : Gang) : Option (Fin 12) → Bool
  | none => true
  | some f => decide (g.flags.getD f.val 0 < 63)

/-- The header may issue (R32, R39). -/
def Gang.headerReady (g : Gang) (h : Header) : Bool := g.waitClear h && g.roomFor h.flagA && g.roomFor h.flagB

/-- A header issues for a path (R39, R60): a new clause instance, its flags counted, its lanes at the first word. -/
def Gang.openClause (g : Gang) (h : Header) (pc : VAddr) (act : LaneBits) : Gang :=
  let id := g.nextId
  let fl1 := match h.flagA with
    | some f => incFlag g.flags f
    | none => g.flags
  let fl2 := match h.flagB with
    | some f => if h.flagA = h.flagB then fl1 else incFlag fl1 f
    | none => fl1
  let g1 : Gang := { g with flags := fl2, nextId := id + 1, clauses := g.clauses ++ [Clause.mk id h.flagA h.flagB h.yieldHint] }
  g1.modLanes act (fun _ l => { l with pc := pc + 4, cpos := h.length, clause := some id })

end Sys2Proof.Machine
end

