-- ==== Sys2Proof/Machine/Fetch.lean ====
section
/-! DEFINITION. Fetching and order-1 checks: reading a code word (R58, R126, R345), eligible lanes and paths (R32, R33), the
choice of paths, and what issues at a path: its header, its prefix and its word (R57 to R66). -/
namespace Sys2Proof.Machine

/-- Why a code word cannot be read. -/
inductive CodeFail | fault (f : WalkFault) | denied | uncorrectable (pa : Nat)
  deriving DecidableEq, Repr

/-- The code word at a virtual address, for a block on a core (R58, R126, R345): of a word that the launch itself writes while it
runs, the new one (log entry 63). -/
def codeAt (s : State) (c : Nat) (b : Block) (va : VAddr) : Except CodeFail Nat :=
  match walk s (s.coreTlb c) b.cfg.asid va.toNat with
  | .fault f => .error (.fault f)
  | .ok loc leaf =>
    if !leaf.allows b.cfg.smode .fetch then .error .denied
    else match loc with
      | .pkg pa => if s.granulesFail pa 4 then .error (.uncorrectable pa) else .ok (memNat s.mem pa 4)
      | _ => .ok (ofLeBytes (s.readLoc loc 4))

/-- The lane may issue its next word, but for the header's conditions (R32): it has not exited, is not parked, does not
wait, and is not frozen (R310). -/
def Gang.free (g : Gang) (l : Lane) : Bool :=
  !l.exited && l.park.isNone && l.wait.isNone && (!g.inHandler || l.hl)

/-- The header at an address may issue, or will stall or trap when it does (R32, R39). -/
def headerOpen (s : State) (c : Nat) (b : Block) (g : Gang) (pc : VAddr) : Bool :=
  match codeAt s c b pc with
  | .error _ => true
  | .ok w =>
    match decodeHeader w with
    | none => true
    | some h => g.headerReady h

/-- Adding a free lane to the paths. -/
def addLane (ps : List Path) (l : Nat) (pc : VAddr) (hdr : Bool) : List Path :=
  match ps with
  | [] => [⟨pc, hdr, BitVec.ofNat 32 (2 ^ l)⟩]
  | p :: r =>
    if p.pc = pc ∧ p.header = hdr then { p with lanes := p.lanes ||| BitVec.ofNat 32 (2 ^ l) } :: r
    else p :: addLane r l pc hdr

/-- The word that a path is to issue, behind its header and its prefix if it has them; none if it cannot be read or is no word. -/
def peekWord (s : State) (c : Nat) (b : Block) (p : Path) : Option (Option Pfx × Instr) :=
  let va := if p.header then p.pc + 4 else p.pc
  match codeAt s c b va with
  | .error _ => none
  | .ok w =>
    if isPfxWord w then
      match codeAt s c b (va + 4) with
      | .error _ => none
      | .ok w2 => (decodes w2).map (fun i => (decodePfx w, i))
    else (decodes w).map (fun i => (none, i))

/-- The entries that a word stages in a deterministic launch before its lanes go on (R148): drains and Toss words stage theirs
later (R223, R246). -/
def stagedCount (x : Ctx) : Instr → Nat
  | .st _ _ _ _ | .stl _ _ _ _ | .fadda _ _ _ _ | .amaxm _ _ _ _ => (x.lanes.filter (fun l => x.en l 0)).length
  | .rpst _ _ n => 256 * (n.toNat + 1)
  | _ => 0

/-- The slot a matrix word waits its turn on (R212). -/
def slotOf : Instr → Option Nat
  | .mxm n _ _ _ | .mxclr n | .mxdrn n _ _ _ _ _ | .mxdrs n _ _ _ | .mxgsum n => some n.val
  | _ => none

/-- The command queue of a command word (R255). -/
def queueOfWord : Instr → Option (Fin 8)
  | .cpy q _ _ | .cpycv q _ _ | .cpyrd q _ _ | .coll q _ _ => some q
  | _ => none

/-- The word goes to the Toss unit (R234). -/
def isToss : Instr → Bool
  | .tossmax _ _ _ | .tosscand _ _ _ | .tossmerge _ _ | .tossdraw _ _ | .tossgenHi _ _ | .tossgenLo _ _ => true
  | _ => false

/-- The unit that a word needs is full (R32): the slot's order (R319), the command queue (R255), the Toss unit's queue (R234), or
the Teller's buffer while an earlier flush of the gang stands in it (R148). -/
def unitFull (s : State) (x : Ctx) (i : Instr) : Bool :=
  (slotOf i).any (fun n => decide (n < x.g.slots.length) && x.g.slotFull n)
  || (queueOfWord i).any (fun q => decide (32 ≤ (s.queueOf x.blk.cfg.lid x.blk.cfg.index q).length))
  || (isToss i && decide (32 ≤ (s.tower (towerOf x.iss.core)).toss.length))
  || (x.blk.cfg.det && x.blk.stageRoom x.g (stagedCount x i) == some true)

/-- The word at a path cannot issue now, for want of room in its unit (R32). -/
def wordFull (s : State) (c gi : Nat) (b : Block) (g : Gang) (p : Path) (w : Option Pfx × Instr) : Bool :=
  unitFull s ⟨b, g, { core := c, gang := gi, addr := p.pc, taddr := p.pc, active := p.lanes, pfx := w.1 }⟩ w.2

/-- The paths of a gang's eligible lanes (R32). -/
def pathsOf (s : State) (c gi : Nat) (b : Block) (g : Gang) : List Path :=
  let all := (List.range 32).foldl (fun ps l =>
    let x := g.lane l
    if g.free x then addLane ps l x.pc (x.cpos == 0) else ps) []
  all.filter (fun p => (!p.header || headerOpen s c b g p.pc) &&
    !(peekWord s c b p).any (wordFull s c gi b g p))

/-- Some lane of a path has a skip count of 64 (R32). -/
def Path.promoted (p : Path) (g : Gang) : Bool := (laneList p.lanes).any (fun l => decide ((g.lane l).skip ≥ 64))

/-- The order of choice: promoted paths by address, then the most lanes, then the lowest address (R32). -/
def Path.before (g : Gang) (p q : Path) : Bool :=
  if p.promoted g && q.promoted g then decide (p.pc.toNat ≤ q.pc.toNat)
  else if p.promoted g then true
  else if q.promoted g then false
  else if laneCount p.lanes = laneCount q.lanes then decide (p.pc.toNat ≤ q.pc.toNat)
  else decide (laneCount p.lanes > laneCount q.lanes)

/-- The at most two paths that issue, the lower address first (R32, R33). -/
def choosePaths (g : Gang) (ps : List Path) : List Path :=
  let two := (sortBy (Path.before g) ps).take 2
  sortBy (fun p q => decide (p.pc.toNat ≤ q.pc.toNat)) two

/-- The skip counts after a choice (R32). -/
def Gang.skips (g : Gang) (ps chosen : List Path) : Gang :=
  ps.foldl (fun g p => g.modLanes p.lanes (fun _ l =>
    { l with skip := if chosen.contains p then 0 else min (l.skip + 1) 64 })) g

/-- The word is a control transfer (R38). -/
def isControl : Instr → Bool
  | .br _ _ _ _ | .jmp _ _ | .call _ _ | .jr _ | .calr _ | .ret | .exit | .trap _ | .brk _ | .loopt _ _ | .looptB _ _
  | .join _ | .waitj _ | .tret | .tretNext | .tretTo _ => true
  | _ => false

/-- The word takes a fourth operand (R61, R166, R173, R195). -/
def takesFourth : Instr → Bool
  | .mad _ _ _ _ | .bsel _ _ _ _ | .fmaF _ _ _ _ | .fmsF _ _ _ _ | .fnmaF _ _ _ _ | .acas _ _ _ _ _ | .aaddb _ _ _ _ _ => true
  | _ => false

/-- A major opcode whose words are vector instructions (R62, R179, R184, R202). -/
def isVectorOp (op : Nat) : Bool :=
  (decide (0x10 ≤ op) && decide (op ≤ 0x73)) ||
  (decide (0x80 ≤ op) && decide (op ≤ 0xAF) && op != 0x98 && op != 0x9C) || op == 0xB2 || op == 0xB3

/-- What comes of fetching at a path: a word to execute, or a state in which it has trapped or stalled. -/
inductive Fetched
  | exec (i : Instr) (s : State)
  | stop (s : State)

/-- A fetch that fails: it stalls, or raises its trap at the word (R108, R126, R345, R348). -/
def State.fetchFail (s : State) (e : CodeFail) (va : VAddr) : State :=
  let info := spaceInfo va.toNat 6
  match e with
  | .fault f => s.stall 0 [⟨f, lowLane s.cur.active, va.toNat, info, 3⟩] none
  | .denied => s.trap { cause := Cause.accessViolation, lane := lowLane s.cur.active, info := info }
  | .uncorrectable pa =>
    (s.log (pa / Config.towerBytes) { kind := 1, addr := pa }).trap
      { cause := Cause.uncorrectableData, lane := lowLane s.cur.active, info := info }

/-- A fetch behind a header that has issued fails to translate: the header issues only with its first word (R60), so it is undone,
and the whole is fetched again. -/
def State.unfetch (s : State) (g : Gang) (f : WalkFault) (va : VAddr) : State :=
  match s.cur.hdr with
  | none => s.fetchFail (.fault f) va
  | some h =>
    let iss : Issue := { core := s.cur.core, gang := s.cur.gang, addr := h, taddr := h, active := s.cur.active }
    ({ s.setGang s.cur.core s.cur.gang (g.undoHeader s.cur) with cur := iss } : State).fetchFail (.fault f) va

/-- An order-1 failure of the word being issued (R66). -/
def State.illegal (s : State) : State := s.trap { cause := Cause.illegalEncoding, lane := lowLane s.cur.active }

/-- Words left in the clause for the path: the least among its lanes. -/
def Gang.wordsLeft (g : Gang) (act : LaneBits) : Nat :=
  (laneList act).foldl (fun n l => min n (g.lane l).cpos) 64

/-- The most words left in the clause among the path's lanes. -/
def Gang.wordsLeftMax (g : Gang) (act : LaneBits) : Nat :=
  (laneList act).foldl (fun n l => max n (g.lane l).cpos) 0

/-- The yield hint at the issue of a word (R59, R161, R336): the word is the last of a clause whose header yields. -/
def Gang.noteYield (g : Gang) (iss : Issue) (cycle : Nat) : Gang :=
  let l := g.lane (lowLane iss.active)
  let last := decide (l.cpos ≤ iss.words)
  let y := match l.clause with
    | none => false
    | some id => g.clauses.any (fun c => c.id == id && c.yield)
  { g with yielded := if last && y then some cycle else none }

/-- The word `w` issues (R62, R65, R38), with `iss` in place. -/
def fetchWord (s : State) (g : Gang) (w : Nat) : Fetched :=
  let s := s.setGang s.cur.core s.cur.gang (g.noteYield s.cur (s.core s.cur.core).cycles)
  match decodes w with
  | none => .exec (.unassignedEncodingIssue (BitVec.ofNat 32 w)) s
  | some i =>
    let badPfx := match s.cur.pfx with
      | none => false
      | some p => !isVectorOp (opOf w) || (!p.cZero && !takesFourth i)
    if badPfx then .stop s.illegal
    else if isControl i && decide (g.wordsLeftMax s.cur.active > s.cur.words) then .stop s.illegal
    else .exec i s

/-- The word at `va`, its lanes inside a clause: a prefix and its word, or a word (R61, R62). -/
def fetchClauseWord (s : State) (b : Block) (g : Gang) (va : VAddr) : Fetched :=
  match codeAt s s.cur.core b va with
  | .error e => .stop (s.fetchFail e va)
  | .ok w =>
    if isPfxWord w then
      match decodePfx w with
      | none => .stop s.illegal
      | some p =>
        if g.wordsLeft s.cur.active ≤ 1 then .stop s.illegal
        else
          let s := { s with cur := { s.cur with pfx := some p, words := 2, addr := va + 4 } }
          match codeAt s s.cur.core b (va + 4) with
          | .error (.fault f) => .stop (s.unfetch g f (va + 4))
          | .error e => .stop (s.fetchFail e (va + 4))
          | .ok w2 => if isPfxWord w2 then .stop s.illegal else fetchWord s g w2
    else fetchWord s g w

/-- What issues at a path of gang `gi` on core `c` (R57 to R66). -/
def fetchPath (s : State) (c gi : Nat) (p : Path) : Fetched :=
  match s.block? c with
  | none => .stop s
  | some b =>
    match b.gangs[gi]? with
    | none => .stop s
    | some g =>
      let iss : Issue := { core := c, gang := gi, addr := p.pc, taddr := p.pc, active := p.lanes }
      let s := { s with cur := iss }
      if !p.header then fetchClauseWord s b g p.pc
      else
        match codeAt s c b p.pc with
        | .error e => .stop (s.fetchFail e p.pc)
        | .ok w =>
          match decodeHeader w with
          | none => .stop (s.trap { cause := Cause.illegalEncoding, lane := lowLane p.lanes, hdr := true })
          | some h =>
            let va := p.pc + 4
            match codeAt s c b va with
            | .error (.fault f) =>
              .stop (s.fetchFail (.fault f) va)
            | _ =>
              let g := g.openClause h p.pc p.lanes
              let s := { s.setGang c gi g with cur := { iss with addr := va, taddr := va, hdr := some p.pc } }
              fetchClauseWord s (b.setGang gi g) g va

end Sys2Proof.Machine
end

