-- ==== Sys2Proof/Machine/System.lean ====
section
/-! DEFINITION. The special registers (R302 to R306), the returns from a trap handler (R312), and an encoding that is not
assigned (R65). -/
namespace Sys2Proof.Machine

/-! ### Special registers (R302 to R304) -/

/-- The CSR numbers that a gang in U mode may read (R304). -/
def userCsr (n : Nat) : Bool := decide (n ≤ 0x07)

/-- The CSR numbers of S mode (R304). -/
def superCsr (n : Nat) : Bool := decide (0x40 ≤ n) && decide (n ≤ 0x46)

/-- MODE (R304). -/
def modeWord (b : Block) (g : Gang) : Nat := b.cfg.smode.toNat + 2 * g.inHandler.toNat

/-- ESCHELD (R304): the entries held, and of those the ones released. -/
def Partition.heldWord (p : Partition) : Nat :=
  p.ring.length % 2 ^ 32 + 2 ^ 32 * (p.ring.filter (fun e => decide (e.stamp.toNat ≤ p.done.toNat))).length

/-- The value of an S-mode CSR: the state of the gang's partition (R304). -/
def Partition.csr (p : Partition) (n : Nat) : Nat :=
  match n with
  | 0x40 => p.escBase
  | 0x41 => 2 ^ p.escLog2
  | 0x42 => p.heldWord
  | 0x43 => p.gen.toNat
  | 0x44 => p.done.toNat
  | 0x45 => p.c0.toNat + 2 ^ 32 * p.c1.toNat
  | _ => p.pend.toNat + 2 * p.queued.toNat

/-- The value of a CSR (R304). -/
def csrValue (s : State) (b : Block) (g : Gang) (n : Nat) : Word :=
  match n with
  | 0x00 => g.tcause
  | 0x01 => g.taddr
  | 0x02 => g.tlane
  | 0x03 => g.tinfo
  | 0x04 => BitVec.ofNat 64 g.tflags
  | 0x05 => BitVec.ofNat 64 (modeWord b g)
  | 0x06 => g.tkeep0
  | 0x07 => g.tkeep1
  | _ => BitVec.ofNat 64 (((s.partition? b.cfg.part.val).getD {}).csr n)

/-- `csrr` (R302). -/
def execCsrr (d : Dst) (n : BitVec 8) (s : State) : Out :=
  withCtx s (fun c =>
    if !(userCsr n.toNat || superCsr n.toNat) then .next s.illegal
    else if superCsr n.toNat && !c.blk.cfg.smode then
      .next (s.trap { cause := Cause.privileged, lane := c.low, info := n.toNat })
    else match c.check [d.src] with
      | .error t => .next (s.trap t)
      | .ok _ =>
        let v := csrValue s c.blk c.g n.toNat
        .next (s.retire (c.g.writeDst c.iss.active d (fun _ => v))))

/-- `csrw`: only TKEEP0 and TKEEP1 can be written (R302, R304). -/
def execCsrw (a : Src) (n : BitVec 8) (s : State) : Out :=
  withCtx s (fun c =>
    if n ≠ 0x06 ∧ n ≠ 0x07 then .next s.illegal
    else match c.check [a] with
      | .error t => .next (s.trap t)
      | .ok _ =>
        let v := c.read c.low a
        .next (s.retire (if n = 0x06 then { c.g with tkeep0 := v } else { c.g with tkeep1 := v })))

/-! ### Returning from a handler (R311, R312) -/

/-- The handler lanes that have not exited. -/
def Gang.handlerLanes (g : Gang) : LaneBits := g.lanesWhere (fun l => l.hl && !l.exited)

/-- Checks 1 and 2 of R312: the gang is in its handler, and the active lanes are its handler lanes. -/
def Ctx.retChecks (c : Ctx) : Except Trap Unit :=
  if !c.g.inHandler then .error { cause := Cause.illegalEncoding, lane := c.low }
  else if c.iss.active ≠ c.g.handlerLanes then .error { cause := Cause.illegalConvergence, lane := c.low }
  else .ok ()

/-- The trap was a `trap` or `brk` (R312). -/
def Resume.software (r : Resume) : Bool := r.cause == Cause.software || r.cause == Cause.breakpoint

/-- A handler lane at the trapping word (R312, `tret`); after `trap` or `brk`, at the next header. -/
def Lane.resumeAt (l : Lane) (r : Resume) : Lane :=
  if r.hdr then l.goto r.taddr
  else if r.software then l.goto (r.taddr + 4)
  else { l with pc := r.taddr, cpos := r.cpos, clause := l.savedClause }

/-- A handler lane at the word after the trapping word (R312, `tret.next`). -/
def Lane.resumeNext (l : Lane) (r : Resume) : Lane :=
  if r.hdr || r.software then l.resumeAt r
  else
    let pc := r.taddr + 4 * BitVec.ofNat 56 r.words
    if r.cpos ≤ r.words then l.goto pc else { l with pc := pc, cpos := r.cpos - r.words, clause := l.savedClause }

/-- A return: the handler lanes move to their resume points, the handler ends, and a pending trap is taken (R308, R312). -/
def Ctx.leave (c : Ctx) (s : State) (f : Lane → Lane) : State :=
  let g := c.g.modLanes c.iss.active (fun _ l => f l)
  (s.setGang c.iss.core c.iss.gang g.leaveHandler).takePending c.iss.core c.iss.gang

/-- What a gang keeps for the return (R310 step 3). -/
def Gang.resumePoint (g : Gang) : Resume := g.resume.getD ⟨0, 1, 0, true, 0⟩

/-- A return to a point kept by the trap (R312). -/
def retWord (s : State) (f : Lane → Resume → Lane) : Out :=
  withCtx s (fun c =>
    match c.retChecks with
    | .error t => .next (s.trap t)
    | .ok _ => .next (c.leave s (fun l => f l c.g.resumePoint)))

/-- `tret` (R312). -/
def execTret (s : State) : Out := retWord s Lane.resumeAt
/-- `tret.next` (R312). -/
def execTretNext (s : State) : Out := retWord s Lane.resumeNext
/-- `tret.to` (R312). -/
def execTretTo (a : Src) (s : State) : Out :=
  withCtx s (fun c =>
    match c.check [a] with
    | .error t => .next (s.trap t)
    | .ok _ =>
      match c.retChecks with
      | .error t => .next (s.trap t)
      | .ok _ =>
        let v := c.read c.low a
        if v.toNat / 2 ^ 56 ≠ 0 then
          .next (s.trap { cause := Cause.accessViolation, lane := c.low, info := spaceInfo v.toNat 6 })
        else if v.toNat % 4 ≠ 0 then
          .next (s.trap { cause := Cause.misaligned, lane := c.low, info := spaceInfo v.toNat 6 })
        else .next (c.leave s (fun l => l.goto (v.setWidth 56))))

/-! ### Encodings that are not assigned (R65) -/

/-- A word that no row of the operation table encodes: its trap at order 1 (R65, R66). -/
def execUnassignedEncodingIssue (_w : BitVec 32) (s : State) : Out := withCtx s (fun _ => .next s.illegal)

end Sys2Proof.Machine
end

