-- ==== Sys2Proof/Machine/Quant.lean ====
section
/-! DEFINITION. The quantiser (R85) and the element classes (R91). -/
namespace Sys2Proof.Machine

/-- What the quantiser produces (R85). -/
structure Quantised where
  exp : Int
  mant : List Int
  sat : Bool
  deriving DecidableEq, Repr

/-- A non-finite input is replaced (R85): sign, magnitude and exponent, and whether it was. -/
def quantInput (q : Nat) : FVal → Bool × Nat × Int × Bool
  | .nan => (false, 0, 0, true)
  | .inf neg => (neg, q, 127, true)
  | .fin neg m e => (neg, m, e, false)

/-- floor(log2 a) of the largest magnitude; none if all are zero (R85). -/
def maxLog2 (xs : List (Bool × Nat × Int × Bool)) : Option Int :=
  xs.foldl (fun acc x =>
    if x.2.1 = 0 then acc
    else
      let l := (Nat.log2 x.2.1 : Int) + x.2.2.1
      match acc with
      | none => some l
      | some k => some (max k l)) none

/-- The mantissas for an exponent (R85). -/
def mantissas (rm : RMode) (xs : List (Bool × Nat × Int × Bool)) (e : Int) : List Int :=
  xs.map (fun x => roundInt rm x.1 x.2.1 (x.2.2.1 - e))

/-- Some mantissa lies outside the class (R85). -/
def outOfClass (q : Nat) (lo : Int) (ms : List Int) : Bool := ms.any (fun m => decide ((q : Int) < m) || decide (m < lo))

/-- The rises of the exponent: at most `n` (R85). -/
def quantRaise (rm : RMode) (b q : Nat) (lo : Int) (xs : List (Bool × Nat × Int × Bool)) (la : Int) : Nat → Int → Int
  | 0, e => e
  | n + 1, e =>
    if outOfClass q lo (mantissas rm xs e) && decide (e < 127) && decide (e + ((b - 1 : Nat) : Int) ≤ la) then
      quantRaise rm b q lo xs la n (e + 1)
    else e

/-- The quantiser (R85): magnitude width `b`, signed or not, over a group. -/
def quantise (b : Nat) (sgn : Bool) (rm : RMode) (vals : List FVal) : Quantised :=
  let q : Nat := 2 ^ b - 1
  let lo : Int := if sgn then -(q : Int) else 0
  let xs := vals.map (quantInput q)
  let e := match maxLog2 xs with
    | none => -128
    | some la => quantRaise rm b q lo xs la 2 (min 127 (max (-128) (la - ((b - 1 : Nat) : Int))))
  let ms := mantissas rm xs e
  ⟨e, ms.map (clampInt lo (q : Int)), xs.any (·.2.2.2) || outOfClass q lo ms⟩

/-- The quantiser's magnitude width of an element class (R91). -/
def clsBits : Cls → Nat
  | .i8 => 7 | .i16 => 15 | .n8 => 8 | .i4 => 3
/-- The class is signed (R91). -/
def clsSigned : Cls → Bool
  | .n8 => false
  | _ => true
/-- The greatest magnitude of a class (R91). -/
def clsMax : Cls → Nat
  | .i8 => 127 | .i16 => 32767 | .n8 => 255 | .i4 => 7
/-- The class of a code (R91). -/
def clsOf : Nat → Option Cls
  | 0 => some .i8 | 1 => some .i16 | 2 => some .n8 | 3 => some .i4
  | _ => none

/-- The residue of an integer in a channel (R90). -/
def residue (c : Nat) (x : Int) : Byte := BitVec.ofNat 8 (x % ((Config.moduli.getD c 255 : Nat) : Int)).toNat

end Sys2Proof.Machine
end

