-- ==== Sys2Proof/Machine/Special.lean ====
section
/-! DEFINITION. The special functions of R88 on f32 bit patterns: exact cases exactly, the others enclosed in an interval of
200 fractional bits whose two ends round alike. -/
namespace Sys2Proof.Machine

/-- Fractional bits of the fixed-point numbers below. -/
def fxBits : Nat := 200
/-- 1 in fixed point. -/
def fxOne : Nat := 2 ^ fxBits
/-- ln 2, rounded down. -/
def fxLn2 : Nat := 1113844574712631719546256151097547306333272293549090750737802
/-- 2π, rounded down. -/
def fxTwoPi : Nat := 10096689509235987743946820282484873672429286842977325943070736
/-- More than the error of any fixed-point result below. -/
def fxErr : Nat := 2 ^ 24

/-- The product of two fixed-point numbers, rounded down. -/
def fxMul (a b : Nat) : Nat := a * b / fxOne

/-- The rest of the series of e^r from a term on: `n` more terms, the next divided by `k`. -/
def expTerms (r : Nat) : Nat → Nat → Nat → Nat
  | 0, _, _ => 0
  | n + 1, k, t => t + expTerms r n (k + 1) (fxMul t r / k)

/-- e^r for r in 0 to 1. -/
def fxExp (r : Nat) : Nat := expTerms r 60 1 fxOne

/-- e^y for a fixed-point y: 2^(y div ln 2) × e^(y mod ln 2). -/
def fxExpBig (y : Nat) : Nat := 2 ^ (y / fxLn2) * fxExp (y % fxLn2)

/-- The rest of an alternating series in a²: the next term is divided by k (k + 1). -/
def trigTerms (sq : Nat) : Nat → Nat → Nat → Int
  | 0, _, _ => 0
  | n + 1, k, t => (t : Int) - trigTerms sq n (k + 2) (fxMul t sq / (k * (k + 1)))

/-- sin a for a in 0 to 1. -/
def fxSin (a : Nat) : Nat := (trigTerms (fxMul a a) 30 2 a).toNat
/-- cos a for a in 0 to 1. -/
def fxCos (a : Nat) : Nat := (trigTerms (fxMul a a) 30 1 fxOne).toNat

/-- The rest of the series of artanh t. -/
def artanhTerms (sq : Nat) : Nat → Nat → Nat → Nat
  | 0, _, _ => 0
  | n + 1, k, p => p / k + artanhTerms sq n (k + 2) (fxMul p sq)

/-- ln y for a fixed-point y in 3/4 to 3/2, with its sign: 2 artanh ((y - 1) / (y + 1)). -/
def fxLn (y : Nat) : Int :=
  let t := (if y < fxOne then fxOne - y else y - fxOne) * fxOne / (y + fxOne)
  signedNat (decide (y < fxOne)) (2 * artanhTerms (fxMul t t) 60 1 t)

/-- The fixed-point number of `m × 2^e`. -/
def toFx (m : Nat) (e : Int) : Nat :=
  if 0 ≤ e + fxBits then m * 2 ^ (e + fxBits).toNat else m / 2 ^ (-(e + fxBits)).toNat

/-- A value known to lie strictly between (x - err) and (x + err) times 2^(k - 200), rounded to f32 (R88): both ends
round alike. -/
def roundNear (rm : RMode) (neg : Bool) (x err : Nat) (k : Int) : Nat :=
  let lo := fmtF32.round rm false neg (x - err) (k - fxBits) true
  let hi := fmtF32.round rm false neg (x + err) (k - fxBits) true
  if lo = hi then hi else lo

/-- An exact value `m × 2^e` rounded to f32. -/
def roundExact (rm : RMode) (neg : Bool) (m : Nat) (e : Int) : Nat := fmtF32.round rm false neg m e

/-- A value just further from zero than `m × 2^e`. -/
def justAbove (rm : RMode) (neg : Bool) (m : Nat) (e : Int) : Nat := fmtF32.round rm false neg (m * 2 ^ 40) (e - 40) true

/-- A value just nearer to zero than `m × 2^e`. -/
def justBelow (rm : RMode) (neg : Bool) (m : Nat) (e : Int) : Nat := fmtF32.round rm false neg (m * 2 ^ 40 - 1) (e - 40) true

/-- Integer square root from the bits of a list, highest first. -/
def isqrtBits (n : Nat) : List Nat → Nat → Nat
  | [], r => r
  | i :: is, r => isqrtBits n is (if (r + 2 ^ i) * (r + 2 ^ i) ≤ n then r + 2 ^ i else r)

/-- The integer square root of a number below 2^512. -/
def isqrt (n : Nat) : Nat := isqrtBits n (List.range 256).reverse 0

/-- `rcp` of a finite nonzero value. -/
def rcpOf (rm : RMode) (neg : Bool) (m : Nat) (e : Int) : Nat :=
  let n := 2 ^ 100
  fmtF32.round rm false neg (n / m) (-e - 100) (n % m != 0)

/-- `sqrt` of a positive value. -/
def sqrtOf (rm : RMode) (m : Nat) (e : Int) : Nat :=
  let m' := if e % 2 = 0 then m else 2 * m
  let e' := if e % 2 = 0 then e else e - 1
  let n := m' * 2 ^ 100
  let r := isqrt n
  fmtF32.round rm false false r (e' / 2 - 50) (r * r != n)

/-- `rsq` of a positive value. -/
def rsqOf (rm : RMode) (m : Nat) (e : Int) : Nat :=
  let m' := if e % 2 = 0 then m else 2 * m
  let e' := if e % 2 = 0 then e else e - 1
  let n := 2 ^ 200 / m'
  let r := isqrt n
  fmtF32.round rm false false r (-(e' / 2) - 100) (r * r != n || 2 ^ 200 % m' != 0)

/-- The magnitude of `m × 2^e` is an integer. -/
def isInteger (m : Nat) (e : Int) : Bool := decide (0 ≤ e) || m % 2 ^ (-e).toNat == 0

/-- The magnitude of `m × 2^e` reaches 2^k. -/
def reaches (m : Nat) (e k : Int) : Bool := m != 0 && decide (k ≤ (Nat.log2 m : Int) + e)

/-- The whole part and the fixed-point fraction of a magnitude below 2^32. -/
def splitFx (m : Nat) (e : Int) : Nat × Nat := (toFx m e / fxOne, toFx m e % fxOne)

/-- `exp2` of a finite value. -/
def exp2Of (rm : RMode) (neg : Bool) (m : Nat) (e : Int) : Nat :=
  if m = 0 then roundExact rm false 1 0
  else if reaches m e 8 then (if neg then roundExact rm false 1 (-200) else roundExact rm false 1 200)
  else if !reaches m e (-30) then (if neg then justBelow rm false 1 0 else justAbove rm false 1 0)
  else
    let (n, f) := splitFx m e
    if f = 0 then roundExact rm false 1 (if neg then -(n : Int) else n)
    else
      let g := if neg then fxOne - f else f
      let k : Int := if neg then -(n : Int) - 1 else n
      roundNear rm false (fxExp (fxMul g fxLn2)) fxErr k

/-- `log2` of a positive value. -/
def log2Of (rm : RMode) (m : Nat) (e : Int) : Nat :=
  let ex : Int := (Nat.log2 m : Int) + e
  let y := m * fxOne / 2 ^ Nat.log2 m
  if y = fxOne then roundExact rm (decide (ex < 0)) ex.natAbs 0
  else
    let up := decide (3 * fxOne ≤ 2 * y)
    let y' := if up then y / 2 else y
    let ex' := if up then ex + 1 else ex
    let x : Int := ex' * (fxOne : Int) + fxLn y' * (fxOne : Int) / (fxLn2 : Int)
    roundNear rm (decide (x < 0)) x.natAbs fxErr 0

/-- sin of 2π u for a fixed-point u in 0 to 1/4, its result a fixed-point number. -/
def fxSinTurn (u : Nat) : Nat :=
  if 8 * u ≤ fxOne then fxSin (fxMul u fxTwoPi) else fxCos (fxMul (fxOne / 4 - u) fxTwoPi)

/-- sin (2π t) for a fixed-point t in 0 to 1, rounded; `neg0` is the sign of a zero result. -/
def sinTurn (rm : RMode) (flip : Bool) (t : Nat) (zero : Bool) : Nat :=
  let h := t % (fxOne / 2)
  let neg := flip != decide (fxOne / 2 ≤ t)
  let u := if fxOne / 4 < h then fxOne / 2 - h else h
  if u = 0 then fmtF32.signed zero 0
  else if 4 * u = fxOne then roundExact rm neg 1 0
  else roundNear rm neg (fxSinTurn u) fxErr 0

/-- `sin2pi` of a finite value. -/
def sin2piOf (rm : RMode) (neg : Bool) (m : Nat) (e : Int) : Nat :=
  if m = 0 || isInteger m (e + 1) then fmtF32.signed neg 0
  else if !reaches m e (-40) then roundNear rm neg (m * fxTwoPi - m * fxTwoPi / 2 ^ 71) (m * fxTwoPi / 2 ^ 71 + m) e
  else sinTurn rm neg (toFx m e % fxOne) neg

/-- `cos2pi` of a finite value. -/
def cos2piOf (rm : RMode) (m : Nat) (e : Int) : Nat :=
  if isInteger m e then roundExact rm false 1 0
  else if !reaches m e (-20) then justBelow rm false 1 0
  else sinTurn rm false ((toFx m e + fxOne / 4) % fxOne) false

/-- `tanh` of a finite value. -/
def tanhOf (rm : RMode) (neg : Bool) (m : Nat) (e : Int) : Nat :=
  if m = 0 then fmtF32.signed neg 0
  else if !reaches m e (-13) then justBelow rm neg m e
  else if reaches m e 5 then justBelow rm neg 1 0
  else
    let x := fxExpBig (2 * toFx m e)
    roundNear rm neg ((x - fxOne) * fxOne / (x + fxOne)) fxErr 0

/-- `sigm` of a finite value. -/
def sigmOf (rm : RMode) (neg : Bool) (m : Nat) (e : Int) : Nat :=
  if m = 0 then roundExact rm false 1 (-1)
  else if !reaches m e (-30) then (if neg then justBelow rm false 1 (-1) else justAbove rm false 1 (-1))
  else if reaches m e 7 then (if neg then roundExact rm false 1 (-200) else justBelow rm false 1 0)
  else
    let x := fxExpBig (toFx m e)
    if neg then roundNear rm false (2 ^ 600 / (x + fxOne)) (2 ^ 430 / x + 1) (-200)
    else roundNear rm false (x * fxOne / (x + fxOne)) fxErr 0

/-- A special function (R88, R174). -/
inductive SpecialFn | rcp | rsq | sqrt | exp2 | log2 | sin2pi | cos2pi | tanh | sigm
  deriving DecidableEq, Repr

/-- f32 infinity with a sign. -/
def infF32 (neg : Bool) : Nat := fmtF32.signed neg 0x7F800000

/-- The result on an infinity (R88). -/
def specialInf (f : SpecialFn) (neg : Bool) : Nat :=
  match f with
  | .rcp => fmtF32.signed neg 0
  | .rsq => if neg then fmtF32.nan else 0
  | .sqrt => if neg then fmtF32.nan else infF32 false
  | .exp2 => if neg then 0 else infF32 false
  | .log2 => if neg then fmtF32.nan else infF32 false
  | .sin2pi => fmtF32.nan
  | .cos2pi => fmtF32.nan
  | .tanh => fmtF32.signed neg 0x3F800000
  | .sigm => if neg then 0 else 0x3F800000

/-- The result on a finite value (R88). -/
def specialFin (f : SpecialFn) (rm : RMode) (neg : Bool) (m : Nat) (e : Int) : Nat :=
  match f with
  | .rcp => if m = 0 then infF32 neg else rcpOf rm neg m e
  | .rsq => if m = 0 then infF32 neg else if neg then fmtF32.nan else rsqOf rm m e
  | .sqrt => if m = 0 then fmtF32.signed neg 0 else if neg then fmtF32.nan else sqrtOf rm m e
  | .exp2 => exp2Of rm neg m e
  | .log2 => if m = 0 then infF32 true else if neg then fmtF32.nan else log2Of rm m e
  | .sin2pi => sin2piOf rm neg m e
  | .cos2pi => cos2piOf rm m e
  | .tanh => tanhOf rm neg m e
  | .sigm => sigmOf rm neg m e

/-- A special function of an f32 bit pattern (R88). -/
def special (f : SpecialFn) (rm : RMode) (x : Nat) : Nat :=
  match fmtF32.val x with
  | .nan => fmtF32.nan
  | .inf neg => specialInf f neg
  | .fin neg m e => specialFin f rm neg m e

end Sys2Proof.Machine
end

