-- ==== Sys2Proof/Machine/Floating.lean ====
section
/-! DEFINITION. Floating-point words (R173), special functions (R174), conversions (R175, R176), block quantisation (R177) and the
amax words (R178). -/
namespace Sys2Proof.Machine

/-! ### Arithmetic and compares (R173) -/

/-- A two-source floating word. -/
def floatWord (s : State) (t : FFmt) (d : Dst) (a b : Src) (f : FloatFmt → RMode → Nat → Nat → Nat) : Out :=
  elemWord s (floatWidth t) d (fun _ => [a, b]) (fun c l e =>
    f (floatFmt t) c.rmode (c.elem (floatWidth t) a l e) (c.elem (floatWidth t) b l e))

/-- A one-source floating word. -/
def floatUnary (s : State) (t : FFmt) (d : Dst) (a : Src) (f : FloatFmt → RMode → Nat → Nat) : Out :=
  elemWord s (floatWidth t) d (fun _ => [a]) (fun c l e => f (floatFmt t) c.rmode (c.elem (floatWidth t) a l e))

/-- A fused word: its third operand is the prefix's c field or d (R63). -/
def fusedWord (s : State) (t : FFmt) (d : Dst) (a b : Src) (f : FloatFmt → RMode → Nat → Nat → Nat → Nat) : Out :=
  elemWord s (floatWidth t) d (fun c => [a, b, c.fourth d]) (fun c l e =>
    f (floatFmt t) c.rmode (c.elem (floatWidth t) a l e) (c.elem (floatWidth t) b l e) (c.elem (floatWidth t) (c.fourth d) l e))

/-- A floating compare into a mask. -/
def floatCompare (s : State) (t : FFmt) (d : MaskNo) (a b : Src) (p : FloatFmt → Nat → Nat → Bool) : Out :=
  compareWord s (floatWidth t) d a b (p (floatFmt t))

/-- `add` (R173). -/
def execAddF (t : FFmt) (d : Dst) (a b : Src) (s : State) : Out := floatWord s t d a b fAdd
/-- `sub` (R173). -/
def execSubF (t : FFmt) (d : Dst) (a b : Src) (s : State) : Out := floatWord s t d a b fSub
/-- `mul` (R173). -/
def execMulF (t : FFmt) (d : Dst) (a b : Src) (s : State) : Out := floatWord s t d a b fMul
/-- `min` (R173). -/
def execMinF (t : FFmt) (d : Dst) (a b : Src) (s : State) : Out := floatWord s t d a b (fun f _ => fMin f)
/-- `max` (R173). -/
def execMaxF (t : FFmt) (d : Dst) (a b : Src) (s : State) : Out := floatWord s t d a b (fun f _ => fMax f)
/-- `fma` (R173). -/
def execFmaF (t : FFmt) (d : Dst) (a b : Src) (s : State) : Out := fusedWord s t d a b fFma
/-- `fms` (R173). -/
def execFmsF (t : FFmt) (d : Dst) (a b : Src) (s : State) : Out := fusedWord s t d a b fFms
/-- `fnma` (R173). -/
def execFnmaF (t : FFmt) (d : Dst) (a b : Src) (s : State) : Out := fusedWord s t d a b fFnma
/-- `abs` (R173). -/
def execAbsF (t : FFmt) (d : Dst) (a : Src) (s : State) : Out := floatUnary s t d a (fun f _ => fAbs f)
/-- `neg` (R173). -/
def execNegF (t : FFmt) (d : Dst) (a : Src) (s : State) : Out := floatUnary s t d a (fun f _ => fNeg f)
/-- `csgn` (R173). -/
def execCsgn (t : FFmt) (d : Dst) (a b : Src) (s : State) : Out := floatWord s t d a b (fun f _ => fCsgn f)
/-- `rint` (R173). -/
def execRint (t : FFmt) (d : Dst) (a : Src) (s : State) : Out := floatUnary s t d a fRint
/-- `ceq` (R173). -/
def execCeqF (t : FFmt) (d : MaskNo) (a b : Src) (s : State) : Out := floatCompare s t d a b fCeq
/-- `cne` (R173). -/
def execCneF (t : FFmt) (d : MaskNo) (a b : Src) (s : State) : Out := floatCompare s t d a b (fun f x y => !fCeq f x y)
/-- `clt` (R173). -/
def execCltF (t : FFmt) (d : MaskNo) (a b : Src) (s : State) : Out := floatCompare s t d a b fClt
/-- `cle` (R173). -/
def execCleF (t : FFmt) (d : MaskNo) (a b : Src) (s : State) : Out := floatCompare s t d a b fCle
/-- `cun` (R173). -/
def execCun (t : FFmt) (d : MaskNo) (a b : Src) (s : State) : Out := floatCompare s t d a b fCun

/-! ### Special functions (R174): flag B operations (R156) -/

/-- The bits of a lane's destination that a word of 32-bit elements writes: those of its enabled elements, and of the disabled ones
that are zeroed (R63). -/
def Ctx.coveredBits (c : Ctx) (l : Nat) : Word :=
  BitVec.ofNat 64 (packElems .b32 ((List.range 2).map (fun e => if c.en l (4 * e) || c.zeroing then 2 ^ 32 - 1 else 0)))

/-- The register results of a special-function word: the enabled elements of each active lane. Of two results for one element
the one that completes last stays (R174; log entry 65). -/
def Ctx.specialRegs (c : Ctx) (d : Dst) (f : Nat → Nat → Nat) : List RegWrite :=
  c.lanes.filterMap (fun l => (c.g.dstIndex l d).map (fun r =>
    { lane := l, reg := r, bits := c.coveredBits l, value := c.elemResult .b32 d f l }))

/-- A special-function word: issued now, its result written when it completes (R156, R174). -/
def specialWord (s : State) (fn : SpecialFn) (d : Dst) (a : Src) : Out :=
  gangWord s (fun c => c.check [d.src, a]) (fun c =>
    c.g.addOp { c.g.newOp c.iss.active .b .special with
      regs := c.specialRegs d (fun l e => special fn c.rmode (c.elem .b32 a l e)) })

/-- `rcp` (R174). -/
def execRcp (d : Dst) (a : Src) (s : State) : Out := specialWord s .rcp d a
/-- `rsq` (R174). -/
def execRsq (d : Dst) (a : Src) (s : State) : Out := specialWord s .rsq d a
/-- `sqrt` (R174). -/
def execSqrt (d : Dst) (a : Src) (s : State) : Out := specialWord s .sqrt d a
/-- `exp2` (R174). -/
def execExp2 (d : Dst) (a : Src) (s : State) : Out := specialWord s .exp2 d a
/-- `log2` (R174). -/
def execLog2 (d : Dst) (a : Src) (s : State) : Out := specialWord s .log2 d a
/-- `sin2pi` (R174). -/
def execSin2pi (d : Dst) (a : Src) (s : State) : Out := specialWord s .sin2pi d a
/-- `cos2pi` (R174). -/
def execCos2pi (d : Dst) (a : Src) (s : State) : Out := specialWord s .cos2pi d a
/-- `tanh` (R174). -/
def execTanh (d : Dst) (a : Src) (s : State) : Out := specialWord s .tanh d a
/-- `sigm` (R174). -/
def execSigm (d : Dst) (a : Src) (s : State) : Out := specialWord s .sigm d a

/-! ### Conversions (R175, R176) -/

/-- The width of a conversion code (R175). -/
def cvtWidth : CvtFmt → Width
  | .i8 => .b8 | .n8 => .b8 | .i16 => .b16 | .n16 => .b16 | .i32 => .b32 | .n32 => .b32 | .i64 => .b64 | .n64 => .b64
  | .f32 => .b32 | .bf16 => .b16 | .e4m3 => .b8 | .e5m2 => .b8

/-- The source sub-element of destination sub-element `j`, if a conversion writes it (R176). -/
def cvtSource (wf wt : Width) (p j : Nat) : Option Nat :=
  if wt.bits < wf.bits then
    if p * wf.elems ≤ j ∧ j < (p + 1) * wf.elems then some (j - p * wf.elems) else none
  else some (p * wt.elems + j)

/-- The elements a conversion computes: lane and destination sub-element, enabled, with the source sub-element. -/
def Ctx.cvtElems (c : Ctx) (wf wt : Width) (p : Nat) : List (Nat × Nat × Nat) :=
  (c.elements wt).filterMap (fun x =>
    if c.en x.1 (wt.bytes * x.2) then (cvtSource wf wt p x.2).map (fun e => (x.1, x.2, e)) else none)

/-- The destination of a lane after a conversion (R176): sub-elements outside the part stay. -/
def Ctx.cvtResult (c : Ctx) (wf wt : Width) (p : Nat) (d : Dst) (conv : Nat → Nat) (a : Src) (l : Nat) : Word :=
  BitVec.ofNat 64 (packElems wt ((List.range wt.elems).map (fun j =>
    match cvtSource wf wt p j with
    | none => c.elem wt d.src l j
    | some e =>
      if c.en l (wt.bytes * j) then conv (c.elem wf a l e) else if c.zeroing then 0 else c.elem wt d.src l j)))

/-- The amax register after a list of values (R87). -/
def Gang.amaxAll (g : Gang) (vs : List FVal) : Gang :=
  let r := vs.foldl amaxStep (g.amax.toNat, g.amaxNan)
  { g with amax := BitVec.ofNat 31 r.1, amaxNan := r.2 }

/-- The format is one whose conversions update amax (R87, R176). -/
def narrowFmt : CvtFmt → Bool
  | .e4m3 => true | .e5m2 => true
  | _ => false

/-- A conversion word (R176), with the amax update of R87. -/
def cvtWord (s : State) (p : Fin 4) (d : Dst) (a : Src) (t f : CvtFmt) (conv : RMode → Nat → Nat) : Out :=
  gangWord s (fun c => c.check [d.src, a]) (fun c =>
    let wf := cvtWidth f
    let wt := cvtWidth t
    let vals := if narrowFmt t then (c.cvtElems wf wt p.val).map (fun x => (numFmt f).val (c.elem wf a x.1 x.2.2)) else []
    (c.g.amaxAll vals).writeDst c.iss.active d (c.cvtResult wf wt p.val d (conv c.rmode) a))

/-- `cvt` (R176). -/
def execCvt (p : Fin 4) (d : Dst) (a : Src) (t f : CvtFmt) (s : State) : Out :=
  cvtWord s p d a t f (fun rm => convert (numFmt f) (numFmt t) rm true)
/-- `cvto` (R176). -/
def execCvto (p : Fin 4) (d : Dst) (a : Src) (t f : CvtFmt) (s : State) : Out :=
  cvtWord s p d a t f (fun rm => convert (numFmt f) (numFmt t) rm false)
/-- `cvtt` between integers: reduced modulo 2^wt (R176). -/
def convTrunc (f t : CvtFmt) (x : Nat) : Nat :=
  match numFmt f with
  | .int w sgn => lowBits (cvtWidth t).bits (readInt w sgn x)
  | .flt _ => 0
/-- `cvtt` (R176). -/
def execCvtt (p : Fin 4) (d : Dst) (a : Src) (t f : CvtFmt) (s : State) : Out :=
  cvtWord s p d a t f (fun _ => convTrunc f t)

/-! ### Block formats in registers (R177) -/

/-- The active lanes whose element is enabled: mask bit 8l (R177). -/
def Ctx.taking (c : Ctx) : List Nat := c.lanes.filter (fun l => c.en l 0)

/-- Each active lane's destination: enabled lanes take a value, disabled ones are zeroed or left (R155). -/
def Ctx.writeLanes (c : Ctx) (g : Gang) (d : Dst) (v : Nat → Word) : Gang :=
  g.writeDst c.iss.active d (fun l => if c.en l 0 then v l else if c.zeroing then 0 else c.read l d.src)

/-- Mantissa, exponent and saturation bit in a register (R177). -/
def quantReg (w : Nat) (q : Quantised) (m : Int) : Word :=
  BitVec.ofNat 64 (lowBits w m + lowBits 8 q.exp * 2 ^ 32 + q.sat.toNat * 2 ^ 48)

/-- A quantising word (R177) on sub-element `e`, with mantissas of `w` bits. -/
def quantWord (s : State) (w e : Nat) (d : Dst) (a : Src) : Out :=
  gangWord s (fun c => c.check [d.src, a]) (fun c =>
    let vals := c.taking.map (fun l => fmtF32.val (c.elem .b32 a l e))
    let q := quantise (w - 1) true c.rmode vals
    let ms := c.taking.zip q.mant
    c.writeLanes (c.g.amaxAll vals) d (fun l => quantReg w q ((ms.lookup l).getD 0)))

/-- `qbx8` (R177). -/
def execQbx8 (d : Dst) (a : Src) (s : State) : Out := quantWord s 8 0 d a
/-- `qbx8.h` (R177). -/
def execQbx8H (d : Dst) (a : Src) (s : State) : Out := quantWord s 8 1 d a
/-- `qbx16` (R177). -/
def execQbx16 (d : Dst) (a : Src) (s : State) : Out := quantWord s 16 0 d a
/-- `qbx16.h` (R177). -/
def execQbx16H (d : Dst) (a : Src) (s : State) : Out := quantWord s 16 1 d a

/-- A block element to f32 (R86, R177). -/
def dequant (rm : RMode) (w x : Nat) : Nat :=
  let m := sintN w x
  fmtF32.round rm false (decide (m < 0)) m.natAbs (sintN 8 (x / 2 ^ 32))

/-- A dequantising word (R177). -/
def dequantWord (s : State) (w : Nat) (d : Dst) (a : Src) : Out :=
  gangWord s (fun c => c.check [d.src, a]) (fun c =>
    c.writeLanes c.g d (fun l => BitVec.ofNat 64 (dequant c.rmode w (c.read l a).toNat)))

/-- `dqbx8` (R177). -/
def execDqbx8 (d : Dst) (a : Src) (s : State) : Out := dequantWord s 8 d a
/-- `dqbx16` (R177). -/
def execDqbx16 (d : Dst) (a : Src) (s : State) : Out := dequantWord s 16 d a

/-! ### The amax register (R178) -/

/-- The amax register as `amxr` reads it. -/
def Gang.amaxWord (g : Gang) : Word := BitVec.ofNat 64 (g.amax.toNat + g.amaxNan.toNat * 2 ^ 32)

/-- The amax register cleared. -/
def Gang.amaxClear (g : Gang) : Gang := { g with amax := 0, amaxNan := false }

/-- `amxr` (R178). -/
def execAmxr (d : Dst) (s : State) : Out :=
  gangWord s (fun c => c.check [d.src]) (fun c => c.writeLanes c.g d (fun _ => c.g.amaxWord))
/-- `amxrc` (R178). -/
def execAmxrc (d : Dst) (s : State) : Out :=
  gangWord s (fun c => c.check [d.src]) (fun c => (c.writeLanes c.g d (fun _ => c.g.amaxWord)).amaxClear)
/-- `amxc` (R178). -/
def execAmxc (s : State) : Out := gangWord s (fun _ => .ok ()) (fun c => c.g.amaxClear)
/-- `amxw`: from the lowest lane that is active and enabled; with none, nothing changes (R178). -/
def execAmxw (a : Src) (s : State) : Out :=
  gangWord s (fun c => c.check [a]) (fun c =>
    match c.taking with
    | [] => c.g
    | l :: _ => { c.g with amax := (c.read l a).setWidth 31, amaxNan := (c.read l a).getLsbD 32 })

end Sys2Proof.Machine
end

