-- ==== Sys2Proof/Machine/Mint.lean ====
section
/-! DEFINITION. The Mint (R100, R101, R103) and the arithmetic of the arrays (R93, R221), as functions of residues. -/
namespace Sys2Proof.Machine

/-- The modulus of a channel (R89). -/
def modulus (c : Nat) : Nat := Config.moduli.getD c 255

/-- The inverse of `a` modulo `m` (R100). -/
def invMod (a m : Nat) : Nat := ((List.range m).find? (fun x => x * a % m == 1 % m)).getD 0

/-- The digits of mixed-radix conversion for a set of channels, in increasing order: channel, modulus, the product of the
moduli before it, and that product's inverse (R100). -/
def radixFrom : Nat → List Nat → List (Nat × Nat × Nat × Nat)
  | _, [] => []
  | p, c :: cs => (c, modulus c, p, invMod (p % modulus c) (modulus c)) :: radixFrom (p * modulus c) cs

/-- The digits for a set of channels. -/
def radixOf (cs : List Nat) : List (Nat × Nat × Nat × Nat) := radixFrom 1 cs

/-- X of R100. -/
def reconX (r : Nat → Nat) : List (Nat × Nat × Nat × Nat) → Nat → Nat
  | [], x => x
  | (c, m, p, inv) :: ds, x => reconX r ds (x + (r c + (m - x % m)) * inv % m * p)

/-- The product of the moduli of a set. -/
def radixProduct (ds : List (Nat × Nat × Nat × Nat)) : Nat := ds.foldl (fun n d => n * d.2.1) 1

/-- recon(S) of R100: the value v. -/
def recon (r : Nat → Nat) (ds : List (Nat × Nat × Nat × Nat)) : Int :=
  let x := reconX r ds 0
  let p := radixProduct ds
  if x ≤ (p - 1) / 2 then (x : Int) else (x : Int) - (p : Int)

/-- A value is legitimate (R90). -/
def legit (v : Int) : Bool := decide (v.natAbs ≤ Config.bigH)

/-- What the Mint decides of one element (R101). -/
inductive Decided
  | value (v : Int) (corrected : Option Nat)
  | ambiguous
  | uncorrectable
  deriving DecidableEq, Repr

/-- The digits that the Mint uses with the channels in service: for all of them, and for each exclusion (R101). -/
structure Radices where
  all : List (Nat × Nat × Nat × Nat)
  without : List (Nat × List (Nat × Nat × Nat × Nat))
  deriving DecidableEq, Repr

/-- The channels in service (R104). -/
def channelsIn (ret : Option Nat) : List Nat := (List.range 8).filter (fun c => some c != ret)

/-- The digits for the channels in service; with one retired no exclusion is tried (R101, R104). -/
def radices (ret : Option Nat) : Radices :=
  let cs := channelsIn ret
  ⟨radixOf cs, if ret.isSome then [] else cs.map (fun c => (c, radixOf (cs.filter (· != c))))⟩

/-- The decision of R101 on one element's residues. -/
def decideElem (rx : Radices) (safe : Bool) (r : Nat → Nat) : Decided :=
  let v := recon r rx.all
  if legit v then .value v none
  else if !safe then .ambiguous
  else
    match (rx.without.map (fun p => (p.1, recon r p.2))).filter (fun p => legit p.2) with
    | [(c, w)] => .value w (some c)
    | _ => .uncorrectable

/-- The residues of the elements of a slot, by channel: element (i, j) at 32 i + j (R319). -/
def slotPlanes (res : Memory) : List (List Nat) := (List.range 8).map (fun c => (cellsToList res (1024 * c) 1024).map (·.toNat))

/-- The residues of each element of a slot, in row-major order: eight for each (R102). -/
def slotElems (res : Memory) : List (List Nat) :=
  let ps := slotPlanes res
  (List.range 1024).map (fun x => ps.map (fun p => p.getD x 0))

/-- The rows of a tile in a channel (R93): 32 rows of K residues. -/
def tileRows (rs : Memory) (c res k : Nat) : List (List Nat) :=
  let blocks := (List.range (k / 8)).map (fun b => (cellsToList rs (8 * res + 2048 * b + 256 * c) 256).map (·.toNat))
  (List.range 32).map (fun i => blocks.flatMap (fun b => (b.drop (8 * i)).take 8))

/-- The sum of products of two rows. -/
def dotRow (a b : List Nat) : Nat := (List.zipWith (· * ·) a b).foldl (· + ·) 0

/-- One channel's accumulation (R221): the 1 024 residues after it. -/
def accumulate (rs : Memory) (acc : List Nat) (c ares bres k : Nat) : List Byte :=
  let bs := tileRows rs c bres k
  let ts := (tileRows rs c ares k).flatMap (fun a => bs.map (dotRow a))
  (acc.zip ts).map (fun p => BitVec.ofNat 8 ((p.1 + p.2) % modulus c))

/-- The residues of a slot after an accumulation in every channel in service (R221). -/
def accumulateSlot (res rs : Memory) (ret : Option Nat) (ares bres k : Nat) : Memory :=
  cellsOfList 0 ((slotPlanes res).mapIdx (fun c acc =>
    if some c = ret then acc.map (BitVec.ofNat 8) else accumulate rs acc c ares bres k)).flatten

/-- The exact value of an element with its recorded exponents (R103). -/
def scaledVal (v ea eb : Int) : FVal := .fin (decide (v < 0)) v.natAbs (ea + eb)

/-- The residues of the encoded rows of a tile of K columns, in the plane layout from its first block (R90, R93, R219). -/
def tilePlanes (rows : List (List Int)) (k : Nat) : List Byte :=
  (List.range (k / 8)).flatMap (fun b => (List.range 8).flatMap (fun c =>
    rows.flatMap (fun row => ((row.drop (8 * b)).take 8).map (residue c))))

end Sys2Proof.Machine
end

