-- ==== Sys2Proof/Machine/Matrix.lean ====
section
/-! DEFINITION. The matrix words (R211 to R228): their checks (R213, R214), what they do at issue (R212), and the lease (R45). -/
namespace Sys2Proof.Machine

/-! ### Checks (R213, R214) -/

/-- Check 5.1 (R213). -/
def Ctx.convergent (c : Ctx) : Except Trap Unit :=
  if c.iss.active = BitVec.allOnes 32 then .ok () else .error { cause := Cause.illegalConvergence, lane := c.low }

/-- Check 5.2 (R213): the voted operands in order; the first that differs names its field and the lowest lane. -/
def Ctx.voted (c : Ctx) : List Src → Except Trap Unit
  | [] => .ok ()
  | r :: rs =>
    match (List.range 32).find? (fun l => c.read l r != c.read 0 r) with
    | some l => .error { cause := Cause.formatDivergence, lane := l, info := srcCode r }
    | none => c.voted rs

/-- The traps of check 5.3. -/
def formatTrap : Trap := { cause := Cause.formatIllegal }

/-- A tile: its residue element address, and its scale vector's offset if it has one (R217). -/
structure Tile where
  res : Nat
  scale : Option Nat
  deriving DecidableEq, Repr

/-- Reserved bits of a tile descriptor (R217). -/
def tileReserved (d : Nat) : Bool := bitsOf d 63 51 ≠ 0 || bitsOf d 31 24 ≠ 0

/-- The tile a descriptor names. -/
def tileOf (d : Nat) (unit : Bool) : Tile := ⟨bitsOf d 23 0, if unit then none else some (bitsOf d 50 32)⟩

/-- Check 5.5 for a tile of K columns: the scale vector, then the residues, of A before B (R217; log entry 12). -/
def Ctx.tileSpace (c : Ctx) (t : Tile) (k : Nat) : Option Trap :=
  match t.scale with
  | some sc =>
    if 1024 * c.blk.cfg.dsp < sc + 32 then some (addrTrap Cause.accessViolation 0 sc 1)
    else if 256 * c.blk.cfg.rsp < t.res + 32 * k then some (addrTrap Cause.accessViolation 0 t.res 2) else none
  | none => if 256 * c.blk.cfg.rsp < t.res + 32 * k then some (addrTrap Cause.accessViolation 0 t.res 2) else none

/-- Check 5.6 for a tile (R217). -/
def Tile.misaligned (t : Tile) : Option Trap :=
  match t.scale with
  | some sc =>
    if sc % 32 ≠ 0 then some (addrTrap Cause.misaligned 0 sc 1)
    else if t.res % 256 ≠ 0 then some (addrTrap Cause.misaligned 0 t.res 2) else none
  | none => if t.res % 256 ≠ 0 then some (addrTrap Cause.misaligned 0 t.res 2) else none

/-- Checks 5.5 and 5.6 over tiles. -/
def Ctx.tilesOk (c : Ctx) (ts : List Tile) (k : Nat) : Except Trap Unit :=
  match ts.findSome? (fun t => c.tileSpace t k) with
  | some t => .error t
  | none =>
    match ts.findSome? Tile.misaligned with
    | some t => .error t
    | none => .ok ()

/-- A convergent word: operands, slot number and room on the slot, then checks 5.1 and 5.2 (R214, R319). -/
def convergentWord (s : State) (srcs : List Src) (slot : Option Nat) (votes : List Src) (k : Ctx → Out) : Out :=
  withCtx s (fun c =>
    match c.check srcs slot with
    | .error t => .next (s.trap t)
    | .ok _ =>
      if slot.any c.g.slotFull then .next (s.notIssued c.g)
      else
        match c.convergent, c.voted votes with
        | .error t, _ => .next (s.trap t)
        | _, .error t => .next (s.trap t)
        | .ok _, .ok _ => k c)

/-! ### Encoding from registers (R219) -/

/-- The values a lane gives to `enc`: sub-element k mod n of register base + k div n (R219). -/
def Ctx.encRow (c : Ctx) (t : FFmt) (base k l : Nat) : List FVal :=
  let w := floatWidth t
  (List.range k).map (fun i => (floatFmt t).val (subElem w (regGet (c.g.lane l).regs (base + i / w.elems)) (i % w.elems)))

/-- A lane's status after `enc` (R219). -/
def encStatus (q : Quantised) : Nat := q.sat.toNat + 256 * lowBits 8 q.exp

/-- A store of a matrix word into a scratchpad: a write of the gang at the word's place, in the order of the scratchpads from the
moment it is performed (R133, R143, R147, R219); each element is an access of its own (R130). -/
def scratchStore (lanes : LaneBits) (sp : Spot) (grain : Nat) (bytes : List Byte) : Access :=
  { lane := 0, lanes := lanes, spot := sp, n := bytes.length, act := .store bytes, async := true, grain := grain }

/-- `enc` after its checks (R219): the writes are performed before it completes. Of its source registers it takes the values at issue, though
R40 and R219 let a source overwritten before flag B falls supply the later value (log entry 73). -/
def Ctx.encOp (c : Ctx) (t : FFmt) (cls : Cls) (d : Dst) (base res scale k : Nat) : Op :=
  let qs := (List.range 32).map (fun l => quantise (clsBits cls) (clsSigned cls) .rne (c.encRow t base k l))
  let regs := (List.range 32).filterMap (fun l => (c.g.dstIndex l d).map (fun r =>
    ({ lane := l, reg := r, value := BitVec.ofNat 64 (encStatus (qs.getD l ⟨0, [], false⟩)) } : RegWrite)))
  { c.g.newOp c.iss.active .b .enc with
    isWrite := true
    regs := regs
    todo := [scratchStore c.iss.active (.rs (8 * res)) 1 (tilePlanes (qs.map (·.mant)) k),
             scratchStore c.iss.active (.ds c.iss.core scale) 1 (qs.map (fun q => BitVec.ofNat 8 (lowBits 8 q.exp)))] }

/-- `enc` (R219). A source run past the allotment names the index that R219 compares, its last register (log entry 12). -/
def execEnc (t : FFmt) (cls : Cls) (d : Dst) (a : Fin 96) (b : Src) (s : State) : Out :=
  convergentWord s [d.src, b] none [b] (fun c =>
    let x := (c.read 0 b).toNat
    if bitsOf x 63 57 ≠ 0 ∨ bitsOf x 51 51 ≠ 0 ∨ bitsOf x 31 24 ≠ 0 then .next (s.trap formatTrap)
    else
      let k := 8 * (bitsOf x 56 52 + 1)
      let base := c.g.wb + a.val
      let last := base + k / (floatWidth t).elems - 1
      if c.blk.cfg.allot ≤ last then .next (s.trap { cause := Cause.registerBounds, info := last + 3 * 2 ^ 16 })
      else
        match c.tilesOk [⟨bitsOf x 23 0, some (bitsOf x 50 32)⟩] k with
        | .error e => .next (s.trap e)
        | .ok _ => .next (s.retire (c.g.addOp (c.encOp t cls d base (bitsOf x 23 0) (bitsOf x 50 32) k))))

/-! ### Fence, wait and lease (R45, R220) -/

/-- `mxfence` (R220). -/
def execMxfence (s : State) : Out := withCtx s (fun c =>
  .next (c.holdOrGo s .mxfence))
/-- `mxwait` (R220). -/
def execMxwait (s : State) : Out := withCtx s (fun c =>
  .next (c.holdOrGo s .mxwait))
/-- `mxrel` (R220). -/
def execMxrel (s : State) : Out := withCtx s (fun c =>
  .next ((s.retire c.g).modBlock c.iss.core (·.dropLease c.iss.gang)))

/-- The count of a lease after one more `mxm` (R45): at the 64th it stays, if another gang waits for the lease, and restarts
if none does. -/
def Lease.counted (l : Lease) : Lease := { l with count := if l.count + 1 = 64 ∧ l.waiting.isEmpty then 0 else l.count + 1 }

/-- What a request for the lease comes to (R45): the block with the lease held and one more `mxm` counted, or the block
with the gang waiting. -/
def Block.takeLease (b : Block) (g : Nat) : Except Block Block :=
  let l := b.lease
  let queue := if l.waiting.contains g then l.waiting else l.waiting ++ [g]
  if l.holder = some g ∧ l.count < 64 then .ok { b with lease := l.counted }
  else if l.holder = none ∧ queue.head? = some g then
    .ok { b with lease := { holder := some g, waiting := queue.drop 1, count := 1 } }
  else .error { b with lease := { l with waiting := queue } }

/-! ### mxm and mxclr (R221, R222) -/

/-- The writes of a scratchpad since a mark, latest first (R146). -/
def sinceMark (log : List (Nat × List Byte)) (mark : Nat) : List (Nat × List Byte) := log.take (log.length - mark)

/-- What such writes replaced at an offset, latest first. -/
def replaced (ws : List (Nat × List Byte)) (o : Nat) : List Byte :=
  ws.filterMap (fun e => if e.1 ≤ o then e.2[o - e.1]? else none)

/-- A byte as a matrix word reads it: its value before or after each write that no `mxfence` of its gang covers, freely
(R146; log entry 18). -/
def readEither (fresh : Nat) (now : Byte) (olds : List Byte) : Byte :=
  if olds.isEmpty then now else (now :: olds).getD ((Config.freeWord fresh).toNat % (olds.length + 1)) now

/-- The scale bytes an `mxm` reads (R98, R146, R221): zeros for a unit scale. -/
def Ctx.scaleBytes (c : Ctx) (fresh : Nat) (t : Tile) : List Byte :=
  match t.scale with
  | some sc =>
    (cellGetList c.blk.ds sc 32).mapIdx (fun i v => readEither (fresh + sc + i) v (replaced (sinceMark c.blk.dsLog c.g.dsMark) (sc + i)))
  | none => List.replicate 32 0

/-- Free values used up by a reading of a scratchpad: one for each byte that it can hold, if any is open (R146). -/
def State.usedFree (s : State) (log : List (Nat × List Byte)) (mark : Nat) : State :=
  if (sinceMark log mark).isEmpty then s else { s with freshCount := s.freshCount + 2 ^ 25 }

/-- Check 5.9: an uncorrectable byte of a scale vector (R126). -/
def Ctx.scaleBad (c : Ctx) (t : Tile) : Option Trap :=
  match t.scale with
  | some sc => (c.blk.dsBad sc 32).map (fun i => addrTrap Cause.uncorrectableData 0 (sc + i) 1)
  | none => none

/-- The first byte in which two scale records differ, as TINFO names it (R98, R306). -/
def scaleDiff (slot : Nat) (x y : List Byte × List Byte) : Option Nat :=
  match (List.range 32).find? (fun i => x.1.getD i 0 != y.1.getD i 0) with
  | some i => some (i + slot * 2 ^ 6)
  | none => ((List.range 32).find? (fun i => x.2.getD i 0 != y.2.getD i 0)).map (fun i => i + 2 ^ 5 + slot * 2 ^ 6)

/-- Check 5.10 (R98, R221). -/
def scaleCheck (slot : Nat) (clr : Bool) (x : Slot) (sc : List Byte × List Byte) : Option Trap :=
  match clr, x.scales with
  | false, some r => (scaleDiff slot sc r).map (fun i => { cause := Cause.scaleMismatch, info := i })
  | _, _ => none

/-- A slot cleared (R211): what accumulations still outstanding would give is immaterial (R212). -/
def Slot.clear (x : Slot) : Slot :=
  { x with res := [], bound := 0, scales := none, prog := x.prog.map (fun p => { p with live := false }) }

/-- The effect of `mxm` at issue on its slot (R221). -/
def Slot.issueMxm (x : Slot) (clr : Bool) (sc : List Byte × List Byte) (grow : Nat) (p : Prog) : Slot :=
  let y := if clr then x.clear else x
  { y with
    scales := some (y.scales.getD sc)
    bound := BitVec.ofNat 64 (min (2 ^ 64 - 1) (y.bound.toNat + grow))
    prog := y.prog ++ [p] }

/-- The format word's check 5.3 (R216): the classes, if it is well formed. -/
def formatOf (f : Nat) : Option (Cls × Cls) :=
  let k := bitsOf f 47 32
  if bitsOf f 63 48 ≠ 0 ∨ bitsOf f 31 18 ≠ 0 ∨ bitsOf f 15 8 ≠ 0 ∨ k % 8 ≠ 0 ∨ k = 0 ∨ 4096 < k then none
  else match clsOf (bitsOf f 3 0), clsOf (bitsOf f 7 4) with
    | some a, some b => some (a, b)
    | _, _ => none

/-- `mxm` with the lease held (R221). -/
def Ctx.mxmIssue (c : Ctx) (s : State) (n : Nat) (fw aw bw : Word) : Out :=
  let f := fw.toNat
  let unit := decide (bitsOf f 17 17 = 1)
  let clr := decide (bitsOf f 16 16 = 1)
  let k := bitsOf f 47 32
  match formatOf f with
  | none => .next (s.trap formatTrap)
  | some (ca, cb) =>
    if tileReserved aw.toNat ∨ tileReserved bw.toNat then .next (s.trap formatTrap)
    else
      let ta := tileOf aw.toNat unit
      let tb := tileOf bw.toNat unit
      match c.tilesOk [ta, tb] k with
      | .error t => .next (s.trap t)
      | .ok _ =>
        match [ta, tb].findSome? c.scaleBad with
        | some t => .next (s.trap t)
        | none =>
          let sc := (c.scaleBytes s.freshCount ta, c.scaleBytes s.freshCount tb)
          let s1 := s.usedFree c.blk.dsLog c.g.dsMark
          match scaleCheck n clr (c.g.slot n) sc with
          | some t => .next (s1.trap t)
          | none =>
            let p : Prog := { kind := .mxm fw aw bw, clauses := c.g.clausesOf c.iss.active, mark := c.g.rsMark }
            .next (s1.retire (c.g.setSlot n ((c.g.slot n).issueMxm clr sc (k * clsMax ca * clsMax cb) p)))

/-- `mxm` (R221): the lease first, then the checks (R214). -/
def execMxm (n : Fin 8) (d a b : Src) (s : State) : Out :=
  withCtx s (fun c =>
    match c.check [d, a, b] (some n.val) with
    | .error t => .next (s.trap t)
    | .ok _ =>
      if c.g.slotFull n.val then .next (s.notIssued c.g)
      else
        match c.blk.takeLease c.iss.gang with
        | .error b => .next ((s.setBlock c.iss.core b).awaitLease c.g)
        | .ok blk =>
          let s1 := s.setBlock c.iss.core blk
          match c.convergent, c.voted [d, a, b] with
          | .error t, _ => .next (s1.trap t)
          | _, .error t => .next (s1.trap t)
          | .ok _, .ok _ => c.mxmIssue s1 n.val (c.read 0 d) (c.read 0 a) (c.read 0 b))

/-- Clears at the front of a slot's order have completed (R212, R229). -/
def Slot.popClears (x : Slot) : Slot := { x with prog := x.prog.dropWhile (fun p => p.kind == .mxclr) }

/-- `mxclr` (R222). -/
def execMxclr (n : Fin 8) (s : State) : Out :=
  convergentWord s [] (some n.val) [] (fun c =>
    let x := (c.g.slot n.val).clear
    let p : Prog := { kind := .mxclr, clauses := c.g.clausesOf c.iss.active }
    .next (s.retire (c.g.setSlot n.val ({ x with prog := x.prog ++ [p] } : Slot).popClears)))

/-! ### Drains (R223 to R225): at issue the lanes are held -/

/-- The registers of a destination over all lanes. -/
def Ctx.dstRegs (c : Ctx) (d : Dst) : List (Nat × Nat) := c.lanes.filterMap (fun l => (c.g.dstIndex l d).map (fun r => (l, r)))

/-- The rounding mode of a code (R225). -/
def rmodeOf : Nat → RMode
  | 0 => .rne | 1 => .rz | 2 => .rd | _ => .ru

/-- A drain is held, with its place among the drains of the core (R212, R223). -/
def Ctx.holdDrain (c : Ctx) (s : State) (j : DrainJob) : State :=
  s.setBlock c.iss.core { c.blk.setGang c.iss.gang (c.g.hold c.iss c.iss.active (.drain { j with ord := c.blk.drains })) with
    drains := c.blk.drains + 1 }

/-- `mxdrn` (R224): bits [6:4] of the word choose the mode. -/
def execMxdrn (n : Fin 8) (d : Dst) (p : Fin 16) (o : Ofmt) (ren : Bool) (rm : RMode) (s : State) : Out :=
  convergentWord s [d.src] (some n.val) [] (fun c =>
    let job : DrainJob := { slot := n.val, ofmt := ofmtCode o, mode := if ren then rm else .rne, part := some p.val, regs := c.dstRegs d }
    .next (c.holdDrain s job))

/-- Row size and element alignment of an output format (R225). -/
def rowShape : Nat → Nat × Nat
  | 0 => (128, 4) | 1 => (64, 2) | 2 => (32, 1) | 3 => (32, 1) | _ => (36, 4)

/-- Check 5.3 of a drain control word (R225). -/
def controlBad (w : Nat) : Bool :=
  bitsOf w 63 40 ≠ 0 || bitsOf w 15 7 ≠ 0 || (bitsOf w 6 5 ≠ 0 && bitsOf w 4 4 = 0) || decide (5 ≤ bitsOf w 2 0)
    || decide (bitsOf w 39 16 < (rowShape (bitsOf w 2 0)).1) || bitsOf w 39 16 % (rowShape (bitsOf w 2 0)).2 ≠ 0

/-- The places of the rows of a drain to virtual memory: each row's pieces by page (R107, R225). -/
def Ctx.rowLocs (c : Ctx) (s : State) (addr stride row : Nat) : List (Loc × Nat) :=
  (List.range 32).flatMap (fun i => (piecesOf (addr + i * stride) row).filterMap (fun p =>
    match walk s (c.tlb s) c.blk.cfg.asid p.1 with
    | .ok loc _ => some (loc, p.2)
    | .fault _ => none))

/-- The topmost entries that the translations of those places used (R347). -/
def Ctx.rowVias (c : Ctx) (s : State) (addr stride row : Nat) : List (Nat × Nat) :=
  (List.range 32).flatMap (fun i => (piecesOf (addr + i * stride) row).map (fun p => topEntry (c.tlb s) c.blk.cfg.asid p.1))

/-- The bytes from a drain's first row to the end of its last (R225). -/
def DrainJob.span (j : DrainJob) : Nat := 31 * j.stride + (rowShape j.ofmt).1

/-- `mxdrs` to virtual memory from step 4 of R108 on (R225): the checks 5.7 and 5.8. -/
def Ctx.goDrain (c : Ctx) (s : State) (j : DrainJob) : Out :=
  vOut s 0 (.drain j) (c.translateAll s .write (fun _ => true) false ((piecesOf j.addr j.span).map (fun p => ⟨0, p.1, p.2⟩)))
    (fun _ => .next (c.holdDrain s { j with
      locs := c.rowLocs s j.addr j.stride (rowShape j.ofmt).1
      vias := c.rowVias s j.addr j.stride (rowShape j.ofmt).1 }))

/-- `mxdrs` (R225): the checks 5.3 to 5.8 at issue. A destination that fails 5.5 or 5.6 is named by its start (log entry 12). -/
def execMxdrs (n : Fin 8) (d : Dst) (a b : Src) (s : State) : Out :=
  convergentWord s [d.src, a, b] (some n.val) [a, b] (fun c =>
    let w := (c.read 0 b).toNat
    let addr := (c.read 0 a).toNat
    let virt := decide (bitsOf w 3 3 = 1)
    let space := if virt then 0 else 1
    let mode := if bitsOf w 4 4 = 1 then rmodeOf (bitsOf w 6 5) else .rne
    let job : DrainJob := { slot := n.val, ofmt := bitsOf w 2 0, mode := mode, part := none, regs := c.dstRegs d,
                            addr := addr, stride := bitsOf w 39 16, virt := virt }
    if controlBad w then .next (s.trap formatTrap)
    else if (if virt then 2 ^ 56 else 1024 * c.blk.cfg.dsp) < addr + job.span then
      .next (s.trap (addrTrap Cause.accessViolation 0 addr space))
    else if addr % (rowShape job.ofmt).2 ≠ 0 then .next (s.trap (addrTrap Cause.misaligned 0 addr space))
    else if virt then c.goDrain s job
    else .next (c.holdDrain s job))

/-! ### Summing across an ensemble (R226, R227) -/

/-- `mxgsum` (R226, R227): held with its pairing ordinal; a member that is not live is lost at once. -/
def execMxgsum (n : Fin 8) (s : State) : Out :=
  convergentWord s [] (some n.val) [] (fun c =>
    let x := c.g.slot n.val
    let g := (c.g.setSlot n.val { x with gsums := x.gsums + 1 }).hold c.iss c.iss.active (.mxgsum n.val x.gsums)
    let s1 := s.setGang c.iss.core c.iss.gang g
    match s.deadRanks c.blk with
    | [] => .next s1
    | r :: _ => .next (s1.trapAt c.iss.core c.iss.gang c.iss c.iss.active (some c.g.nextId)
        { cause := Cause.groupMembership, info := 4 + r, held := true }))

/-! ### Reading the Assay (R228) -/

/-- `asyr` (R228). -/
def execAsyr (d : Dst) (ch : Fin 8) (s : State) : Out :=
  gangWord s (fun c => c.check [d.src]) (fun c =>
    c.g.writeDst c.iss.active d (fun _ => ((s.tower (towerOf c.iss.core)).asycnt.getD ch.val 0).setWidth 64))

end Sys2Proof.Machine
end

