-- ==== Sys2Proof/Machine/Toss.lean ====
section
/-! DEFINITION. The Toss words (R233 to R252): their checks (R246), and the tower's unit and its queue (R234). -/
namespace Sys2Proof.Machine

/-- The word uses invT (R235). -/
def TossKind.usesInvT : TossKind → Bool
  | .cand _ | .merge => true
  | _ => false

/-- The word reads logits (R235). -/
def TossKind.logits : TossKind → Option FFmt
  | .max t | .cand t => some t
  | _ => none

/-- The word is `tossgen` (R245). -/
def TossKind.isGen : TossKind → Bool
  | .genHi | .genLo => true
  | _ => false

/-- invT is ±0, negative or NaN (R235). -/
def invTBad (x : Nat) : Bool := decide (2 ^ 31 ≤ x) || x == 0 || (fmtF32.val x).isNan

/-- Check 5.2 (R246): the reason, lowest first. -/
def tossFieldsBad (k : TossKind) (r : List Word) : Option Nat :=
  if tossReserved r then some 1
  else if k.usesInvT && invTBad (tossInvT r) then some 2
  else if (!k.isGen && tossV r == 0) || (k.logits.isSome && (tossN r == 0 || decide (tossV r < tossBase r + tossN r))) then some 3
  else match k with
    | .cand _ => if (fmtF32.val (tossLmax r)).isNan then some 4 else none
    | _ => none

/-! ### The ranges (R246) -/

/-- A range to check: address, length, alignment, and whether it is written. -/
structure RangeReq where
  va : Nat
  n : Nat
  align : Nat
  wr : Bool
  deriving DecidableEq, Repr

/-- The ranges known from the record alone (R246, check 5.3). -/
def tossRanges (k : TossKind) (r : List Word) : List RangeReq :=
  match k with
  | .max t => [⟨tossLogits r, logitBytes t * tossN r, logitBytes t, false⟩]
  | .cand t => [⟨tossLogits r, logitBytes t * tossN r, logitBytes t, false⟩, ⟨bitsOf (tw r 5) 55 0, 16 * tossCap r, 16, true⟩]
  | .merge => [⟨bitsOf (tw r 6) 55 0, 16 * tossH r, 16, false⟩, ⟨bitsOf (tw r 7) 55 0, 16 * (tossCap r + 1), 16, true⟩]
  | .draw => [⟨bitsOf (tw r 7) 55 0, 16, 16, false⟩]
  | .genHi | .genLo => []

/-- All the ranges, once the first has been read (R246): the lists that a shard table names, or the entries of a merged list. -/
def tossRangesAll (k : TossKind) (r : List Word) (first : List Byte) : List RangeReq :=
  match k, tossRanges k r with
  | .merge, tab :: rest =>
    let ws := wordsOf (2 * tossH r) first
    tab :: ((List.range (tossH r)).map (fun e =>
      RangeReq.mk (bitsOf (ws.getD (2 * e) 0) 55 0) (16 * bitsOf (ws.getD (2 * e + 1) 0) 23 0) 16 false) ++ rest)
  | .draw, h :: _ => [{ h with n := 16 * (bitsOf (ofLeBytes (first.take 8)) 23 0 + 1) }]
  | _, rs => rs

/-- Steps 1 and 2 of R108 over ranges. -/
def rangesForm (lane : Nat) (rs : List RangeReq) : Option Trap :=
  match rs.find? (fun q => decide (2 ^ 56 < q.va + q.n)) with
  | some q => some (addrTrap Cause.accessViolation lane q.va 0)
  | none => (rs.find? (fun q => q.va % q.align != 0)).map (fun q => addrTrap Cause.misaligned lane q.va 0)

/-- The accesses of a range, page by page. -/
def RangeReq.accs (q : RangeReq) (lane : Nat) : List VAcc := (piecesOf q.va q.n).map (fun p => ⟨lane, p.1, p.2⟩)

/-- The access kind of a range. -/
def RangeReq.kind (q : RangeReq) : AccKind := if q.wr then .write else .read

/-- The translations held for the unit of the word's tower (R346). -/
def Ctx.unitTlb (c : Ctx) (s : State) : List TlbEntry := s.towerTlb (towerOf c.iss.core)

/-- What the lane's own staged entries supply of an address (R151, R250); `fresh` is the base of the free choices. -/
def Block.ownAt (b : Block) (gi lane fresh va i : Nat) : Option Byte :=
  if b.cfg.det && !b.teller.isEmpty then b.forwardByte ⟨gi, va, (b.gangs.getD gi {}).stagedSeq, fresh⟩ lane i else none

/-- Steps 4 and 5 of R108 over ranges, then step 6 over those read. -/
def Ctx.rangesWalk (c : Ctx) (s : State) (rs : List RangeReq) : VCheck :=
  let ws := rs.map (fun q => (q, (q.accs c.low).map (fun a => (a, walk s (c.unitTlb s) c.blk.cfg.asid a.addr))))
  let bad := (ws.flatMap (fun p => faultWalks p.1.kind p.2)).foldl
    (fun (acc : List StallWalk) f => if acc.any (fun x => x.fault.key == f.fault.key) then acc else acc ++ [f]) []
  match bad with
  | _ :: _ => .stall bad
  | [] =>
    match ws.findSome? (fun p => p.2.find? (fun x => !step5 c.blk.cfg.smode p.1.kind (fun _ => true) x.2)) with
    | some x => .trap (addrTrap Cause.accessViolation c.low x.1.addr 0) none
    | none =>
      match step6 s c.g (fun _ => c.iss.active) (fun a i => (c.blk.ownAt c.iss.gang c.low s.freshCount a.addr i).isSome) ((ws.filter (fun p => !p.1.wr)).flatMap (fun p => walkLocs p.2)) with
      | .ok _ => .ok (ws.flatMap (fun p => (walkLocs p.2).map (·.2)))
      | v => v

/-- Checks 5.3 and 5.4 (R246). -/
def Ctx.rangesCheck (c : Ctx) (s : State) (rs : List RangeReq) : VCheck :=
  match rangesForm c.low rs with
  | some t => .trap t none
  | none => c.rangesWalk s rs

/-- The places of a range whose walks succeed. -/
def Ctx.rangeOf (c : Ctx) (s : State) (q : RangeReq) : TossRange :=
  { va := q.va, n := q.n, locs := (piecesOf q.va q.n).filterMap (fun p =>
      match walk s (c.unitTlb s) c.blk.cfg.asid p.1 with
      | .ok loc leaf => some (loc, p.2, leaf.ms)
      | .fault _ => none) }

/-- What the lane's own staged entries supply of a range (R151, R250). -/
def Block.ownOf (b : Block) (gi lane fresh : Nat) (q : TossRange) (i : Nat) : Option Byte := b.ownAt gi lane fresh q.va i

/-- The bytes of ranges as a lane sees them: its own staged entries in place in a deterministic launch, each byte's choice its own
(R151, R250). -/
def State.seenRanges (s : State) (core gi : Nat) (lanes : LaneBits) (b : Block) (qs : List TossRange) : State × List (List Byte) :=
  let (s1, bss) := s.readRanges (core, gi, lanes) qs
  if b.cfg.det && !b.teller.isEmpty then
    ({ s1 with freshCount := s1.freshCount + (qs.map (·.n)).sum + 256 },
     (qs.zip bss).map (fun p => p.2.mapIdx (fun i v => (b.ownOf gi (lowLane lanes) s1.freshCount p.1 i).getD v)))
  else (s1, bss)

/-- The first failing byte that a word's ranges read (R246 check 5.4). -/
def State.badRange (s : State) (gi : Nat) (lanes : LaneBits) (b : Block) (qs : List TossRange) : Option (Nat × Nat) :=
  qs.findSome? (fun q => q.firstBad s (fun i => (b.ownOf gi (lowLane lanes) s.freshCount q i).isSome))

/-! ### Issue (R234, R246) -/

/-- A trap of reason `x` (R246, R306). -/
def tossTrap (lane x : Nat) : Trap := { cause := Cause.tossInput, lane := lane, info := x }

/-- The word joins the tower's queue, its lanes held; one that finds the queue full, after a walk again, does not issue (R234, R353). -/
def Ctx.joinToss (c : Ctx) (s : State) (job : TossJob) : State :=
  if 32 ≤ (s.tower (towerOf c.iss.core)).toss.length then s.notIssued c.g
  else
  let s1 := s.setGang c.iss.core c.iss.gang (c.g.hold c.iss c.iss.active (.toss job))
  s1.modTower (towerOf c.iss.core) (fun t => { t with toss := t.toss ++ [(c.iss.core, c.iss.gang, c.g.nextId)] })

/-- A range read as the lanes of the word see it, once what they have issued before it on its bytes has been performed (R132 item 1,
R248). -/
def Ctx.readRange (c : Ctx) (s : State) (q : RangeReq) : State × List Byte :=
  let x := c.rangeOf s q
  let s1 := s.performFirst c.iss.core c.iss.gang (x.accesses c.iss.active)
  let (s2, bss) := s1.seenRanges c.iss.core c.iss.gang c.iss.active c.blk [x]
  (s2, bss.headD [])

/-- The word joins the queue with its ranges, what its lanes have issued before it on their bytes performed first (R132 item 1, R248). -/
def Ctx.queueToss (c : Ctx) (s : State) (k : TossKind) (regs : List (Nat × Nat)) (r : List Word) (all : List RangeReq) (record : TossRange) :
    Out :=
  let ins := (all.filter (fun q => !q.wr)).map (c.rangeOf s)
  let outs := (all.filter (·.wr)).map (c.rangeOf s)
  let s1 := s.performFirst c.iss.core c.iss.gang ((ins ++ outs).flatMap (·.accesses c.iss.active))
  let vias := (all.filter (fun q => !q.wr || !c.blk.cfg.det)).flatMap (fun q => (piecesOf q.va q.n).map (fun p => topEntry (c.unitTlb s) c.blk.cfg.asid p.1))
  withCtx s1 (fun c => .next (c.joinToss s1 ⟨k, regs, r, ins, outs, record, vias⟩))

/-- Checks 5.3 and 5.4, and the queue (R234, R246): the lists that a shard table names, or the length of a merged list, are read
for the checks, and read again by the unit. -/
def Ctx.goTossRanges (c : Ctx) (s : State) (k : TossKind) (regs : List (Nat × Nat)) (r : List Word) (record : TossRange) : Out :=
  let rs := tossRanges k r
  let (s1, all) := match rs with
    | q :: _ =>
      match c.rangesCheck s [q] with
      | .ok _ =>
        let (s1, bs) := c.readRange s q
        (s1, tossRangesAll k r bs)
      | _ => (s, rs)
    | [] => (s, rs)
  withCtx s1 (fun c => vOut s1 3 (.tossRanges k regs r record) (c.rangesCheck s1 all) (fun _ => c.queueToss s1 k regs r all record))

/-- Checks 5.1 from step 4 of R108 on, and 5.2 (R246). -/
def Ctx.goTossRecord (c : Ctx) (s : State) (k : TossKind) (regs : List (Nat × Nat)) (rva : Nat) : Out :=
  let q : RangeReq := ⟨rva, 128, 64, false⟩
  vOut s 3 (.tossRecord k regs rva) (c.rangesCheck s [q]) (fun _ =>
    let (s1, bs) := c.readRange s q
    let r := (wordsOf 16 bs).map (BitVec.ofNat 64)
    match tossFieldsBad k r with
    | some x => .next (s1.trap (tossTrap c.low x))
    | none => withCtx s1 (fun c => c.goTossRanges s1 k regs r (c.rangeOf s q)))

/-- A Toss word at issue (R234, R246): its operands, room in the queue, then checks 5.1 to 5.4. -/
def tossWord (s : State) (k : TossKind) (d : Dst) (a : Src) : Out :=
  checkedWord s (fun _ => [d.src, a]) (fun c =>
    if 32 ≤ (s.tower (towerOf c.iss.core)).toss.length then .next (s.notIssued c.g)
    else
      let rva := (c.read c.low a).toNat
      if 2 ^ 56 < rva + 128 then .next (s.trap (addrTrap Cause.accessViolation c.low rva 0))
      else c.goTossRecord s k (c.dstRegs d) rva)

/-- `tossmax` (R241). -/
def execTossmax (t : FFmt) (d : Dst) (a : Src) (s : State) : Out := tossWord s (.max t) d a
/-- `tosscand` (R242). -/
def execTosscand (t : FFmt) (d : Dst) (a : Src) (s : State) : Out := tossWord s (.cand t) d a
/-- `tossmerge` (R243). -/
def execTossmerge (d : Dst) (a : Src) (s : State) : Out := tossWord s .merge d a
/-- `tossdraw` (R244). -/
def execTossdraw (d : Dst) (a : Src) (s : State) : Out := tossWord s .draw d a
/-- `tossgen.hi` (R245). -/
def execTossgenHi (d : Dst) (a : Src) (s : State) : Out := tossWord s .genHi d a
/-- `tossgen.lo` (R245). -/
def execTossgenLo (d : Dst) (a : Src) (s : State) : Out := tossWord s .genLo d a

/-! ### The unit (R234) -/

/-- A held Toss word completes: its results are written and its lanes go on (R234). -/
def Gang.finishToss (g : Gang) (h : Held) (j : TossJob) (val : Nat → Nat) : Gang :=
  (g.writeRegs (j.regs.map (fun p => { lane := p.1, reg := p.2, value := BitVec.ofNat 64 (val p.1) }))).release h.id h.lanes

/-- The unit serves a held word: `none` while the word waits for room in the Teller's buffer (R148, R246, R250). `keep` says which
bytes of its output reach their places: all, unless a peer store fails (R362). A word whose ranges a program changes meanwhile has the
result of the bytes read (R249; log entry 72). -/
def State.serveToss (s : State) (c gi : Nat) (b : Block) (g : Gang) (h : Held) (j : TossJob) (keep : Nat → Bool) : Option State :=
  let lane := lowLane h.lanes
  match s.badRange gi h.lanes b j.ins with
  | some (va, pa) =>
    some ((s.log (pa / Config.towerBytes) { kind := 1, addr := pa }).trapHeld c gi h (addrTrap Cause.uncorrectableData lane va 0))
  | none =>
    let (s1, ins) := s.seenRanges c gi h.lanes b j.ins
    match j.result ins with
    | .bad x => some (s1.trapHeld c gi h (tossTrap lane x))
    | .done val out =>
      let q := j.outs.headD ⟨0, 0, [], [], []⟩
      if b.cfg.det && !out.isEmpty then
        let rs := stageRange lane q.va out
        match b.stageRoom g rs.length with
        | some true => none
        | some false => some (s1.trapHeld c gi h (stageTrap lane rs))
        | none =>
          let (b1, g1) := b.stageAll gi g rs
          some (s1.setBlock c (b1.setGang gi (g1.finishToss h j val)))
      else some ((s1.writePlaces (c, gi, h.lanes) (fun i => keep i && !inRuns q.did i) q.locs 0 out).setGang c gi (g.finishToss h j val))

/-- The held Toss word of a queue entry; none if it has a trap pending (R308). -/
def State.tossHeld (s : State) (q : Nat × Nat × Nat) : Option (Block × Gang × Held × TossJob) :=
  match s.block? q.1 with
  | none => none
  | some b =>
    match b.gangs[q.2.1]? with
    | none => none
    | some g =>
      if g.pending.any (fun p => p.heldId == q.2.2) then none
      else match g.heldOf q.2.2 with
        | none => none
        | some h => match h.kind with
          | .toss j => some (b, g, h, j)
          | _ => none

/-- A word leaves the queue of its tower's unit. -/
def State.leaveToss (s : State) (q : Nat × Nat × Nat) : State :=
  s.modTower (towerOf q.1) (fun x => { x with toss := x.toss.filter (fun y => y != q) })

/-- A queue entry is served: none if it waits for room. -/
def State.serveEntry (s : State) (keep : Nat → Bool) (q : Nat × Nat × Nat) : Option State :=
  match s.tossHeld q with
  | none => none
  | some (b, g, h, j) => (s.serveToss q.1 q.2.1 b g h j keep).map (fun s1 => (s1.leaveToss q).wakeGang q.1 q.2.1)

/-- The tower's unit completes the first word of its queue that does not wait for room (R148, R234). -/
def State.tossComplete (s : State) (t : Nat) : Option State := (s.tower t).toss.findSome? (s.serveEntry (fun _ => true))

/-- `TOSS_WORD_COMPLETE` (R234). -/
def execTossWordComplete (t : Nat) (s : State) : Out := happens s (s.tossComplete t)

/-- A held Toss word replaced. -/
def State.setToss (s : State) (core gi id : Nat) (j : TossJob) : State :=
  s.modGang core gi (fun g => { g with held := g.held.map (fun x => if x.id = id then { x with kind := .toss j } else x) })

/-- The unit reads a run of one of a held word's ranges (R248; log entry 4). -/
def State.tossReadTurn (s : State) (core gi id range o n : Nat) : State :=
  match s.tossHeld (core, gi, id) with
  | none => s
  | some (b, _, h, j) =>
    match j.ins[range]? with
    | none => s
    | some q =>
      if (s.badRange gi h.lanes b j.ins).isSome then s
      else
        let (s1, q1) := q.readSome s (core, gi, h.lanes) o n
        let own := fun (x : Nat × List Byte) =>
          (x.1, x.2.mapIdx (fun i v => (b.ownOf gi (lowLane h.lanes) s1.freshCount q (x.1 + i)).getD v))
        ({ s1 with freshCount := if b.cfg.det then s1.freshCount + q.n + 256 else s1.freshCount } : State).setToss core gi h.id
          { j with ins := j.ins.set range { q1 with got := (q1.got.take 1).map own ++ q1.got.drop 1 } }

/-- The unit writes `n` bytes of a held word's output from offset `o` on, having read all its inputs (R248; log entry 4); in a
deterministic launch it writes none itself (R250). -/
def State.tossWriteTurn (s : State) (core gi id o n : Nat) : State :=
  match s.tossHeld (core, gi, id) with
  | none => s
  | some (b, _, h, j) =>
    match j.outs with
    | [] => s
    | q :: _ =>
      if b.cfg.det || (s.badRange gi h.lanes b j.ins).isSome then s
      else
        let (s1, ins) := s.readRanges (core, gi, h.lanes) j.ins
        match j.result ins with
        | .bad _ => s
        | .done _ out =>
          (s1.writePlaces (core, gi, h.lanes) (fun i => inRuns [(o, n)] i && !inRuns q.did i) q.locs 0 out).setToss core gi h.id
            { j with
              ins := (j.ins.zip ins).map (fun p => { p.1 with got := [(0, p.2)] })
              outs := [{ q with did := (o, n) :: q.did }] }

end Sys2Proof.Machine
end

