-- ==== Sys2Proof/Machine/Complete.lean ====
section
/-! DEFINITION. The ends of issued operations (R39, R185, R197), the arrays and the Mint (R100 to R105, R221 to R227, R365), and
the exit of a block (R46, R324). -/
namespace Sys2Proof.Machine

/-! ### Issued operations -/

/-- The operation's results that wait for its completion are written, and its clause's flags brought up to date (R39, R185). -/
def Gang.closeOp (g : Gang) (o : Op) : Gang :=
  (((g.dropOp o.id).writeRegs (o.regs ++ o.group.elim [] GroupJob.results)).writeMasks o.masks).settle

/-- An operation completes, if nothing that its accesses still wait for is left (R132, R361): they are performed, and its results written
(R39, R185). Where two operations write one register element, the one that completes last stays (log entry 65). -/
def State.finishOp (s : State) (c gi : Nat) (g : Gang) (o : Op) : Option State :=
  if o.todo.any (s.mustWait c gi g o.id) then none
  else
    let (s1, o1) := s.performAll c gi o o.todo
    some ((s1.modGang c gi (·.closeOp o1)).wakeGang c gi)

/-- An operation of a gang of a kind completes. -/
def completeOp (s : State) (c gi id : Nat) (kind : OpKind) : Option State :=
  (s.gang? c gi).bind (fun g => (g.ops.find? (fun o => o.id == id && o.kind == kind)).bind (s.finishOp c gi g))

/-- Every access before a release command in its lanes' program order has been performed (R145, R255). -/
def Gang.priorDone (g : Gang) (o : Op) : Bool :=
  !g.ops.any (fun x => decide (x.id < o.id) && x.todo.any (fun a => a.lanes &&& o.lanes != 0))

/-- A release command's operation completes, and the command may start (R145, R255): its tower, on which the engine reads, applies what
it has heard of. -/
def State.finishGate (s : State) (c gi : Nat) (g : Gang) (o : Op) : Option State :=
  if g.priorDone o then
    let s1 := s.learn (towerOf c) (s.tower (towerOf c)).heard
    ({ s1 with commands := s1.commands.map (fun (x : Command) => if some x.id = o.cmd then { x with gated := false } else x) } : State).finishOp c gi g o
  else none

/-- The held word has a trap pending: it has no effect any more (R308). -/
def Gang.trapPends (g : Gang) (h : Held) : Bool := g.pending.any (fun p => p.heldId == h.id)

/-- A word that reads peer memory completes (R119, R362): it is performed, and its lanes go on. -/
def State.finishPeer (s : State) (c gi : Nat) (g : Gang) (h : Held) (o : Op) : Option State :=
  if g.trapPends h || o.todo.any (s.mustWait c gi g o.id) then none
  else
    let (s1, o1) := s.performAll c gi o o.todo
    some ((s1.modGang c gi (fun g => ((g.writeRegs o1.regs).writeMasks o1.masks).release h.id h.lanes)).wakeGang c gi)

/-- `MEMORY_OPERATION_COMPLETE`, if it can happen (R185, R255, R362): a memory operation, a command's operation, or a word on
peer memory. -/
def tryMemoryOperationComplete (core gang op : Nat) (s : State) : Option State :=
  (s.gang? core gang).bind (fun g =>
    match g.ops.find? (·.id == op) with
    | some o =>
      match o.kind with
      | .memory => s.finishOp core gang g o
      | .command => s.finishGate core gang g o
      | _ => none
    | none => (g.heldOf op).bind (fun h =>
      match h.kind with
      | .peer o _ => s.finishPeer core gang g h o
      | _ => none))

/-- `MEMORY_OPERATION_COMPLETE` (R185, R255, R362). -/
def execMemoryOperationComplete (core gang op : Nat) (s : State) : Out := happens s (tryMemoryOperationComplete core gang op s)

/-- `SPECIAL_FUNCTION_COMPLETE` (R156). -/
def execSpecialFunctionComplete (core gang op : Nat) (s : State) : Out := happens s (completeOp s core gang op .special)

/-- `ENC_WRITE_COMPLETE` (R219). -/
def execEncWriteComplete (core gang op : Nat) (s : State) : Out := happens s (completeOp s core gang op .enc)

/-- `DRAIN_WRITE_COMPLETE` (R223 step 3). -/
def execDrainWriteComplete (core gang op : Nat) (s : State) : Out := happens s (completeOp s core gang op .drainWrite)

/-! ### Accumulation (R221) -/

/-- The residues after the K-steps an `mxm` has left (R221, R314). -/
def Prog.accumulate (p : Prog) (res rs : Memory) (ret : Option Nat) : Memory :=
  match p.kind with
  | .mxm f a b =>
    let k := bitsOf f.toNat 47 32
    accumulateSlot res rs ret (bitsOf a.toNat 23 0 + 256 * p.ksteps) (bitsOf b.toNat 23 0 + 256 * p.ksteps) (k - 8 * p.ksteps)
  | _ => res

/-- A slot after the front word of its order has completed (R212). -/
def Slot.stepProg (x : Slot) (p : Prog) (rs : Memory) (ret : Option Nat) : Slot :=
  ({ x with res := if p.live then p.accumulate x.res rs ret else x.res, prog := x.prog.drop 1 } : Slot).popClears

/-- The residue scratchpad as an `mxm` reads it: each byte written since the mark of the word's `mxfence`, in each channel, as it was
before or after each such write (R146). -/
def Block.rsView (b : Block) (mark fresh : Nat) : Memory :=
  let ws := sinceMark b.rsLog mark
  (ws.flatMap (fun e => (List.range e.2.length).map (e.1 + ·))).eraseDups.foldl (fun m o =>
    cellSet m o (readEither (fresh + o) (cellGet b.rs o) (replaced ws o))) b.rs

/-- `MXM_ACCUMULATE`, if it can happen: the first `mxm` of a slot's order completes (R212, R221). -/
def tryMxmAccumulate (core gang slot : Nat) (s : State) : Option State :=
  match s.block? core with
  | none => none
  | some b =>
    match b.gangs[gang]? with
    | none => none
    | some g =>
      match (g.slot slot).prog with
      | [] => none
      | p :: _ =>
        let x := (g.slot slot).stepProg p (b.rsView p.mark s.freshCount) (retiredChannel s core)
        some (((s.usedFree b.rsLog p.mark).setGang core gang (g.setSlot slot x).settle).wakeGang core gang)
/-- `MXM_ACCUMULATE` (R212, R221). -/
def execMxmAccumulate (core gang slot : Nat) (s : State) : Out := happens s (tryMxmAccumulate core gang slot s)

/-! ### Drains (R223 to R225) -/

/-- Rows in a part of a register drain (R224). -/
def partRows : Nat → Nat
  | 0 => 2 | 1 => 4 | _ => 8

/-- The elements that a drain covers, in row-major order (R102, R224, R225). -/
def DrainJob.elements (j : DrainJob) : List Nat :=
  match j.part with
  | some p => (List.range (32 * partRows j.ofmt)).map (fun x => 32 * partRows j.ofmt * p + x)
  | none => List.range 1024

/-- The decision over the elements (R101, R102): the first that traps (its number, and whether it is ambiguous), or the values
with the channels corrected. -/
def decideAll (rx : Radices) (safe : Bool) (elems : List (List Nat)) : List Nat → Except (Nat × Bool) (List (Nat × Int × Option Nat))
  | [] => .ok []
  | x :: r =>
    match decideElem rx safe (fun c => (elems.getD x []).getD c 0) with
    | .ambiguous => .error (x, true)
    | .uncorrectable => .error (x, false)
    | .value v c =>
      match decideAll rx safe elems r with
      | .error e => .error e
      | .ok l => .ok ((x, v, c) :: l)

/-- The exponent byte of a scale vector (R103). -/
def expOf (bs : List Byte) (i : Nat) : Int := sintN 8 (bs.getD i 0).toNat

/-- The exact value of an element (R103). -/
def Slot.scaled (x : Slot) (e : Nat) (v : Int) : FVal :=
  let (a, b) := x.scales.getD (List.replicate 32 0, List.replicate 32 0)
  scaledVal v (expOf a (e / 32)) (expOf b (e % 32))

/-- The number format of a drain's output (R103, R224). -/
def drainFmt : Nat → FloatFmt
  | 0 => fmtF32 | 1 => fmtBf16 | 2 => fmtE4m3 | _ => fmtE5m2

/-- One element rounded to a drain's output format: e4m3 and e5m2 saturate (R83, R103). -/
def drainRound (ofmt : Nat) (rm : RMode) (v : FVal) : Nat := (drainFmt ofmt).ofVal rm (decide (2 ≤ ofmt)) v

/-- A row of a memory drain: its bytes and its saturation bit (R84, R225). -/
def drainRow (ofmt : Nat) (rm : RMode) (vs : List FVal) : List Byte × Bool :=
  if ofmt = 4 then
    let q := quantise 7 true rm vs
    (q.mant.map (fun m => BitVec.ofNat 8 (lowBits 8 m)) ++ [BitVec.ofNat 8 (lowBits 8 q.exp), 0, 0, 0], q.sat)
  else (vs.flatMap (fun v => leBytes ((drainFmt ofmt).width / 8) (drainRound ofmt rm v)), false)

/-- The rows of a slot's values. -/
def rowsOf (vs : List FVal) : List (List FVal) := (List.range 32).map (fun i => (vs.drop (32 * i)).take 32)

/-- The register results of a register drain (R224). -/
def DrainJob.regResults (j : DrainJob) (vs : List FVal) : List RegWrite :=
  let n := partRows j.ofmt
  j.regs.map (fun p => { lane := p.1, reg := p.2, value := BitVec.ofNat 64 ((List.range n).foldl (fun acc e =>
    acc + drainRound j.ofmt j.mode (vs.getD (32 * e + p.1) .nan) * 2 ^ (64 / n * e)) 0) })

/-- The status of a memory drain (R225). -/
def drainStatus (rows : List (List Byte × Bool)) (corrected : Nat) : Nat :=
  (rows.mapIdx (fun i r => if r.2 then 2 ^ i else 0)).sum + corrected * 2 ^ 32

/-- Bytes laid over places in order. -/
def layBytes : List (Loc × Nat) → List Byte → List (Loc × List Byte)
  | [], _ => []
  | (loc, n) :: r, bs => (loc, bs.take n) :: layBytes r (bs.drop n)

/-- One correction counted (R102, R365). -/
def Tower.countCorrection (t : Tower) (last : Word) (ch : Nat) : Tower :=
  let n := min (2 ^ 32 - 1) ((t.asycnt.getD ch 0).toNat + 1)
  let t1 := { t with asycnt := t.asycnt.set ch (BitVec.ofNat 32 n), asylast := last }
  if t.asythr ≠ 0 ∧ t.asythr.toNat ≤ n ∧ !t.asyLogged.getLsbD ch then
    { t1.logEvent { kind := 9, loc := ch } with asyLogged := t1.asyLogged ||| BitVec.ofNat 8 (2 ^ ch) }
  else t1

/-- ASYLAST for an element (R365). -/
def asylastWord (ch core slot e : Nat) : Word :=
  BitVec.ofNat 64 (2 ^ 63 + ch * 2 ^ 56 + core % 32 * 2 ^ 48 + slot % 16 * 2 ^ 40 + e * 2 ^ 30)

/-- The Assay after a drain (R102, R365): ASYLAST counts row and column from bit 30 up, and a core's slots from its gangs'. -/
def State.assay (s : State) (core coreSlot : Nat) (ds : List (Nat × Int × Option Nat)) : State :=
  (ds.foldl (fun (s : State) d =>
    match d.2.2 with
    | none => s
    | some ch => s.modTower (towerOf core) (fun t => t.countCorrection (asylastWord ch core coreSlot d.1) ch)) s).pump

/-- The stores of a memory drain, each element an access of its own (R130, R147, R225): writes of the gang at the drain's place. -/
def DrainJob.stores (j : DrainJob) (core : Nat) (lanes : LaneBits) (rows : List (List Byte)) : List Access :=
  let grain := (rowShape j.ofmt).2
  if j.virt then
    (layBytes j.locs rows.flatten).mapIdx (fun i p => { scratchStore lanes (.vm p.1) grain p.2 with via := j.vias.getD i (4, 0) })
  else rows.mapIdx (fun i r => scratchStore lanes (.ds core (j.addr + i * j.stride)) grain r)

/-- A drain that passes: its operation, and the gang with the amax update (R87, R223). -/
def drainOp (core : Nat) (asid : BitVec 16) (g : Gang) (h : Held) (j : DrainJob) (vs : List FVal) (corrected : Nat) (staged : Bool) :
    Gang × Op :=
  let g1 := if 2 ≤ j.ofmt then g.amaxAll vs else g
  let o : Op := { g1.newOp h.lanes .b .drainWrite with isWrite := true, slot := some j.slot }
  match j.part with
  | some _ => (g1, { o with regs := j.regResults vs })
  | none =>
    let rows := (rowsOf vs).map (drainRow j.ofmt j.mode)
    let st := BitVec.ofNat 64 (drainStatus rows corrected)
    let xs := if staged then [] else j.stores core h.lanes (rows.map (·.1))
    (g1, { o with
      regs := j.regs.map (fun p => { lane := p.1, reg := p.2, value := st })
      todo := xs
      peer := xs.any (fun x => x.spot.isPeer)
      asid := if j.virt && !staged then some asid else none })

/-- The entries that a drain stages (R148), as entries of lane 0 (log entry 64). -/
def DrainJob.stageReqs (j : DrainJob) (vs : List FVal) : List StageReq :=
  (((rowsOf vs).map (drainRow j.ofmt j.mode)).mapIdx (fun i r => stageRange 0 (j.addr + i * j.stride) r.1)).flatten

/-- The drain is staged: a memory drain to virtual memory in a deterministic launch (R148, R223). -/
def DrainJob.staged (j : DrainJob) (b : Block) : Bool := b.cfg.det && j.virt && j.part.isNone

/-- The drain passes: the Assay, the operation, and the lanes go on (R223 step 2). -/
def State.passDrain (s : State) (c gi : Nat) (b : Block) (g : Gang) (h : Held) (j : DrainJob)
    (ds : List (Nat × Int × Option Nat)) (vs : List FVal) : State :=
  let n := (ds.filter (fun d => d.2.2.isSome)).length
  let (g1, o) := drainOp c b.cfg.asid g h j vs n (j.staged b)
  let (s0, o1) := s.numbered c o
  let s1 := s0.setBlock c (b.setGang gi ((g1.addOp o1).release h.id h.lanes))
  s1.assay c (gi * b.cfg.slots + j.slot) ds

/-- The decision of a drain whose slot is ready (R223): none while it waits for room in the Teller's buffer. -/
def State.decideDrain (s : State) (c gi : Nat) (b : Block) (g : Gang) (h : Held) (j : DrainJob) : Option State :=
  let x := g.slot j.slot
  let rx := radices (retiredChannel s c)
  match decideAll rx (decide (x.bound.toNat ≤ Config.bigH)) (slotElems x.res) j.elements with
  | .error (e, amb) =>
    some (s.trapHeld c gi h { cause := if amb then Cause.rangeAmbiguous else Cause.residueUncorrectable, lane := e % 32,
                              info := e % 32 + 32 * (e / 32) + 1024 * j.slot })
  | .ok ds =>
    let vs := ds.map (fun d => x.scaled d.1 d.2.1)
    if j.staged b then
      let rs := j.stageReqs vs
      match b.stageRoom g rs.length with
      | some true => none
      | some false => some (s.trapHeld c gi h (stageTrap 0 rs))
      | none =>
        let (b1, g1) := b.stageAll gi g rs
        some (s.passDrain c gi b1 g1 h j ds vs)
    else some (s.passDrain c gi b g h j ds vs)

/-- Entries that a memory drain to virtual memory would stage (R148): their number does not depend on the values. -/
def DrainJob.entries (j : DrainJob) : Nat := (j.stageReqs (List.replicate 1024 .nan)).length

/-- A held drain that the Mint has still to serve: it has no trap pending, and does not wait for room in the Teller's buffer with
its results ready (R223). -/
def Gang.undecided (g : Gang) (b : Block) (h : Held) : Option Nat :=
  match h.kind with
  | .drain j =>
    if g.trapPends h || (j.staged b && (g.slot j.slot).prog.isEmpty && b.stageRoom g j.entries == some true) then none else some j.ord
  | _ => none

/-- The Mint of a core has served every drain that issued before one (R212). -/
def Block.mintFree (b : Block) (ord : Nat) : Bool :=
  b.gangs.all (fun g => g.held.all (fun h => (g.undecided b h).all (fun o => decide (ord ≤ o))))

/-- `DRAIN_DECISION`, if it can happen (R101, R102, R212, R223): once every earlier word on the slot has completed, and every
earlier drain of the core has been decided. -/
def tryDrainDecision (core gang op : Nat) (s : State) : Option State :=
  (s.block? core).bind (fun b => (b.gangs[gang]?).bind (fun g => (g.heldOf op).bind (fun h =>
    match h.kind with
    | .drain j =>
      if (g.slot j.slot).prog.isEmpty && b.mintFree j.ord && !g.trapPends h then s.decideDrain core gang b g h j else none
    | _ => none)))

/-- `DRAIN_DECISION` (R101, R102, R212, R223). -/
def execDrainDecision (core gang op : Nat) (s : State) : Out := happens s (tryDrainDecision core gang op s)

/-! ### Summing across an ensemble (R226, R227) -/

/-- A participant of a sum. -/
structure Participant where
  core : Nat
  rank : Nat
  gang : Gang
  held : Held
  deriving DecidableEq, Repr

/-- The gang of a member that is held at the paired `mxgsum`, its slot ready (R227 steps 1 and 2). -/
def State.participant (s : State) (gi slot q core : Nat) : Option Participant :=
  match s.block? core with
  | none => none
  | some b =>
    match b.gangs[gi]? with
    | none => none
    | some g =>
      match g.held.find? (fun h => h.kind == .mxgsum slot q) with
      | none => none
      | some h => if (g.slot slot).prog.isEmpty && !g.trapPends h then some ⟨core, b.rank, g, h⟩ else none

/-- The participants of a sum in order of rank. -/
def State.participants (s : State) (b : Block) (gi slot q : Nat) : List Participant :=
  sortBy (fun x y => decide (x.rank ≤ y.rank)) ((s.membersOf b.ensemble).filterMap (s.participant gi slot q))

/-- The scale check over recorded participants (R227 step 3): TINFO of the first difference. -/
def sumScaleDiff (slot : Nat) (ps : List Participant) : Option Nat :=
  match ps.filterMap (fun p => (p.gang.slot slot).scales) with
  | [] => none
  | r :: rs => rs.findSome? (fun x => scaleDiff slot r x)

/-- The residues of a sum (R227 step 4). -/
def sumResidues (slot : Nat) (ps : List Participant) : Memory :=
  let planes := ps.map (fun p => slotPlanes (p.gang.slot slot).res)
  cellsOfList 0 ((List.range 8).flatMap (fun c => (List.range 1024).map (fun x =>
    BitVec.ofNat 8 ((planes.map (fun pl => (pl.getD c []).getD x 0)).sum % modulus c))))

/-- The slot every participant receives (R96, R227 step 4). -/
def sumSlot (slot : Nat) (ps : List Participant) : Memory × Word × Option (List Byte × List Byte) :=
  (sumResidues slot ps, BitVec.ofNat 64 (min (2 ^ 64 - 1) ((ps.map (fun p => (p.gang.slot slot).bound.toNat)).sum)),
   (ps.filterMap (fun p => (p.gang.slot slot).scales)).head?)

/-- What a participant's slot becomes: in an ensemble of one its own contents, unchanged (R227). -/
def sumFor (b : Block) (slot : Nat) (ps : List Participant) (p : Participant) : Memory × Word × Option (List Byte × List Byte) :=
  let x := p.gang.slot slot
  if b.cfg.ens = 1 then (x.res, x.bound, x.scales) else sumSlot slot ps

/-- The sum reaches a participant, and its lanes go on. -/
def State.sumInto (s : State) (gi slot : Nat) (r : Memory × Word × Option (List Byte × List Byte)) (p : Participant) : State :=
  let x := { p.gang.slot slot with res := r.1, bound := r.2.1, scales := r.2.2 }
  s.setGang p.core gi ((p.gang.setSlot slot x).release p.held.id p.held.lanes)

/-- `MXGSUM_SUM`, if it can happen (R227): every present member holds the paired word and its slot is ready. -/
def tryMxgsumSum (core gang slot : Nat) (s : State) : Option State :=
  match s.block? core with
  | none => none
  | some b =>
    match (b.gangs[gang]?).bind (fun g => g.held.findSome? (fun h => match h.kind with
        | .mxgsum n q => if n = slot then some q else none
        | _ => none)) with
    | none => none
    | some q =>
      let ps := s.participants b gang slot q
      if ps.length < b.present then none
      else match sumScaleDiff slot ps with
        | some i =>
          some (State.deliver deliverFuel (ps.map (fun p =>
            ⟨p.core, gang, p.held.id, { cause := Cause.scaleMismatch, info := i, held := true }⟩)) s)
        | none => some (ps.foldl (fun s p => s.sumInto gang slot (sumFor b slot ps p) p) s)
/-- `MXGSUM_SUM` (R227). -/
def execMxgsumSum (core gang slot : Nat) (s : State) : Out := happens s (tryMxgsumSum core gang slot s)

end Sys2Proof.Machine
end

