-- ==== Sys2Proof/Machine/Release.lean ====
section
/-! DEFINITION. The ends of waits: the lease (R45), monitors (R202), ports (R273), the Teller (R149, R150, R353), the copies of
other towers (R141), the quantum (R335) and a yield (R336). -/
namespace Sys2Proof.Machine

/-! ### The lease (R45) -/

/-- The lease goes to the gang whose request is oldest, and its waiting words may issue again. -/
def Block.grantLease (b : Block) : Option Block :=
  match b.lease.waiting with
  | [] => none
  | gi :: r =>
    let b1 := { b with lease := { holder := some gi, waiting := r, count := 0 } }
    match b1.gangs[gi]? with
    | none => some b1
    | some g => some (b1.setGang gi (g.letIssue (fun k => k == .lease)))

/-- `LEASE_GRANT`, if it can happen (R45). -/
def tryLeaseGrant (core : Nat) (s : State) : Option State :=
  match s.block? core with
  | none => none
  | some b =>
    if b.lease.holder.isSome then none
    else match b.grantLease with
      | some b1 => some (s.setBlock core b1)
      | none => none

/-- `LEASE_GRANT` (R45). -/
def execLeaseGrant (core : Nat) (s : State) : Out := happens s (tryLeaseGrant core s)

/-- Every `mxm` that a gang has issued has been accepted by the arrays: on each slot at most the one they work on is left (R45; log
entry 54). -/
def Gang.accepted (g : Gang) : Bool := g.slots.all (fun x => decide (x.prog.length ≤ 1))

/-- `LEASE_PASS`, if it can happen (R45): after 64 operations, accepted by the arrays, it passes to a gang that waits. -/
def tryLeasePass (core : Nat) (s : State) : Option State :=
  match s.block? core with
  | none => none
  | some b =>
    match b.lease.holder.bind (fun h => b.gangs[h]?) with
    | none => none
    | some g =>
      if b.lease.count < 64 || !g.accepted then none
      else match b.grantLease with
        | some b1 => some (s.setBlock core b1)
        | none => none

/-- `LEASE_PASS` (R45). -/
def execLeasePass (core : Nat) (s : State) : Out := happens s (tryLeasePass core s)

/-! ### Monitors (R202) -/

/-- The place a monitor watches, and the value its home holds, if it can be read (R202). -/
def State.monValue (s : State) (core : Nat) (b : Block) (e : MemElem) (w : Width) : Option (Loc × Nat) :=
  match walk s (s.coreTlb core) b.cfg.asid e.va with
  | .fault _ => none
  | .ok loc leaf =>
    if leaf.allows b.cfg.smode .read && !s.locFails loc w.bytes then some (loc, ofLeBytes (s.homeRead (towerOf core) loc w.bytes).2) else none

/-- A lane of a monitor goes on with the satisfying value (R202). -/
def Gang.endMonitor (g : Gang) (h : Held) (e : MemElem) (x : Nat) : Gang :=
  (g.writeRegs (e.reg.toList.map (fun r => { lane := e.lane, reg := r, value := BitVec.ofNat 64 x }))).release h.id (oneLane e.lane)

/-- The read that ends a monitor: an acquire at device scope, at domain scope on peer and host pages (R137, R202). -/
def MemElem.monRead (e : MemElem) (w : Width) (loc : Loc) : Access :=
  e.access (loc, true) w.bytes { acq := true, scope := if (Spot.vm loc).far then .dom else .dev } (.load w false none none)

/-- What the acquiring read of a monitor does (R111, R137, R141). -/
def State.monAcquire (s : State) (core gi : Nat) (x : Access) : State := (s.readSpot core gi x).1.afterAcquire core x.ord x.spot

/-- The element of a monitor that a lane waits on. -/
def Held.monElem (h : Held) (lane : Nat) : Option (Width × Cond × MemElem) :=
  match h.kind with
  | .monw w k es => if h.lanes.getLsbD lane then (es.find? (fun e => e.lane == lane)).map (fun e => (w, k, e)) else none
  | _ => none

/-- `MONW_SATISFIED`, if it can happen (R202). -/
def tryMonwSatisfied (core gang lane : Nat) (s : State) : Option State :=
  match s.block? core with
  | none => none
  | some b =>
    match b.gangs[gang]? with
    | none => none
    | some g =>
      match g.held.findSome? (fun h => (h.monElem lane).map (fun x => (h, x))) with
      | none => none
      | some (h, w, k, e) =>
        match s.monValue core b e w with
        | none => none
        | some (loc, x) =>
          if condHolds k w.bits x (e.v.toNat % 2 ^ w.bits) && !g.trapPends h && !g.blocked h.id (e.monRead w loc) then
            some (((s.monAcquire core gang (e.monRead w loc)).setGang core gang (g.endMonitor h e x)).wakeGang core gang)
          else none

/-- `MONW_SATISFIED` (R202). -/
def execMonwSatisfied (core gang lane : Nat) (s : State) : Out := happens s (tryMonwSatisfied core gang lane s)

/-! ### Ports (R273) -/

/-- `QUEUE_WAIT_RELEASE`, if it can happen (R273): the word that a lane waits in. -/
def tryQueueWaitRelease (core gang lane : Nat) (s : State) : Option State :=
  match s.gang? core gang with
  | none => none
  | some g =>
    match g.held.find? (fun h => h.lanes.getLsbD lane && (match h.kind with | .qpop _ _ | .qpush _ _ => true | _ => false)) with
    | none => none
    | some h =>
      match s.queueHeld core gang h with
      | some s1 => some s1
      | none => none

/-- `QUEUE_WAIT_RELEASE` (R273). -/
def execQueueWaitRelease (core gang lane : Nat) (s : State) : Out := happens s (tryQueueWaitRelease core gang lane s)

/-! ### The Teller (R149, R150, R353) -/

/-- Flush `n` of a block is closed: every gang has passed it or has exited (R149). -/
def Block.flushClosed (b : Block) (n : Nat) : Bool := b.gangs.all (fun g => decide (n < g.flush) || g.allExited)

/-- Flush `n` of a block has been applied, or the block needs nothing more (R149, R150). -/
def Block.flushApplied (b : Block) (n : Nat) : Bool :=
  decide (n < b.tfl) || (b.gangs.all Gang.allExited && b.teller.isEmpty)

/-- The block of an index of a launch, wherever it is: resident or saved. -/
def State.blockOf (s : State) (lid index : Nat) : Option Block :=
  match (s.cores.filterMap (·.block)).find? (fun b => b.cfg.lid = lid && b.cfg.index = index) with
  | some b => some b
  | none => ((s.saved.map (·.block)).find? (fun b => b.cfg.lid = lid && b.cfg.index = index))

/-- Flush `n` of a lower-index block has been applied; an exited or killed block needs nothing more (R150, R152, R338). -/
def State.lowerApplied (s : State) (l : Launch) (n i : Nat) : Bool :=
  l.exited.contains i || l.killed.contains i ||
  (match s.blockOf l.id i with
   | some b => b.flushApplied n
   | none => false)

/-- The Teller of a launch stalls at translation, on an entry of one of its blocks (R353). -/
def State.tellerStalls (s : State) (lid : Nat) : Bool :=
  s.cores.any (fun k => k.block.any (fun b => b.cfg.lid == lid && b.tellerStall))

/-- The Teller may apply flush `b.tfl` of the block (R150). -/
def State.flushReady (s : State) (b : Block) : Bool :=
  !s.tellerStalls b.cfg.lid && b.cfg.det && b.flushClosed b.tfl && !(b.gangs.all Gang.allExited && b.teller.isEmpty) &&
  (match s.launch? b.cfg.lid with
   | none => false
   | some l => (List.range b.cfg.index).all (s.lowerApplied l b.tfl))

/-- What becomes of one entry: the state after it, or a stall on a fault (R353). -/
inductive Applied
  | done (s : State)
  | stall (f : WalkFault) (acc : AccKind)

/-- The access an entry makes. -/
def TellerKind.access : TellerKind → AccKind
  | .store => .write
  | _ => .both

/-- The new value of an entry's location, in `8 × size` bits (R150). -/
def TellerEntry.value (e : TellerEntry) (old : Nat) : Nat :=
  match e.kind with
  | .store => e.data.toNat % 2 ^ (8 * e.size)
  | .fadda => fAdd fmtF32 .rne old (e.data.toNat % 2 ^ 32)
  | .amaxm => fAmaxNode old (e.data.toNat % 2 ^ 32)

/-- An entry discarded, and logged as kind 3 (R353, R364). -/
def State.discardEntry (s : State) (core : Nat) (e : TellerEntry) : State :=
  s.log (towerOf core) { kind := 3, va := e.addr.toNat }

/-- An entry performed at its home by the Teller, a release at device scope (R150): the lane that staged it reads nothing older
afterwards (R132 item 1, R151). -/
def State.performEntry (s : State) (core : Nat) (e : TellerEntry) (loc : Loc) : State :=
  let t := towerOf core
  let (s1, old) := (s.peersFirst t loc e.size).homeRead t loc e.size
  (s1.towerWrite t (some (core, e.gang, oneLane e.lane)) { rel := true, scope := .dev } loc (leBytes e.size (e.value (ofLeBytes old)))).dropRun
    core loc e.size

/-- One entry is translated, checked and performed (R150, R353). -/
def State.applyEntry (s : State) (core : Nat) (b : Block) (e : TellerEntry) : Applied :=
  match walk s (s.coreTlb core) b.cfg.asid e.addr.toNat with
  | .fault f => .stall f e.kind.access
  | .ok loc leaf =>
    let okHome := match e.kind, loc with
      | .store, _ => true
      | _, .host _ => false
      | _, _ => true
    if !leaf.allows b.cfg.smode e.kind.access || !okHome then .done (s.discardEntry core e)
    else if e.kind ≠ .store ∧ s.locFails loc e.size then .done (s.discardEntry core e)
    else .done (s.performEntry core e loc)

/-- The order of a flush: gang, lane, program order (R150). -/
def TellerEntry.before (x y : TellerEntry) : Bool :=
  if x.gang ≠ y.gang then decide (x.gang < y.gang)
  else if x.lane ≠ y.lane then decide (x.lane < y.lane)
  else decide (x.seq ≤ y.seq)

/-- The entry leaves the buffer (R148). -/
def State.dropEntry (s : State) (core : Nat) (e : TellerEntry) : State :=
  s.modBlock core (fun b => { b with teller := b.teller.filter (fun x => x != e) })

/-- What the gangs of a block that have exited had issued is performed: it happens before the flushes that their exits close
(R149, R150). -/
def State.performExited (s : State) (core : Nat) (b : Block) : State :=
  (List.range b.gangs.length).foldl (fun s gi =>
    if (b.gangs.getD gi {}).allExited then s.performBefore core gi (BitVec.allOnes 32) true else s) s

/-- An entry of the block's flush is applied and leaves the buffer, or stalls the Teller on a fault (R150, R353): the flag says that it was
applied. -/
def State.tellerEntry (s : State) (core : Nat) (b : Block) (e : TellerEntry) : State × Bool :=
  match s.applyEntry core b e with
  | .done s1 => (s1.dropEntry core e, true)
  | .stall f k =>
    (((s.logWalk f).modBlock core (fun x => { x with tellerStall := true })).modTower (towerOf core) (fun t =>
      t.joinFault (.teller core) f e.addr.toNat b.cfg.asid k.code 4 (core % 32)), false)

/-- The entries of a flush are applied one at a time; a fault stalls the Teller (R150, R353). -/
def State.applyEntries (core : Nat) (b : Block) : List TellerEntry → State → State
  | [], s => s.modBlock core (fun x => { x with tfl := x.tfl + 1 })
  | e :: r, s =>
    match s.tellerEntry core b e with
    | (s1, true) => State.applyEntries core b r s1
    | (s1, false) => s1

/-- The entries of the block's next flush, in their order (R150). -/
def Block.nextFlush (b : Block) : List TellerEntry := sortBy TellerEntry.before (b.teller.filter (fun e => decide (e.flush = b.tfl)))

/-- `TELLER_FLUSH_APPLY`, if it can happen (R150): the next flush of the block is applied. -/
def tryTellerFlushApply (core : Nat) (s : State) : Option State :=
  match s.block? core with
  | none => none
  | some b =>
    if s.flushReady b then
      some (State.applyEntries core b b.nextFlush (s.performExited core b))
    else none

/-- The Teller applies the first entry of the block's next flush alone (R150; log entry 4). -/
def State.tellerTurn (s : State) (core : Nat) : State :=
  match s.block? core with
  | none => s
  | some b =>
    match b.nextFlush with
    | [] => s
    | e :: _ => if s.flushReady b then ((s.performExited core b).tellerEntry core b e).1 else s

/-- `TELLER_FLUSH_APPLY` (R150). -/
def execTellerFlushApply (core : Nat) (s : State) : Out := happens s (tryTellerFlushApply core s)

/-! ### Copies (R141) -/

/-- The receiving tower has applied every update that the clock says precedes this one (R141). -/
def clockReady (have_ clock : List Nat) (src : Nat) : Bool :=
  (List.range 8).all (fun t =>
    if t = src then clock.getD t 0 == have_.getD t 0 + 1 else decide (clock.getD t 0 ≤ have_.getD t 0))

/-- `REMOTE_UPDATE_APPLY`, if it can happen (R141): an update that has reached a tower of the part is applied to its copy of the line, once those that
its clock says precede it have been. -/
def tryRemoteUpdateApply (src dst : Nat) (clock : List Nat) (s : State) : Option State :=
  if s.part.towers ≤ src ∨ s.part.towers ≤ dst ∨ !clockReady (s.tower dst).vclock clock src then none
  else
    match (s.tower dst).inbox.find? (fun u => u.src == src && u.clock == clock) with
    | none => none
    | some u => some (s.modTower dst (fun t => ({ t with inbox := t.inbox.erase u } : Tower).apply u))

/-- `REMOTE_UPDATE_APPLY` (R141). -/
def execRemoteUpdateApply (src dst : Nat) (clock : List Nat) (s : State) : Out := happens s (tryRemoteUpdateApply src dst clock s)

/-! ### Quantum and yield (R335, R336) -/

/-- `QUANTUM_EXPIRY`, if it can happen (R42, R335). -/
def tryQuantumExpiry (core : Nat) (s : State) : Option State :=
  let k := s.core core
  match k.block with
  | none => none
  | some b =>
    if k.bind = .running ∧ !b.quantumPassed ∧ b.since + Config.quantum ≤ k.cycles then
      some (s.setBlock core { b with quantumPassed := true })
    else none

/-- `QUANTUM_EXPIRY` (R42, R335). -/
def execQuantumExpiry (core : Nat) (s : State) : Out := happens s (tryQuantumExpiry core s)

/-- `YIELD_SUPPRESSION_END`, if it can happen (R336). -/
def tryYieldSuppressionEnd (core gang : Nat) (s : State) : Option State :=
  match s.gang? core gang with
  | none => none
  | some g =>
    match g.yielded with
    | none => none
    | some t =>
      if t + 8 < (s.core core).cycles then some (s.setGang core gang { g with yielded := none })
      else none

/-- `YIELD_SUPPRESSION_END` (R336). -/
def execYieldSuppressionEnd (core gang : Nat) (s : State) : Out := happens s (tryYieldSuppressionEnd core gang s)

end Sys2Proof.Machine
end

