-- ==== Sys2Proof/Machine/Engines.lean ====
section
/-! DEFINITION. The copy engines (R253 to R265): starting a command, its checks and transfer, its failure, and its completion. -/
namespace Sys2Proof.Machine

/-! ### Results of the engine's accesses -/

/-- What an engine access comes to: done, a failure cause (R258), or a stall on a fault (R108 step 4). -/
inductive Eng (α : Type)
  | ok (a : α)
  | fail (cause : Nat)
  | stall (f : WalkFault) (va : Nat) (acc : AccKind)

/-- Going on after an access. -/
def Eng.andThen {α β : Type} (e : Eng α) (k : α → Eng β) : Eng β :=
  match e with
  | .ok a => k a
  | .fail c => .fail c
  | .stall f va acc => .stall f va acc

/-- A failed run as an engine sees it (R258 checks 4 to 6). -/
def RunFail.eng {α : Type} (k : AccKind) : RunFail → Eng α
  | .fault f va => .stall f va k
  | .denied _ => .fail 4
  | .uncorrectable _ _ => .fail 5

/-- The translations held for the engines of a command's tower (R346). -/
def Command.tlb (c : Command) (s : State) : List TlbEntry := s.towerTlb (towerOf c.core)

/-- The places of a virtual run with an access permitted. -/
def Command.places (c : Command) (s : State) (k : AccKind) (va n : Nat) : Eng (List (Loc × Nat × Leaf)) :=
  match s.mapRun (c.tlb s) c.asid c.smode k (piecesOf va n) with
  | .ok l => .ok l
  | .error e => e.eng k

/-- The command's reads have no edge from what its launch has done before: it was issued without release semantics, and its program, if it
has one, is still being read (R145). -/
def Command.loose (c : Command) : Bool := !c.rel && c.coll.isNone

/-- A run of bytes before some writes that replaced parts of it, latest first. -/
def undoWrites (base : Nat) (bs : List Byte) (ws : List (Nat × List Byte)) : List Byte :=
  ws.foldl (fun bs w => overlay base bs w.1 w.2) bs

/-- How many of the `k` writes of a unit of an engine's transfer such a read does not see: any number of the latest, freely (R145; log
entry 77). -/
def unseen (s : State) (a k : Nat) : Nat := (Config.freeWord (s.freshCount - 1 - a)).toNat % (k + 1)

/-- Eight bytes or fewer of memory as a command may read them with no edge to its launch's writes: as its tower sees them, or as they were
before some of those (R130, R145). -/
def Command.looseUnit (c : Command) (s : State) (loc : Loc) (now : List Byte) : List Byte :=
  let mark := ((s.launch? c.lid).map (·.homeMark)).getD s.homeLog.length
  let ws := ((s.homeLog.take (s.homeLog.length - mark)).filter (fun e =>
    loc.at e.1.addr == e.1 && runsMeet loc.addr now.length e.1.addr e.2.length)).map (fun e => (e.1.addr, e.2))
  let j := unseen s loc.addr ws.length
  if ws.isEmpty ∨ j = 0 then now else undoWrites loc.addr (s.readLoc loc now.length) (ws.take j)

/-- The bytes at a location as an engine reads them for a command (R113, R115, R129, R145). -/
def Command.seeLoc (c : Command) (s : State) (loc : Loc) (direct : Bool) (n : Nat) : List Byte :=
  let t := towerOf c.core
  let now := if direct then (s.homeRead t loc n).2 else (s.towerRun t none loc n).2
  if c.loose then
    (blockPieces 8 (n / 8 + 2) loc.addr n).flatMap (fun p => c.looseUnit s (loc.at p.1) ((now.drop (p.1 - loc.addr)).take p.2))
  else now

/-- The bytes of a side with those that the engine has read already in place (R130). -/
def Command.overGot (c : Command) (x : Side) (bs : List Byte) : List Byte :=
  c.got.foldr (fun g bs =>
    match g.1, x with
    | .virt a, .virt b => overlay b bs a g.2
    | .scratch a, .scratch b => overlay b bs a g.2
    | _, _ => bs) bs

/-- Reading a virtual run (R258). -/
def Command.readVirt (c : Command) (s : State) (va n : Nat) : Eng (List Byte) :=
  (c.places s .read va n).andThen (fun l =>
    if (s.firstFailing va l).isSome then .fail 5
    else .ok (c.overGot (.virt va) (l.flatMap (fun p => c.seeLoc s p.1 p.2.2.ms p.2.1))))

/-- Writes of a tower's unit at the pieces of a run (R131, R361). -/
def State.towerPieces (s : State) (t : Nat) (m : MemOrder) : List (Loc × Nat × Leaf) → List Byte → State
  | [], _ => s
  | (loc, n, _) :: r, bs => ((s.peersFirst t loc n).towerWrite t none m loc (bs.take n)).towerPieces t m r (bs.drop n)

/-- A tower's unit reads the places of a run and writes what `f` makes of them as one indivisible update (R131): its older requests to
their lines are made first (R361). -/
def State.towerUpdate (s : State) (t : Nat) (m : MemOrder) (l : List (Loc × Nat × Leaf)) (f : List Byte → List Byte) : State :=
  let s1 := l.foldl (fun s p => s.peersFirst t p.1 p.2.1) s
  let bs := f (l.flatMap (fun p => s1.readLoc p.1 p.2.1))
  (l.foldl (fun x p => (x.1.towerWrite t none m p.1 (x.2.take p.2.1), x.2.drop p.2.1)) (s1, bs)).1

/-- Writing a virtual run (R258). -/
def Command.writeVirt (c : Command) (s : State) (va : Nat) (bs : List Byte) : Eng State :=
  (c.places s .write va bs.length).andThen (fun l => .ok (s.towerPieces (towerOf c.core) {} l bs))

/-- The core on which a block is resident. -/
def State.coreOf (s : State) (lid index : Nat) : Option Nat :=
  (List.range s.cores.length).find? (fun c =>
    match s.block? c with
    | some b => b.cfg.lid == lid && b.cfg.index == index
    | none => false)

/-- The block a command belongs to, if it is resident. -/
def Command.home (c : Command) (s : State) : Option (Nat × Block) :=
  match s.coreOf c.lid c.block with
  | none => none
  | some k => (s.block? k).map (fun b => (k, b))

/-- The address of a side. -/
def Side.addr : Side → Nat
  | .scratch o => o
  | .virt va => va

/-- A side `k` bytes further on. -/
def Side.plus (x : Side) (k : Nat) : Side :=
  match x with
  | .scratch o => .scratch (o + k)
  | .virt va => .virt (va + k)

/-- The data scratchpad of a command's block as the command may read it (R130, R143, R145). -/
def Command.seeDs (c : Command) (s : State) (b : Block) (o n : Nat) : List Byte :=
  if c.loose then
    (blockPieces 8 (n / 8 + 2) o n).flatMap (fun p =>
      let ws := b.dsLog.filter (fun e => runsMeet p.1 p.2 e.1 e.2.length)
      undoWrites p.1 (cellsToList b.ds p.1 p.2) (ws.take (unseen s p.1 ws.length)))
  else cellsToList b.ds o n

/-- Reading a side. -/
def Command.readSide (c : Command) (s : State) (x : Side) (n : Nat) : Eng (List Byte) :=
  match x with
  | .virt va => c.readVirt s va n
  | .scratch o =>
    match c.home s with
    | none => .fail 3
    | some (_, b) => if (b.dsBad o n).isSome then .fail 5 else .ok (c.overGot x (c.seeDs s b o n))

/-- Writing a side. -/
def Command.writeSide (c : Command) (s : State) (x : Side) (bs : List Byte) : Eng State :=
  match x with
  | .virt va => c.writeVirt s va bs
  | .scratch o =>
    match c.home s with
    | none => .fail 3
    | some (k, _) => .ok (s.storeDs k o bs)

/-- The place of byte `i` of a side, if it may be written. -/
def Command.spotAt (c : Command) (s : State) (x : Side) (i : Nat) : Option Spot :=
  match x with
  | .scratch o => (c.home s).map (fun h => .ds h.1 (o + i))
  | .virt va =>
    match walk s (c.tlb s) c.asid (va + i) with
    | .fault _ => none
    | .ok loc leaf => if leaf.allows c.smode .write then some (.vm loc) else none

/-- Byte `i` of a side, if it can be read. -/
def Command.byteAt (c : Command) (s : State) (x : Side) (i : Nat) : Option Byte :=
  match c.readSide s (match x with | .scratch o => .scratch (o + i) | .virt va => .virt (va + i)) 1 with
  | .ok [v] => some v
  | _ => none

/-- A byte of a command's destination stored at its place. -/
def Command.putSpot (c : Command) (s : State) (p : Spot) (v : Byte) : State :=
  match p with
  | .vm loc => (s.peersFirst (towerOf c.core) loc 1).towerWrite (towerOf c.core) none {} loc [v]
  | _ => (c.home s).elim s (fun h => s.writeScratch h.1 p [v])

/-- The bytes of a failed transfer: each place keeps its old value or takes the new one, freely (R259; log entry 9). -/
def Command.putFree (c : Command) (s : State) (l : List (Spot × Byte)) : State :=
  l.foldl (fun (s : State) p =>
    let s1 := { s with freshCount := s.freshCount + 1 }
    if Config.freeChoice s.freshCount then c.putSpot s1 p.1 p.2 else s1) s

/-! ### Units performed ahead of the others (R130, R145) -/

/-- The runs of enabled bytes of a write (R361). -/
def enabledRuns : Nat → List (Option Byte) → List (Nat × List Byte)
  | _, [] => []
  | a, none :: r => enabledRuns (a + 1) r
  | a, some v :: r =>
    match enabledRuns (a + 1) r with
    | (x, bs) :: l => if x = a + 1 then (a, v :: bs) :: l else (a, [v]) :: (x, bs) :: l
    | [] => [(a, [v])]

/-- Unit `i` of a part of the destination has been performed already. -/
def Command.has (c : Command) (part i : Nat) : Bool := c.did.any (fun d => d.1 == part && decide (d.2.1 ≤ i) && decide (i < d.2.1 + d.2.2))

/-- What is left to write of the bytes of a part of the destination. -/
def Command.left (c : Command) (part : Nat) (bs : List Byte) : List (Nat × List Byte) :=
  if c.did.isEmpty then [(0, bs)] else enabledRuns 0 (bs.mapIdx (fun i v => if c.has part i then none else some v))

/-- What is left of a part of the destination is written. -/
def Command.writeRest (c : Command) (s : State) (x : Side) (part : Nat) (bs : List Byte) : Eng State :=
  (c.left part bs).foldl (fun e r => e.andThen (fun s => c.writeSide s (x.plus r.1) r.2)) (.ok s)

/-- What a transfer comes to: done with the rows saturated, a failure with the state it leaves, or a stall. -/
inductive Ran
  | done (s : State) (sat : BitVec 32)
  | fail (cause : Nat) (s : State)
  | stall (f : WalkFault) (va : Nat) (acc : AccKind)

/-- A transfer's result, `bad` being the state a failure leaves. -/
def Eng.ran (e : Eng State) (bad : State) : Ran :=
  match e with
  | .ok s => .done s 0
  | .fail c => .fail c bad
  | .stall f va acc => .stall f va acc

/-! ### `cpy` (R261) -/

/-- Word `i` of a command's register group. -/
def Command.reg (c : Command) (i : Nat) : Nat := (c.regs.getD i 0).toNat

/-- The sides of `cpy` and `cpyrd` (R256, R261). -/
def Command.sides (c : Command) : Side × Side :=
  let w := c.reg 2
  (if bitsOf w 42 42 = 1 then .scratch (c.reg 0) else .virt (c.reg 0), if bitsOf w 43 43 = 1 then .scratch (c.reg 1) else .virt (c.reg 1))

/-- Check 2 of R258 for a side. -/
def Command.outside (c : Command) (s : State) (x : Side) (n : Nat) : Bool :=
  match x with
  | .virt va => decide (2 ^ 56 < va + n) || decide (2 ^ 56 ≤ va)
  | .scratch o =>
    match c.home s with
    | none => true
    | some (_, b) => decide (1024 * b.cfg.dsp < o + n)

/-- What byte `i` of the destination receives where the ranges overlap (R261): the value its source byte held before the
command, or the value that byte received, freely for each element (log entry 9). -/
def chainByte (olds : List Byte) (src dst n e base : Nat) : Nat → Nat → Byte
  | 0, i => olds.getD i 0
  | fuel + 1, i =>
    if src + i < dst ∨ dst + n ≤ src + i ∨ Config.freeChoice (base + i / e) then olds.getD i 0
    else chainByte olds src dst n e base fuel (src + i - dst)

/-- The bytes that a copy delivers (R261). -/
def copyBytes (x y : Side) (olds : List Byte) (n e base : Nat) : List Byte :=
  let overlap := fun (d s : Nat) => d != s && decide (d < s + n) && decide (s < d + n)
  let chain := fun (d s : Nat) => (List.range n).map (chainByte olds s d n e base n)
  match x, y with
  | .virt d, .virt s => if overlap d s then chain d s else olds
  | .scratch d, .scratch s => if overlap d s then chain d s else olds
  | _, _ => olds

/-- What a failed copy leaves: each byte that can be read and written is copied, or not, freely (R259; log entry 9). -/
def Command.copyFree (c : Command) (s : State) (x y : Side) (n : Nat) : State :=
  c.putFree s (((List.range n).filter (fun i => !c.has 0 i)).filterMap (fun i =>
    match c.spotAt s x i, c.byteAt s y i with
    | some p, some v => some (p, v)
    | _, _ => none))

/-- A copy of `n` bytes in elements of `e` (R259, R261). -/
def Command.copyRun (c : Command) (s : State) (x y : Side) (n e : Nat) : Ran :=
  let s0 := { s with freshCount := s.freshCount + n }
  let pre : Eng Unit := match x with
    | .virt va => (c.places s .write va n).andThen (fun _ => .ok ())
    | .scratch _ => .ok ()
  (pre.andThen (fun _ => (c.readSide s y n).andThen (fun bs => c.writeRest s0 x 0 (copyBytes x y bs n e s.freshCount)))).ran
    (c.copyFree s0 x y n)

/-- Checks 1 to 3 of a `cpy` (R258, R261): the cause of the first that fails. -/
def Command.cpyBad (c : Command) (s : State) : Option Nat :=
  let w := c.reg 2
  let n := bitsOf w 39 0
  let e := 2 ^ bitsOf w 41 40
  let (x, y) := c.sides
  if bitsOf w 63 44 ≠ 0 then some 1
  else if n = 0 then none
  else if c.outside s x n || c.outside s y n then some 3
  else if n % e ≠ 0 ∨ x.addr % e ≠ 0 ∨ y.addr % e ≠ 0 then some 2
  else none

/-- The bytes of a `cpy` or `cpyrd`. -/
def Command.len (c : Command) : Nat := bitsOf (c.reg 2) 39 0

/-- `cpy` (R258, R261). -/
def Command.runCpy (c : Command) (s : State) : Ran :=
  match c.cpyBad s with
  | some x => .fail x s
  | none => if c.len = 0 then .done s 0 else c.copyRun s c.sides.1 c.sides.2 c.len (2 ^ bitsOf (c.reg 2) 41 40)

/-! ### `cpyrd` (R262) -/

/-- Bytes of an element of a reduce operator (R262). -/
def reduceSize : Nat → Nat
  | 1 => 2 | 3 => 8 | 6 => 2048 | _ => 4

/-- op(dst, src) of R262. -/
def reduceOp (op : Nat) (d x : List Byte) : List Byte :=
  let a := ofLeBytes d
  let b := ofLeBytes x
  match op with
  | 0 => leBytes 4 (fAdd fmtF32 .rne a b)
  | 1 => leBytes 2 (fAdd fmtBf16 .rne a b)
  | 2 => leBytes 4 (a + b)
  | 3 => leBytes 8 (a + b)
  | 4 => leBytes 4 (fMax fmtF32 a b)
  | 5 => leBytes 4 (fMin fmtF32 a b)
  | _ => planeAdd 0 d x

/-- The home supports the operation on an element (R118, R119, R258 check 5). -/
def reduceHome (op : Nat) : Loc → Bool
  | .pkg _ => true
  | .peer _ _ => op != 6
  | .host _ => op == 2 || op == 3

/-- One element: its place checked and its value computed on the destination as it stands (R258, R262). -/
def Command.reduceOne (c : Command) (s : State) (op : Nat) (x y : Side) : Eng State :=
  let n := reduceSize op
  (c.readSide s y n).andThen (fun v =>
    match x with
    | .scratch o =>
      match c.home s with
      | none => .fail 3
      | some (_, b) =>
        if op = 6 then .fail 4
        else if (b.dsBad o n).isSome then .fail 5
        else c.writeSide s x (reduceOp op (cellsToList b.ds o n) v)
    | .virt va =>
      (c.places s .both va n).andThen (fun l =>
        if l.any (fun p => !reduceHome op p.1) then .fail 4
        else if (s.firstFailing va l).isSome then .fail 5
        else .ok (s.towerUpdate (towerOf c.core) {} l (fun old => reduceOp op old v))))

/-- The elements in increasing order (log entry 24). -/
def Command.reduceAll (c : Command) (op : Nat) (x y : Side) : List Nat → State → Eng State
  | [], s => .ok s
  | i :: r, s => (c.reduceOne s op (x.plus (reduceSize op * i)) (y.plus (reduceSize op * i))).andThen (fun s1 => c.reduceAll op x y r s1)

/-- The elements of a reduction that are still to be performed. -/
def Command.elemsLeft (c : Command) (k : Nat) : List Nat := (List.range k).filter (fun i => !c.has 0 i)

/-- What a failure leaves: each element that can be reduced is, or is not, freely (R259; log entry 9). -/
def Command.reduceFree (c : Command) (op : Nat) (x y : Side) (is : List Nat) (s : State) : State :=
  is.foldl (fun (s : State) i =>
    let s1 := { s with freshCount := s.freshCount + 1 }
    match Config.freeChoice s.freshCount, c.reduceOne s1 op (x.plus (reduceSize op * i)) (y.plus (reduceSize op * i)) with
    | true, .ok s2 => s2
    | _, _ => s1) s

/-- A reduction of `n` bytes (R262). -/
def Command.reduceRun (c : Command) (s : State) (op : Nat) (x y : Side) (n : Nat) : Ran :=
  let is := c.elemsLeft (n / reduceSize op)
  (c.reduceAll op x y is s).ran (c.reduceFree op x y is s)

/-- The operator of a `cpyrd`. -/
def Command.rop (c : Command) : Nat := bitsOf (c.reg 2) 47 44

/-- Checks 1 to 3 of a `cpyrd` (R258, R262): the cause of the first that fails. -/
def Command.cpyrdBad (c : Command) (s : State) : Option Nat :=
  let w := c.reg 2
  let e := reduceSize c.rop
  let (x, y) := c.sides
  if bitsOf w 63 48 ≠ 0 ∨ bitsOf w 41 40 ≠ 0 ∨ 7 ≤ c.rop then some 1
  else if c.len = 0 then none
  else if c.outside s x c.len || c.outside s y c.len then some 3
  else if c.len % e ≠ 0 ∨ x.addr % e ≠ 0 ∨ y.addr % e ≠ 0 then some 2
  else none

/-- `cpyrd` (R258, R261, R262). -/
def Command.runCpyrd (c : Command) (s : State) : Ran :=
  match c.cpyrdBad s with
  | some x => .fail x s
  | none => if c.len = 0 then .done s 0 else c.reduceRun s c.rop c.sides.1 c.sides.2 c.len

/-! ### `cpycv` (R263) -/

/-- The control word of a `cpycv`, and its destination (R217, R263). -/
structure CvArgs where
  stride : Nat
  plane : Bool
  trans : Bool
  fmt : FFmt
  cls : Cls
  k : Nat
  dst : Nat
  src : Nat
  deriving DecidableEq, Repr

/-- The class of a two-bit code (R91). -/
def clsOf2 : Nat → Cls
  | 0 => .i8 | 1 => .i16 | 2 => .n8 | _ => .i4

/-- The arguments of a command. -/
def Command.cvArgs (c : Command) : CvArgs :=
  let w := c.reg 2
  ⟨bitsOf w 63 32, decide (bitsOf w 18 18 = 1), decide (bitsOf w 17 17 = 1), if bitsOf w 16 16 = 1 then .bf16 else .f32,
    clsOf2 (bitsOf w 15 14), bitsOf w 12 0, c.reg 0, c.reg 1⟩

/-- Bytes of a source element. -/
def CvArgs.e (a : CvArgs) : Nat := (floatWidth a.fmt).bytes
/-- The residue element address of a scratchpad tile (R217). -/
def CvArgs.res (a : CvArgs) : Nat := bitsOf a.dst 23 0
/-- The offset of its scale vector (R217). -/
def CvArgs.scale (a : CvArgs) : Nat := bitsOf a.dst 50 32
/-- The pieces of the source: addresses and length (R263). -/
def CvArgs.pieces (a : CvArgs) : List Nat × Nat :=
  if a.trans then ((List.range a.k).map (fun i => a.src + i * a.stride), 32 * a.e)
  else ((List.range 32).map (fun i => a.src + i * a.stride), a.k * a.e)

/-- Check 1 (R258, R263). -/
def Command.cvReserved (c : Command) (a : CvArgs) : Bool :=
  let w := c.reg 2
  bitsOf w 31 19 != 0 || bitsOf w 13 13 != 0 || a.k % 8 != 0 || a.k == 0 || decide (4096 < a.k) || (!a.plane && tileReserved a.dst)

/-- Check 2 (R217, R258). -/
def Command.cvOutside (c : Command) (s : State) (a : CvArgs) : Bool :=
  decide (2 ^ 56 ≤ a.src) || a.pieces.1.any (fun p => decide (2 ^ 56 < p + a.pieces.2)) ||
  (if a.plane then decide (2 ^ 56 < a.dst + 256 * a.k + 32)
   else match c.home s with
    | none => true
    | some (_, b) => decide (1024 * b.cfg.dsp < a.scale + 32) || decide (256 * b.cfg.rsp < a.res + 32 * a.k))

/-- Check 3 (R217, R258, R263). -/
def CvArgs.misaligned (a : CvArgs) : Bool :=
  a.stride % a.e != 0 || a.src % a.e != 0 || (if a.plane then a.dst % 2048 != 0 else a.scale % 32 != 0 || a.res % 256 != 0)

/-- The values of a piece. -/
def CvArgs.vals (a : CvArgs) (bs : List Byte) : List FVal :=
  (chunksOf a.e (bs.length / a.e) bs).map (fun x => (floatFmt a.fmt).val x)

/-- The stored rows, from the pieces read: `none` where a row needs a piece that cannot be read (R259, R263). -/
def CvArgs.rows (a : CvArgs) (ps : List (Option (List Byte))) : List (Option (List FVal)) :=
  let vs := ps.map (fun p => p.map a.vals)
  if a.trans then
    (List.range 32).map (fun i => vs.mapM (fun p => p.map (fun l => l.getD i .nan)))
  else vs

/-- A row quantised (R85, R92). -/
def CvArgs.quant (a : CvArgs) (r : List FVal) : Quantised := quantise (clsBits a.cls) (clsSigned a.cls) .rne r

/-- The bytes of row `i`: offsets in the plane blocks, and the mantissas' residues (R93, R94). -/
def rowBytes (i : Nat) (mant : List Int) : List (Nat × Byte) :=
  (mant.mapIdx (fun k m => (List.range 8).map (fun ch => (2048 * (k / 8) + 256 * ch + 8 * i + k % 8, residue ch m)))).flatten

/-- The places of the plane bytes, and of the scale byte, of a row of the destination that are still to be written. -/
def Command.cvSpots (c : Command) (s : State) (a : CvArgs) (i : Nat) (q : Quantised) : List (Spot × Byte) :=
  let e := BitVec.ofNat 8 (lowBits 8 q.exp)
  let tile := (rowBytes i q.mant).filter (fun p => !c.has 0 p.1)
  if a.plane then
    ((if c.has 0 (256 * a.k + i) then [] else [(256 * a.k + i, e)]) ++ tile).filterMap (fun p =>
      (c.spotAt s (.virt a.dst) p.1).map (fun x => (x, p.2)))
  else match c.home s with
    | none => []
    | some (k, _) => (if c.has 1 i then [] else [(.ds k (a.scale + i), e)]) ++ tile.map (fun p => (Spot.rs (8 * a.res + p.1), p.2))

/-- The quantised tile's bytes in the plane layout. -/
def tileOfRows (qs : List Quantised) (k : Nat) : List Byte := tilePlanes (qs.map (·.mant)) k

/-- The rows that saturated (R263). -/
def satRows (qs : List Quantised) : BitVec 32 := BitVec.ofNat 32 ((qs.mapIdx (fun i q => if q.sat then 2 ^ i else 0)).sum)

/-- The bytes of the two parts of a `cpycv`'s destination: in virtual memory the tile with its exponents after it, and nothing; in the
scratchpads the tile, and the exponents (R263). -/
def CvArgs.parts (a : CvArgs) (qs : List Quantised) : List Byte × List Byte :=
  let exps := qs.map (fun q => BitVec.ofNat 8 (lowBits 8 q.exp))
  let tile := tileOfRows qs a.k
  if a.plane then (tile ++ exps, []) else (tile, exps)

/-- What is left of the destination of a `cpycv` is written (R263). -/
def Command.cvWrite (c : Command) (s : State) (a : CvArgs) (qs : List Quantised) : Eng State :=
  let (tile, exps) := a.parts qs
  if a.plane then c.writeRest s (.virt a.dst) 0 tile
  else match c.home s with
    | none => .fail 3
    | some (k, _) =>
      (c.writeRest s (.scratch a.scale) 1 exps).andThen (fun s =>
        .ok ((c.left 0 tile).foldl (fun s r => s.writeScratch k (.rs (8 * a.res + r.1)) r.2) s))

/-- The pieces of the source read in order. -/
def Command.readPieces (c : Command) (s : State) (n : Nat) : List Nat → Eng (List (List Byte))
  | [] => .ok []
  | p :: r => (c.readVirt s p n).andThen (fun b => (c.readPieces s n r).andThen (fun bs => .ok (b :: bs)))

/-- What a failed `cpycv` leaves: the rows that can be read, byte by byte freely (R259; log entry 9). -/
def Command.cvFree (c : Command) (s : State) (a : CvArgs) : State :=
  let ps := a.pieces.1.map (fun p => match c.readVirt s p a.pieces.2 with | .ok b => some b | _ => none)
  let spots := ((a.rows ps).mapIdx (fun i r => match r with | some v => c.cvSpots s a i (a.quant v) | none => [])).flatten
  c.putFree s spots

/-- Checks 1 to 3 of a `cpycv` (R258, R263): the cause of the first that fails. -/
def Command.cvBad (c : Command) (s : State) : Option Nat :=
  let a := c.cvArgs
  if c.cvReserved a then some 1
  else if c.cvOutside s a then some 3
  else if a.misaligned then some 2
  else none

/-- The pieces of the source of a `cpycv`, its destination having been checked (R258, R263). -/
def Command.cvRead (c : Command) (s : State) (a : CvArgs) : Eng (List (List Byte)) :=
  let pre : Eng Unit := if a.plane then (c.places s .write a.dst (256 * a.k + 32)).andThen (fun _ => .ok ()) else .ok ()
  pre.andThen (fun _ => c.readPieces s a.pieces.2 a.pieces.1)

/-- The rows of a `cpycv`, quantised (R85, R263). -/
def CvArgs.quants (a : CvArgs) (ps : List (List Byte)) : List Quantised := (a.rows (ps.map some)).map (fun r => a.quant (r.getD []))

/-- `cpycv` (R258, R263). -/
def Command.runCpycv (c : Command) (s : State) : Ran :=
  let a := c.cvArgs
  match c.cvBad s with
  | some x => .fail x s
  | none =>
    match c.cvRead s a with
    | .stall f va acc => .stall f va acc
    | .fail x => .fail x (c.cvFree s a)
    | .ok ps =>
      match c.cvWrite s a (a.quants ps) with
      | .ok s1 => .done s1 (satRows (a.quants ps))
      | .fail x => .fail x (c.cvFree s a)
      | .stall f va acc => .stall f va acc

/-- The first of checks 1 to 3 that a command fails (R258), of a collective's operands alone (R266): one that fails makes no access. -/
def Command.startBad (c : Command) (s : State) : Option Nat :=
  match c.kind with
  | .cpy => c.cpyBad s
  | .cpyrd => c.cpyrdBad s
  | .cpycv => c.cvBad s
  | .coll =>
    if 2 ^ 16 ≤ c.reg 1 ∨ c.reg 2 ≠ 0 then some 1
    else if 2 ^ 56 ≤ c.reg 0 then some 3
    else if c.reg 0 % 64 ≠ 0 then some 2
    else none

/-- What a command that comes to an end in the middle of its transfer leaves (R259, R350). -/
def Command.leaveFree (c : Command) (s : State) : State :=
  if (c.startBad s).isSome then s
  else
    let (x, y) := c.sides
    match c.kind with
    | .cpy => c.copyFree s x y c.len
    | .cpyrd => c.reduceFree c.rop x y (c.elemsLeft (c.len / reduceSize c.rop)) s
    | .cpycv => c.cvFree s c.cvArgs
    | .coll => s

/-! ### Queues (R253, R259, R260) -/

/-- A command replaced. -/
def State.setCommand (s : State) (c : Command) : State :=
  { s with commands := s.commands.map (fun x => if x.id = c.id then c else x) }

/-- A command by number. -/
def State.command? (s : State) (id : Nat) : Option Command := s.commands.find? (·.id == id)

/-- A queue of a block changed, wherever the block is: the status in a save area follows (R265, R316). -/
def State.modQueue (s : State) (lid index : Nat) (q : Fin 8) (f : CmdQueue → CmdQueue) : State :=
  match s.coreOf lid index with
  | some k => s.modBlock k (fun b => b.setQueue q (f (b.queue q)))
  | none =>
    match s.saved.find? (fun x => x.block.cfg.lid = lid && x.block.cfg.index = index) with
    | none => s
    | some x =>
      let b := x.block.setQueue q (f (x.block.queue q))
      { s with
        saved := s.saved.map (fun y => if y.block.cfg.lid = lid ∧ y.block.cfg.index = index then { y with block := b } else y)
        mem := memSetNat s.mem (x.area + 0x40 + 8 * q.val) 8 (b.queue q).status }

/-- The queue's response to a failure (R259): it is recorded once, running commands run on, and those not started are skipped. -/
def State.failQueue (s : State) (c : Command) (cause : Nat) : State :=
  if c.quiet then s
  else
    let s1 := s.modQueue c.lid c.block c.queue (fun q =>
      if q.failed then q else { q with failed := true, cause := cause, failOrd := c.ord })
    { s1 with commands := s1.commands.map (fun x =>
        if x.lid = c.lid ∧ x.block = c.block ∧ x.queue = c.queue ∧ x.id ≠ c.id then
          if x.started then { x with quiet := true } else { x with skipped := true }
        else x) }

/-- A command has failed: it waits for its completion update (R257, R259). -/
def State.failCommand (s : State) (c : Command) (cause : Nat) : State :=
  (s.setCommand { c with failure := some cause, finished := true, stalled := false }).failQueue c cause

/-- A command stalls at translation (R108, R258, R348); a table entry that could not be read is an event (R364). -/
def State.stallCommand (s : State) (c : Command) (f : WalkFault) (va : Nat) (acc : AccKind) : State :=
  ((s.logWalk f).setCommand { c with stalled := true }).modTower (towerOf c.core) (fun t =>
    t.joinFault (.command c.id) f va c.asid acc.code 1 c.engine)

/-- The engine a command takes: the lowest of the tower's eight that no running command has (log entry 25). -/
def State.freeEngine (s : State) (core : Nat) : Nat :=
  ((List.range 8).find? (fun e =>
    !s.commands.any (fun c => towerOf c.core = towerOf core && c.started && !c.finished && c.engine == e))).getD 0

/-- The runs of virtual memory that a transfer reads, in the order it reads them (R261 to R263). -/
def Command.readRuns (c : Command) : List (Nat × Nat) :=
  let n := bitsOf (c.reg 2) 39 0
  let run := fun (x : Side) (m : Nat) => match x with
    | .virt va => [(va, m)]
    | .scratch _ => []
  match c.kind with
  | .cpy => run c.sides.2 n
  | .cpyrd => elementRuns run c.sides.1 c.sides.2 (reduceSize (bitsOf (c.reg 2) 47 44)) n
  | .cpycv => c.cvArgs.pieces.1.map (fun p => (p, c.cvArgs.pieces.2))
  | .coll => []
where
  /-- Source and destination of each element of a reduction in turn (R262). -/
  elementRuns (run : Side → Nat → List (Nat × Nat)) (x y : Side) (e n : Nat) : List (Nat × Nat) :=
    (List.range (n / e)).flatMap (fun i => run (y.plus (e * i)) e ++ run (x.plus (e * i)) e)

/-- The first failing byte of some runs that can be read (R126). -/
def Command.firstBad (c : Command) (s : State) (runs : List (Nat × Nat)) : Option Nat :=
  runs.findSome? (fun r =>
    match s.mapRun (c.tlb s) c.asid c.smode .read (piecesOf r.1 r.2) with
    | .ok l => (s.firstFailing r.1 l).map (·.2)
    | .error (.uncorrectable _ pa) => some pa
    | .error _ => none)

/-- The read of a failing granule that failed a command is logged (R364): the first failing byte of the runs it reads. -/
def State.logBad (s : State) (c : Command) (runs : List (Nat × Nat)) (cause : Nat) : State :=
  if cause ≠ 5 then s
  else match c.firstBad s runs with
    | some pa => s.log (pa / Config.towerBytes) { kind := 1, addr := pa }
    | none => s

/-- A transfer's outcome for a command that has started. -/
def State.settleRun (s : State) (c : Command) (r : Ran) : State :=
  match r with
  | .done s1 sat => s1.setCommand { c with finished := true, satMask := sat }
  | .fail cause s1 => (s1.logBad c c.readRuns cause).failCommand c cause
  | .stall f va acc => s.stallCommand c f va acc

/-- Every earlier command of the queue has started or finished (R253). -/
def State.mayStart (s : State) (c : Command) : Bool :=
  !c.gated && !c.finished && !c.stalled && !c.stopped &&
  (s.queueOf c.lid c.block c.queue).all (fun x => decide (c.id ≤ x.id) || x.started || x.finished)

/-! ### Completion (R257, R259) -/

/-- The new value of a completion object (R257). A failed command sets no saturation bit (log entry 78). -/
def Command.objectValue (c : Command) (old : Nat) : Nat :=
  let s := decide (c.kind = .cpycv) && c.failure.isNone && c.satMask != 0
  ((old + 1) % 2 ^ 64) ||| (if c.failure.isSome then 2 ^ 63 else 0) ||| (if s then 2 ^ 62 else 0)

/-- A virtual address lies in peer or host memory. -/
def Command.isFar (c : Command) (s : State) (a : Nat) : Bool :=
  match walk s (c.tlb s) c.asid a with
  | .ok loc _ => (Spot.vm loc).far
  | .fault _ => false

/-- The first addresses of a command's operands in virtual memory: both sides, or its program, windows and signal areas (R261, R266). -/
def Command.operands (c : Command) : List Nat :=
  let side := fun (x : Side) => match x with
    | .virt va => [va]
    | .scratch _ => []
  match c.kind with
  | .cpy | .cpyrd => side c.sides.1 ++ side c.sides.2
  | .cpycv => c.cvArgs.pieces.1 ++ (if c.cvArgs.plane then [c.cvArgs.dst] else [])
  | .coll => c.reg 0 :: c.coll.elim [] (fun k => k.peers.flatMap (fun p => [p.1.toNat, p.2.toNat]))

/-- The scope of the completion increment (R145). -/
def Command.endScope (c : Command) (s : State) (loc : Loc) : Scope :=
  if (Spot.vm loc).far || c.operands.any (c.isFar s) then .dom else .dev

/-- The completion object at a location is updated: a release write of the command's tower (R137 case 3, R145, R257). -/
def Command.increment (c : Command) (s : State) (loc : Loc) : State :=
  let t := towerOf c.core
  let sc := c.endScope s loc
  let s1 := (if sc == .dom then s.flushPosted t (fun _ => false) else s).peersFirst t loc 8
  s1.towerWrite t none { rel := true, scope := sc } loc (leBytes 8 (c.objectValue (ofLeBytes (s1.readLoc loc 8))))

/-- The object's update: done, a failure of cause 0x09, or a stall (R257, R258). -/
def Command.update (c : Command) (s : State) : Eng State :=
  let a := c.reg 3
  if a = 0 then .ok s
  else if 2 ^ 56 ≤ a ∨ a % 8 ≠ 0 then .fail 9
  else match walk s (c.tlb s) c.asid a with
    | .fault f => .stall f a .both
    | .ok loc leaf =>
      if leaf.allows c.smode .both && !s.locFails loc 8 then
        .ok (c.increment s loc)
      else .fail 9

/-- The command leaves its queue: the queue's saturation mask follows (R260). -/
def State.retireCommand (s : State) (c : Command) : State :=
  let s1 := { s with commands := s.commands.filter (fun x => x.id != c.id) }
  if c.kind = .cpycv ∧ c.failure.isNone then s1.modQueue c.lid c.block c.queue (fun q => { q with satMask := c.satMask }) else s1

end Sys2Proof.Machine
end

