-- ==== Sys2Proof/Machine/Commands.lean ====
section
/-! DEFINITION. Starting and completing engine commands (R253, R257, R259), and collective programs (R266 to R270). -/
namespace Sys2Proof.Machine

/-! ### The signal counters (R266, R269) -/

/-- The window base and the signal area of a rank (R266). -/
def Coll.peer (k : Coll) (r : Nat) : Nat × Nat :=
  let p := k.peers.getD r (0, 0)
  (p.1.toNat, p.2.toNat)

/-- The ready counter of a tag in a signal area (R266). -/
def readyAt (area t : Nat) : Nat := area + 16 * t
/-- The done counter of a tag in a signal area (R266). -/
def doneAt (area t : Nat) : Nat := area + 16 * t + 8

/-- Reading a counter (R269). -/
def Command.readCounter (c : Command) (s : State) (a : Nat) : Eng Nat :=
  if 2 ^ 56 ≤ a then .fail 3 else if a % 8 ≠ 0 then .fail 2 else (c.readVirt s a 8).andThen (fun bs => .ok (ofLeBytes bs))

/-- What the read of a counter does once it has met its value: an acquire at domain scope (R145). -/
def Command.acquired (c : Command) (s : State) (a : Nat) : State :=
  let t := towerOf c.core
  match walk s (c.tlb s) c.asid a with
  | .ok loc _ => (s.homeRead t loc 8).1.towerAcquire t .dom (s.pubAt loc)
  | .fault _ => s

/-- Changing a counter in one indivisible update (R269), a release at domain scope (R145). -/
def Command.modCounter (c : Command) (s : State) (a : Nat) (f : Nat → Nat) : Eng State :=
  let t := towerOf c.core
  if 2 ^ 56 ≤ a then .fail 3
  else if a % 8 ≠ 0 then .fail 2
  else (c.places s .both a 8).andThen (fun l =>
    if (s.firstFailing a l).isSome then .fail 5
    else .ok ((s.flushPosted t (fun _ => false)).towerUpdate t { rel := true, scope := .dom } l (fun old => leBytes 8 (f (ofLeBytes old) % 2 ^ 64))))

/-- Marking the counters of a rank, one by one (R270): one that cannot be written is passed over; a walk that faults stops the
marking, unless `skip`. -/
def Command.markOwn (c : Command) (k : Coll) (skip : Bool) : List Nat → State → State × Option (WalkFault × Nat × AccKind)
  | [], s => (s, none)
  | i :: r, s =>
    match c.modCounter s ((k.peer k.rank).2 + 8 * i) (· ||| 2 ^ 63) with
    | .ok s1 => c.markOwn k skip r s1
    | .fail _ => c.markOwn k skip r s
    | .stall f va acc => if skip then c.markOwn k skip r s else (s, some (f, va, acc))

/-- A rank whose program aborts marks its 32 counters (R270): the state, and the walk on which it stalls, if it does. -/
def Command.abort (c : Command) (skip : Bool) (s : State) : State × Option (WalkFault × Nat × AccKind) :=
  match c.coll with
  | none => (s, none)
  | some k => if k.peers.isEmpty then (s, none) else c.markOwn k skip (List.range 32) s

/-- A collective program fails (R259, R270): its counters are marked, at translation after a stall, and then it is recorded. -/
def State.failColl (s : State) (c : Command) (cause : Nat) (skip : Bool := false) : State :=
  match c.abort skip s with
  | (s1, none) => s1.failCommand c cause
  | (s1, some (f, va, acc)) => s1.stallCommand { c with failure := some cause } f va acc

/-! ### Steps (R267, R268) -/

/-- The operation of a step word. -/
def stepSop (w : Word) : Nat := bitsOf w.toNat 63 60
/-- The tag of a step word. -/
def stepTag (w : Word) : Nat := bitsOf w.toNat 59 56
/-- The source buffer entry of a step word. -/
def stepSb (w : Word) : Nat := bitsOf w.toNat 43 40
/-- The destination buffer entry of a step word. -/
def stepDb (w : Word) : Nat := bitsOf w.toNat 39 36

/-- The step at a position. -/
def Coll.step (k : Coll) : Word := k.steps.getD k.pos 0

/-- The counter of the innermost open loop, 0 outside any (R268). -/
def Coll.c (k : Coll) : Nat := (k.loops.head?.map (fun l => l.2.1)).getD 0

/-- The peer of a step (R268). -/
def Coll.q (k : Coll) (w : Word) : Nat :=
  let po := bitsOf w.toNat 53 44
  match bitsOf w.toNat 55 54 with
  | 0 => (k.rank + po) % k.n
  | 1 => lowMod ((k.rank : Int) - po) k.n
  | _ => if po = 0 then k.rank else if 11 ≤ k.c then 2048 else k.rank ^^^ (po * 2 ^ k.c)
where
  /-- The non-negative remainder. -/
  lowMod (i : Int) (n : Nat) : Nat := (i % (n : Int)).toNat

/-- A coefficient (R267). -/
def coef : Nat → Int
  | 1 => 1 | 2 => -1 | _ => 0

/-- The piece of a step (R268). -/
def Coll.p (k : Coll) (w : Word) : Nat :=
  let w := w.toNat
  ((coef (bitsOf w 35 34) * k.rank + coef (bitsOf w 33 32) * k.c + sintN 12 (bitsOf w 31 20)) % (k.n : Int)).toNat

/-- The piece size of a buffer entry (R266). -/
def Coll.size (k : Coll) (b : Nat) : Nat := (k.bufs.getD b (0, 0)).2

/-- The address of a piece in the window of a rank (R268). -/
def Coll.at (k : Coll) (r b p : Nat) : Nat := (k.peer r).1 + (k.bufs.getD b (0, 0)).1 + p * k.size b

/-- Fields that a step does not use are not zero, or a code it uses is not assigned (R267). -/
def stepBad (w : Word) : Bool :=
  let v := w.toNat
  match bitsOf v 63 60 with
  | 1 => bitsOf v 55 0 != 0
  | 2 | 3 | 4 => bitsOf v 55 54 == 3 || bitsOf v 35 34 == 3 || bitsOf v 33 32 == 3 || bitsOf v 19 0 != 0
  | 5 => bitsOf v 59 44 != 0 || bitsOf v 35 34 == 3 || bitsOf v 33 32 == 3 || bitsOf v 19 0 != 0
  | 6 => bitsOf v 55 0 != 0
  | 7 => bitsOf v 59 32 != 0
  | 8 | 9 => bitsOf v 59 0 != 0
  | _ => true

/-- The step a program has come to fails with cause 0x07 (R267 to R269). -/
def Coll.invalid (k : Coll) : Bool :=
  let w := k.step
  decide (4096 ≤ k.pos) || stepBad w
  || ((stepSop w == 2 || stepSop w == 3 || stepSop w == 4) && decide (k.n ≤ k.q w))
  || (stepSop w == 7 && decide (2 ≤ k.loops.length))
  || (stepSop w == 8 && k.loops.isEmpty)

/-! ### Reading a program (R266) -/

/-- Words of a byte run. -/
def cmdWords (bs : List Byte) : List Word :=
  (chunksOf 8 (bs.length / 8) bs).map (BitVec.ofNat 64)

/-- The steps, one word at a time, as far as the first `end` outside a loop or step 4 096 (log entry 26). -/
def Command.readSteps (c : Command) (s : State) : Nat → Nat → Nat → Eng (List Word)
  | 0, _, _ => .ok []
  | fuel + 1, a, depth =>
    if 2 ^ 56 < a + 8 then .fail 3
    else (c.readVirt s a 8).andThen (fun bs =>
      let w := BitVec.ofNat 64 (ofLeBytes bs)
      if stepSop w = 9 ∧ depth = 0 then .ok [w]
      else (c.readSteps s fuel (a + 8) (if stepSop w = 7 then depth + 1 else if stepSop w = 8 then depth - 1 else depth)).andThen
        (fun r => .ok (w :: r)))

/-- Entries of two words. -/
def cmdPairs : List Word → List (Word × Word)
  | a :: b :: r => (a, b) :: cmdPairs r
  | _ => []

/-- The header's checks (R266): a reserved field, the operator, the ranks; then the alignment of the tables. -/
def programBad (h : List Word) (rank : Nat) : Option Nat :=
  let w := fun i => (h.getD i 0).toNat
  let n := bitsOf (w 0) 10 0
  if bitsOf (w 0) 63 20 ≠ 0 ∨ bitsOf (w 0) 15 11 ≠ 0 ∨ 7 ≤ bitsOf (w 0) 19 16 ∨ n = 0 ∨ 1024 < n ∨ n ≤ rank
      ∨ [1, 2, 3].any (fun i => bitsOf (w i) 63 56 != 0) ∨ [4, 5, 6, 7].any (fun i => w i != 0) then some 7
  else if w 1 % 16 ≠ 0 ∨ w 2 % 16 ≠ 0 ∨ w 3 % 8 ≠ 0 then some 2
  else none

/-- A run whose addresses are checked first (R258 check 2). -/
def Command.readTable (c : Command) (s : State) (a n : Nat) : Eng (List Word) :=
  if 2 ^ 56 < a + n then .fail 3 else (c.readVirt s a n).andThen (fun bs => .ok (cmdWords bs))

/-- A program's header and tables, read when the command starts (R266). -/
def Command.readProgram (c : Command) (s : State) : Eng Coll :=
  let rank := c.reg 1
  match c.startBad s with
  | some x => .fail x
  | none => (c.readTable s (c.reg 0) 64).andThen (fun h =>
    match programBad h rank with
    | some x => .fail x
    | none =>
      let w := fun i => (h.getD i 0).toNat
      let n := bitsOf (w 0) 10 0
      (c.readTable s (w 1) (16 * n)).andThen (fun ps =>
        (c.readTable s (w 2) 256).andThen (fun bs =>
          (c.readSteps s 4096 (w 3) 0).andThen (fun st =>
            if (cmdPairs ps).any (fun p => p.2.toNat % 256 != 0) then .fail 2
            else .ok { op := bitsOf (w 0) 19 16, n := n, rank := rank, peers := cmdPairs ps,
                       bufs := (cmdPairs bs).map (fun p => (bitsOf p.1.toNat 55 0, bitsOf p.2.toNat 39 0)), steps := st }))))

/-- What is known of a program that cannot be read whole: its rank, if its header and its peer table have been read (R266, R270). -/
def Command.partColl (c : Command) (s : State) : Option Coll :=
  if (c.startBad s).isSome then none
  else match c.readTable s (c.reg 0) 64 with
    | .ok h =>
      if (programBad h (c.reg 1)).isSome then none
      else
        let w := fun i => (h.getD i 0).toNat
        match c.readTable s (w 1) (16 * bitsOf (w 0) 10 0) with
        | .ok ps => some { n := bitsOf (w 0) 10 0, rank := c.reg 1, peers := cmdPairs ps }
        | _ => none
    | _ => none

/-- The runs of memory that reading a program reads, in order (R266). -/
def Command.programRuns (c : Command) (s : State) : List (Nat × Nat) :=
  (c.reg 0, 64) ::
  match c.readTable s (c.reg 0) 64 with
  | .ok h =>
    let w := fun i => (h.getD i 0).toNat
    [(w 1, 16 * bitsOf (w 0) 10 0), (w 2, 256)] ++ (List.range 4096).map (fun i => (w 3 + 8 * i, 8))
  | _ => []

/-! ### Starting (R253, R258) -/

/-- A collective starts: its program is read, and its first step checked. -/
def State.startColl (s : State) (c : Command) : State :=
  match c.readProgram s with
  | .fail x => (s.logBad c (c.programRuns s) x).failColl { c with coll := c.partColl s } x
  | .stall f va acc => s.stallCommand c f va acc
  | .ok k =>
    let c1 := { c with coll := some k, got := [] }
    if k.invalid then s.failColl c1 7 else s.setCommand c1

/-- A command that has started does its transfer, or reads its program. -/
def State.runCommand (s : State) (c : Command) : State :=
  match c.kind with
  | .cpy => s.settleRun c (c.runCpy s)
  | .cpyrd => s.settleRun c (c.runCpyrd s)
  | .cpycv => s.settleRun c (c.runCpycv s)
  | .coll => s.startColl c

/-- The free choices that a command's reads may take are set aside (R145; log entry 77). -/
def Command.reserve (c : Command) (s : State) : State := if c.loose then { s with freshCount := s.freshCount + 2 ^ 57 } else s

/-- `COMMAND_START`, if it can happen (R253, R258, R259): the command starts, or, after a stall, goes on; a skipped one makes no access. One whose
program has failed goes on marking its counters (R270). -/
def tryCommandStart (cmd : Nat) (s : State) : Option State :=
  match s.command? cmd with
  | none => none
  | some c =>
    if !s.mayStart c then none
    else match c.failure, c.coll with
      | some x, some _ => some (s.failColl c x)
      | _, some _ => none
      | _, none =>
        if c.skipped && !c.started then some (s.setCommand { c with started := true, finished := true, failure := some 6 })
        else
          let c1 := if c.started then c else { c with started := true, engine := s.freeEngine c.core }
          some ((c1.reserve (s.setCommand c1)).runCommand c1)

/-- `COMMAND_START` (R253, R258, R259). -/
def execCommandStart (cmd : Nat) (s : State) : Out := happens s (tryCommandStart cmd s)

/-- The destination, the source and the length of the transfer of the step a program stands at (R268, R269). -/
def Coll.sides (k : Coll) : Side × Side × Nat :=
  let w := k.step
  (.virt (k.at k.rank (stepDb w) (k.p w)), .virt (k.at (if stepSop w = 5 then k.rank else k.q w) (stepSb w) (k.p w)), k.size (stepDb w))

/-- What a program that fails at translation leaves of the step it stands at (R259, R350). -/
def Command.stepFree (c : Command) (s : State) : State :=
  match c.coll with
  | none => s
  | some k =>
    let (x, y, n) := k.sides
    match stepSop k.step with
    | 2 | 5 => c.copyFree s x y n
    | 3 | 4 => c.reduceFree k.op x y (c.elemsLeft (n / reduceSize k.op)) s
    | _ => s

/-! ### Completing (R257, R259, R265) -/

/-- No earlier command of the queue is left (R145, R253). -/
def State.firstOfQueue (s : State) (c : Command) : Bool :=
  (s.queueOf c.lid c.block c.queue).all (fun x => decide (c.id ≤ x.id))

/-- The read of a failing granule by the completion object's update is logged (R364). -/
def State.logObject (s : State) (c : Command) : State :=
  let a := c.reg 3
  if 2 ^ 56 ≤ a ∨ a % 8 ≠ 0 then s
  else match walk s (c.tlb s) c.asid a with
    | .fault _ => s
    | .ok loc leaf =>
      if leaf.allows c.smode .both then
        (s.firstFailing a [(loc, 8, leaf)]).elim s (fun p => s.log (p.2 / Config.towerBytes) { kind := 1, addr := p.2 })
      else s

/-- `COMMAND_COMPLETE`, if it can happen: the completion object's update, in order of acceptance; a command stopped by a kill has none. -/
def tryCommandComplete (cmd : Nat) (s : State) : Option State :=
  match s.command? cmd with
  | none => none
  | some c =>
    if c.stopped then
      let c := if c.kind = .coll ∧ c.coll.isNone then { c with coll := c.partColl s } else c
      if c.stalled then none
      else if c.finished then some (s.retireCommand c)
      else match c.abort false (if c.failure.isSome then s else c.stepFree (c.leaveFree s)) with
        | (s1, none) => some (s1.retireCommand c)
        | (s1, some (f, va, acc)) => some (s1.stallCommand { c with failure := some 4 } f va acc)
    else if !c.finished || c.stalled || !s.firstOfQueue c then none
    else
      match c.update s with
      | .ok s1 => some (s1.retireCommand c)
      | .fail x =>
        let c1 := { c with failure := some x }
        some ((((s.logObject c).setCommand c1).failQueue c1 x).retireCommand c1)
      | .stall f va acc => some (s.stallCommand c f va acc)

/-- `COMMAND_COMPLETE`. -/
def execCommandComplete (cmd : Nat) (s : State) : Out := happens s (tryCommandComplete cmd s)

/-! ### Collective steps (R269) -/

/-- What a step comes to. -/
inductive Stepped
  | wait
  | ok (s : State) (k : Coll)
  | fail (cause : Nat) (s : State)
  | stall (f : WalkFault) (va : Nat) (acc : AccKind)

/-- Going on after an access of a step; a failure leaves the state `s`. -/
def Eng.thenStep {α : Type} (e : Eng α) (s : State) (k : α → Stepped) : Stepped :=
  match e with
  | .ok a => k a
  | .fail c => .fail c s
  | .stall f va acc => .stall f va acc

/-- Going on after a transfer of a step. -/
def Ran.thenStep (r : Ran) (k : State → Stepped) : Stepped :=
  match r with
  | .done s _ => k s
  | .fail c s => .fail c s
  | .stall f va acc => .stall f va acc

/-- The runs of memory that a step reads, in order (R269). -/
def Coll.stepRuns (k : Coll) : List (Nat × Nat) :=
  let w := k.step
  let t := stepTag w
  let n := k.size (stepDb w)
  let own := fun (i : Nat) => ((k.peer k.rank).2 + 8 * i, 8)
  let x := Side.virt (k.at k.rank (stepDb w) (k.p w))
  let y := Side.virt (k.at (k.q w) (stepSb w) (k.p w))
  let run := fun (z : Side) (m : Nat) => [(z.addr, m)]
  let received := fun (l : List (Nat × Nat)) => [(readyAt (k.peer (k.q w)).2 t, 8)] ++ l ++ [(doneAt (k.peer (k.q w)).2 t, 8), own (2 * t)]
  match stepSop w with
  | 1 => [own (2 * t)]
  | 2 => received [(y.addr, n)]
  | 3 | 4 => received (Command.readRuns.elementRuns run x y (reduceSize k.op) n)
  | 5 => [(k.at k.rank (stepSb w) (k.p w), n)]
  | 6 => [own (2 * t + 1)]
  | _ => (List.range 32).map own

/-- The next step in order. -/
def Coll.next (k : Coll) : Coll := { k with pos := k.pos + 1 }

/-- A step event: the program must stand at a step of the operation; afterwards the next step is checked. -/
def collStep (sop : Nat) (body : Command → Coll → Word → State → Stepped) (cmd : Nat) (s : State) : Option State :=
  match s.command? cmd with
  | none => none
  | some c =>
    match c.coll with
    | none => none
    | some k =>
      if c.finished || c.stalled || c.stopped || c.failure.isSome || stepSop k.step != sop then none
      else
        match body c k k.step s with
        | .wait => none
        | .ok s1 k1 =>
          let c1 := { c with coll := some k1, got := [], did := [] }
          some (if !(stepSop k.step == 9) && k1.invalid then s1.failColl c1 7
                 else s1.setCommand { c1 with finished := stepSop k.step == 9 })
        | .fail x s1 => some ((s1.logBad c k.stepRuns x).failColl c x)
        | .stall f va acc => some (s.stallCommand c f va acc)

/-- The signal of `send` (R269). -/
def Command.signal (c : Command) (k : Coll) (t : Nat) (s : State) : Stepped :=
  (c.modCounter s (readyAt (k.peer k.rank).2 t) (· + 1)).thenStep s (fun s1 =>
    .ok s1 ({ k with sent := modAt k.sent t (· + 1) } : Coll).next)

/-- A receiving step, with its transfer (R269). -/
def Command.receive (c : Command) (k : Coll) (w : Word) (s : State) (xfer : State → Side → Side → Nat → Ran) (send : Bool) : Stepped :=
  let q := k.q w
  let t := stepTag w
  let p := k.p w
  (c.readCounter s (readyAt (k.peer q).2 t)).thenStep s (fun ready =>
    if 2 ^ 63 ≤ ready then .fail 8 s
    else if ready ≤ k.got.getD t 0 then .wait
    else if k.size (stepSb w) ≠ k.size (stepDb w) then .fail 7 s
    else
      (xfer (c.acquired s (readyAt (k.peer q).2 t)) (.virt (k.at k.rank (stepDb w) p)) (.virt (k.at q (stepSb w) p)) (k.size (stepDb w))).thenStep (fun s1 =>
        let k1 : Coll := { k with got := modAt k.got t (· + 1) }
        (c.modCounter s1 (doneAt (k.peer q).2 t) (· + 1)).thenStep s1 (fun s2 =>
          if send then c.signal k1 t s2 else .ok s2 k1.next)))

/-- Bytes copied in a step (R140, R258, R269). -/
def Command.stepCopy (c : Command) (s : State) (x y : Side) (n : Nat) : Ran :=
  if n = 0 then .done s 0 else if c.outside s x n || c.outside s y n then .fail 3 s else c.copyRun s x y n 1

/-- Elements reduced in a step (R258, R262, R269). -/
def Command.stepReduce (c : Command) (k : Coll) (s : State) (x y : Side) (n : Nat) : Ran :=
  let e := reduceSize k.op
  if n = 0 then .done s 0
  else if c.outside s x n || c.outside s y n then .fail 3 s
  else if n % e ≠ 0 ∨ x.addr % e ≠ 0 ∨ y.addr % e ≠ 0 then .fail 2 s
  else c.reduceRun s k.op x y n

/-- `COLL_SEND`, if it can happen (R269). -/
def tryCollSend (cmd : Nat) (s : State) : Option State :=
  collStep 1 (fun c k w s => c.signal k (stepTag w) s) cmd s

/-- `COLL_SEND` (R269). -/
def execCollSend (cmd : Nat) (s : State) : Out := happens s (tryCollSend cmd s)

/-- `COLL_RECV`, if it can happen (R269). -/
def tryCollRecv (cmd : Nat) (s : State) : Option State :=
  collStep 2 (fun c k w s => c.receive k w s (fun s x y n => c.stepCopy s x y n) false) cmd s

/-- `COLL_RECV` (R269). -/
def execCollRecv (cmd : Nat) (s : State) : Out := happens s (tryCollRecv cmd s)

/-- `COLL_RR`, if it can happen (R262, R269). -/
def tryCollRr (cmd : Nat) (s : State) : Option State :=
  collStep 3 (fun c k w s => c.receive k w s (fun s x y n => c.stepReduce k s x y n) false) cmd s

/-- `COLL_RR` (R262, R269). -/
def execCollRr (cmd : Nat) (s : State) : Out := happens s (tryCollRr cmd s)

/-- `COLL_RRS`, if it can happen (R262, R269). -/
def tryCollRrs (cmd : Nat) (s : State) : Option State :=
  collStep 4 (fun c k w s => c.receive k w s (fun s x y n => c.stepReduce k s x y n) true) cmd s

/-- `COLL_RRS` (R262, R269). -/
def execCollRrs (cmd : Nat) (s : State) : Out := happens s (tryCollRrs cmd s)

/-- `COLL_COPY`, if it can happen (R269): `db`'s piece size (log entry 26). -/
def tryCollCopy (cmd : Nat) (s : State) : Option State :=
  collStep 5 (fun c k w s =>
    (c.stepCopy s (.virt (k.at k.rank (stepDb w) (k.p w))) (.virt (k.at k.rank (stepSb w) (k.p w))) (k.size (stepDb w))).thenStep
      (fun s1 => .ok s1 k.next)) cmd s

/-- `COLL_COPY` (R269). -/
def execCollCopy (cmd : Nat) (s : State) : Out := happens s (tryCollCopy cmd s)

/-- `COLL_WAIT`, if it can happen (R269). -/
def tryCollWait (cmd : Nat) (s : State) : Option State :=
  collStep 6 (fun c k w s =>
    (c.readCounter s (doneAt (k.peer k.rank).2 (stepTag w))).thenStep s (fun v =>
      if 2 ^ 63 ≤ v then .fail 8 s
      else if k.sent.getD (stepTag w) 0 ≤ v then .ok (c.acquired s (doneAt (k.peer k.rank).2 (stepTag w))) k.next else .wait)) cmd s

/-- `COLL_WAIT` (R269). -/
def execCollWait (cmd : Nat) (s : State) : Out := happens s (tryCollWait cmd s)

/-- The position after the `next` that matches a loop (R269); past step 4 096 if there is none. -/
def afterNext : List Word → Nat → Nat → Nat
  | [], _, _ => 4096
  | w :: r, pos, depth =>
    if stepSop w = 8 then (if depth = 0 then pos + 1 else afterNext r (pos + 1) (depth - 1))
    else afterNext r (pos + 1) (if stepSop w = 7 then depth + 1 else depth)

/-- `COLL_LOOP`, if it can happen (R269). -/
def tryCollLoop (cmd : Nat) (s : State) : Option State :=
  collStep 7 (fun _ k w s =>
    let n := bitsOf w.toNat 31 0
    if n = 0 then .ok s { k with pos := afterNext (k.steps.drop (k.pos + 1)) (k.pos + 1) 0 }
    else .ok s { k with pos := k.pos + 1, loops := (k.pos + 1, 0, n) :: k.loops }) cmd s

/-- `COLL_LOOP` (R269). -/
def execCollLoop (cmd : Nat) (s : State) : Out := happens s (tryCollLoop cmd s)

/-- `COLL_NEXT`, if it can happen (R269). -/
def tryCollNext (cmd : Nat) (s : State) : Option State :=
  collStep 8 (fun _ k _ s =>
    match k.loops with
    | [] => .fail 7 s
    | (start, c, n) :: r =>
      if c + 1 < n then .ok s { k with pos := start, loops := (start, c + 1, n) :: r }
      else .ok s { k with pos := k.pos + 1, loops := r }) cmd s

/-- `COLL_NEXT` (R269). -/
def execCollNext (cmd : Nat) (s : State) : Out := happens s (tryCollNext cmd s)

/-- Every send of a program has been consumed (R269). -/
def Command.allDone (c : Command) (k : Coll) (s : State) : List Nat → Eng Bool
  | [] => .ok true
  | t :: r => (c.readCounter s (doneAt (k.peer k.rank).2 t)).andThen (fun v =>
      if k.sent.getD t 0 ≤ v then c.allDone k s r else .ok false)

/-- The 32 counters set to zero (R269). -/
def Command.clearOwn (c : Command) (k : Coll) : List Nat → State → Eng State
  | [], s => .ok s
  | i :: r, s => (c.modCounter s ((k.peer k.rank).2 + 8 * i) (fun _ => 0)).andThen (c.clearOwn k r)

/-- `COLL_END`, if it can happen (R269): the update of the completion object follows in queue order (R257). -/
def tryCollEnd (cmd : Nat) (s : State) : Option State :=
  collStep 9 (fun c k _ s =>
    (c.allDone k s (List.range 16)).thenStep s (fun ok =>
      if ok then
        let s0 := (List.range 16).foldl (fun s t => c.acquired s (doneAt (k.peer k.rank).2 t)) s
        (c.clearOwn k (List.range 32) s0).thenStep s (fun s1 => .ok s1 k)
      else .wait)) cmd s

/-- `COLL_END` (R269). -/
def execCollEnd (cmd : Nat) (s : State) : Out := happens s (tryCollEnd cmd s)

/-! ### Accesses of a command made ahead of the others (R130, R145; log entry 4) -/

/-- The command as its engine may work on it at a moment: it may start, or has started; it is not skipped and has not failed (R253,
R259). -/
def State.working (s : State) (id : Nat) : Option Command :=
  (s.command? id).bind (fun c =>
    if !s.mayStart c || c.failure.isSome || (c.skipped && !c.started) || (c.startBad s).isSome then none
    else some (if c.started then c else { c with started := true, engine := s.freeEngine c.core }))

/-- The transfer that a program's step is ready to make: the signal it waits for has been given (R269). -/
def Command.stepReady (c : Command) (k : Coll) (s : State) : Bool :=
  let w := k.step
  if stepSop w = 5 then true
  else (stepSop w == 2 || stepSop w == 3 || stepSop w == 4) && k.size (stepSb w) == k.size (stepDb w) &&
    (match c.readCounter s (readyAt (k.peer (k.q w)).2 (stepTag w)) with
     | .ok v => decide (v < 2 ^ 63) && decide (k.got.getD (stepTag w) 0 < v)
     | _ => false)

/-- The state in which a program's step makes its transfer: a receiving one has read the signal it waited for (R145, R269). -/
def Command.entered (c : Command) (k : Coll) (s : State) : State :=
  if stepSop k.step = 5 then s else c.acquired s (readyAt (k.peer (k.q k.step)).2 (stepTag k.step))

/-- The engine reads some bytes of a side ahead of the others, in whole aligned units of 8 bytes. -/
def State.engineReadTurn (s : State) (id : Nat) (x : Side) (n : Nat) : State :=
  match s.working id with
  | none => s
  | some c =>
    if x.addr % 8 ≠ 0 ∨ n % 8 ≠ 0 ∨ c.coll.any (fun k => !c.stepReady k s) then s
    else
      let s1 := c.reserve (c.coll.elim s (c.entered · s))
      match c.readSide s1 x n with
      | .ok bs => s1.setCommand { c with got := (x, bs) :: c.got }
      | _ => s

/-- A run of a destination of `len` bytes does not cut an aligned unit of 8 bytes. -/
def wholeUnits (base len off n : Nat) : Bool :=
  decide (off + n ≤ len) && (off == 0 || (base + off) % 8 == 0) && (off + n == len || (base + off + n) % 8 == 0)

/-- Bytes of a copy delivered ahead of the others. -/
def Command.copyEarly (c : Command) (s : State) (x y : Side) (len e off n : Nat) : Option State :=
  if c.has 0 off || !wholeUnits x.addr len off n then none
  else match c.readSide s y len with
    | .ok bs =>
      match c.writeSide { s with freshCount := s.freshCount + len } (x.plus off) (((copyBytes x y bs len e s.freshCount).drop off).take n) with
      | .ok s1 => some (s1.setCommand { c with did := (0, off, n) :: c.did })
      | _ => none
    | _ => none

/-- An element of a reduction made ahead of the others. -/
def Command.reduceEarly (c : Command) (s : State) (op : Nat) (x y : Side) (len i : Nat) : Option State :=
  if c.has 0 i || decide (len / reduceSize op ≤ i) then none
  else match c.reduceOne s op (x.plus (reduceSize op * i)) (y.plus (reduceSize op * i)) with
    | .ok s1 => some (s1.setCommand { c with did := (0, i, 1) :: c.did })
    | _ => none

/-- Bytes of a quantised tile or of its exponents written ahead of the others, the source having been read whole. -/
def Command.cvEarly (c : Command) (s : State) (part off n : Nat) : Option State :=
  let a := c.cvArgs
  if c.has part off || (!(part == 0 && decide (off + n ≤ 256 * a.k)) && (off % 8 != 0 || n % 8 != 0)) then none
  else match c.cvRead s a with
    | .ok ps =>
      let (tile, exps) := a.parts (a.quants ps)
      let bs := ((if part = 0 then tile else exps).drop off).take n
      let s1 : Eng State :=
        if a.plane then c.writeVirt s (a.dst + off) bs
        else match c.home s with
          | none => .fail 3
          | some (k, _) => if part = 0 then .ok (s.writeScratch k (.rs (8 * a.res + off)) bs) else .ok (s.storeDs k (a.scale + off) bs)
      match s1 with
      | .ok s1 => some (s1.setCommand { c with
          got := (a.pieces.1.zip ps).map (fun p => (Side.virt p.1, p.2))
          did := (part, off, n) :: c.did })
      | _ => none
    | _ => none

/-- The engine performs some units of a command's transfer ahead of the others: bytes of a part of the destination, or the element
`off` of a reduction. -/
def Command.early (c : Command) (s : State) (part off n : Nat) : Option State :=
  let (x, y) := c.sides
  match c.kind, c.coll with
  | .cpy, _ => if part = 0 then c.copyEarly s x y c.len (2 ^ bitsOf (c.reg 2) 41 40) off n else none
  | .cpyrd, _ => c.reduceEarly s c.rop x y c.len off
  | .cpycv, _ => c.cvEarly s part off n
  | .coll, none => none
  | .coll, some k =>
    let (x, y, len) := k.sides
    if !c.stepReady k s || c.outside s x len || c.outside s y len then none
    else if stepSop k.step = 2 ∨ stepSop k.step = 5 then c.copyEarly (c.entered k s) x y len 1 off n
    else if len % reduceSize k.op ≠ 0 ∨ x.addr % reduceSize k.op ≠ 0 ∨ y.addr % reduceSize k.op ≠ 0 then none
    else c.reduceEarly (c.entered k s) k.op x y len off

/-- The step of log entry 4 that performs some units of a command's transfer. -/
def State.engineWriteTurn (s : State) (id part off n : Nat) : State :=
  ((s.working id).bind (fun c => c.early (c.reserve s) part off n)).getD s

end Sys2Proof.Machine
end

