-- ==== Sys2Proof/Machine/Inflate.lean ====
section
/-! DEFINITION. What the intake engine computes on bytes: DEFLATE (R277: RFC 1951), CRC-32, the charsets (R278), and pieces and
merges (R279). -/
namespace Sys2Proof.Machine

/-! ### DEFLATE (R277) -/

/-- The bits of a byte run, least significant first. -/
def bitsOfBytes (bs : List Byte) : List Bool := bs.flatMap (fun b => (List.range 8).map b.getLsbD)

/-- `n` bits, least significant first, and the rest; `none` if there are fewer. -/
def takeBits : Nat → List Bool → Option (Nat × List Bool)
  | 0, r => some (0, r)
  | _ + 1, [] => none
  | n + 1, b :: r => (takeBits n r).map (fun p => (b.toNat + 2 * p.1, p.2))

/-- A canonical code: for each length from 1 to 15, how many codes; and the symbols in code order. -/
structure Code where
  counts : List Nat
  syms : List Nat
  deriving DecidableEq, Repr

/-- The code that a list of lengths describes. -/
def codeOf (lens : List Nat) : Code :=
  ⟨(List.range 15).map (fun k => (lens.filter (· == k + 1)).length),
   (List.range 15).flatMap (fun k => ((lens.mapIdx (fun i l => (i, l))).filter (fun p => p.2 == k + 1)).map (·.1))⟩

/-- Codes left unused at length 15, `none` if the lengths ask for too many. -/
def codeLeft : List Nat → Nat → Option Nat
  | [], left => some left
  | c :: r, left => if 2 * left < c then none else codeLeft r (2 * left - c)

/-- A code that may be used: complete, or empty, or of one code of one bit (log entry 28). -/
def Code.ok (c : Code) : Bool :=
  codeLeft c.counts 1 == some 0 || c.syms.isEmpty || (c.syms.length == 1 && c.counts.headD 0 == 1)

/-- What a decoding step comes to: a value and the rest, the input's end, or an invalid stream. -/
inductive Inf (α : Type)
  | ok (a : α) (rest : List Bool)
  | short
  | bad

/-- One symbol of a code. -/
def decodeSym : List Nat → List Nat → Nat → Nat → List Bool → Inf Nat
  | [], _, _, _, _ => .bad
  | _ :: _, _, _, _, [] => .short
  | n :: ns, syms, code, first, b :: r =>
    let code := code + b.toNat
    if code - first < n ∧ first ≤ code then .ok (syms.getD (code - first) 0) r
    else decodeSym ns (syms.drop n) (2 * code) (2 * (first + n)) r

/-- Base of a length symbol (257 to 285), with its extra bits (RFC 1951, 3.2.5). -/
def lengthTab : List (Nat × Nat) :=
  [(3, 0), (4, 0), (5, 0), (6, 0), (7, 0), (8, 0), (9, 0), (10, 0), (11, 1), (13, 1), (15, 1), (17, 1), (19, 2), (23, 2), (27, 2),
   (31, 2), (35, 3), (43, 3), (51, 3), (59, 3), (67, 4), (83, 4), (99, 4), (115, 4), (131, 5), (163, 5), (195, 5), (227, 5), (258, 0)]

/-- Base of a distance symbol (0 to 29), with its extra bits (RFC 1951, 3.2.5). -/
def distTab : List (Nat × Nat) :=
  [(1, 0), (2, 0), (3, 0), (4, 0), (5, 1), (7, 1), (9, 2), (13, 2), (17, 3), (25, 3), (33, 4), (49, 4), (65, 5), (97, 5), (129, 6),
   (193, 6), (257, 7), (385, 7), (513, 8), (769, 8), (1025, 9), (1537, 9), (2049, 10), (3073, 10), (4097, 11), (6145, 11),
   (8193, 12), (12289, 12), (16385, 13), (24577, 13)]

/-- `n` bytes copied from `d` bytes back, the output being held last byte first. -/
def copyBack : Nat → Nat → List Byte → List Byte
  | 0, _, out => out
  | n + 1, d, out => copyBack n d (out.getD (d - 1) 0 :: out)

/-- What a stretch of a stream comes to, with the output so far, last byte first. -/
inductive Inflated
  | ok (out : List Byte) (rest : List Bool)
  | short (out : List Byte)
  | bad (out : List Byte)

/-- The symbols of a compressed block, to its end-of-block symbol. -/
def inflateSyms (lit dist : Code) : Nat → List Byte → List Bool → Inflated
  | 0, out, _ => .short out
  | fuel + 1, out, r =>
    match decodeSym lit.counts lit.syms 0 0 r with
    | .short => .short out
    | .bad => .bad out
    | .ok s r1 =>
      if s < 256 then inflateSyms lit dist fuel (BitVec.ofNat 8 s :: out) r1
      else if s = 256 then .ok out r1
      else
        match lengthTab[s - 257]? with
        | none => .bad out
        | some (lb, lx) =>
          match takeBits lx r1 with
          | none => .short out
          | some (lv, r2) =>
            match decodeSym dist.counts dist.syms 0 0 r2 with
            | .short => .short out
            | .bad => .bad out
            | .ok ds r3 =>
              match distTab[ds]? with
              | none => .bad out
              | some (db, dx) =>
                match takeBits dx r3 with
                | none => .short out
                | some (dv, r4) =>
                  if out.length < db + dv then .bad out
                  else inflateSyms lit dist fuel (copyBack (lb + lv) (db + dv) out) r4

/-- The code lengths of a dynamic block, `n` of them (RFC 1951, 3.2.7). -/
def codeLengths (c : Code) : Nat → Nat → List Nat → List Bool → Inf (List Nat)
  | 0, _, _, _ => .bad
  | fuel + 1, n, acc, r =>
    if n ≤ acc.length then (if acc.length = n then .ok acc r else .bad)
    else
      match decodeSym c.counts c.syms 0 0 r with
      | .short => .short
      | .bad => .bad
      | .ok s r1 =>
        if s < 16 then codeLengths c fuel n (acc ++ [s]) r1
        else
          match takeBits (if s = 16 then 2 else if s = 17 then 3 else 7) r1 with
          | none => .short
          | some (k, r2) =>
            if s = 16 then
              match acc.getLast? with
              | none => .bad
              | some p => codeLengths c fuel n (acc ++ List.replicate (3 + k) p) r2
            else codeLengths c fuel n (acc ++ List.replicate ((if s = 17 then 3 else 11) + k) 0) r2

/-- The order of the code-length code's lengths (RFC 1951, 3.2.7). -/
def clOrder : List Nat := [16, 17, 18, 0, 8, 7, 9, 6, 10, 5, 11, 4, 12, 3, 13, 2, 14, 1, 15]

/-- `n` fields of three bits. -/
def takeThrees : Nat → List Bool → Option (List Nat × List Bool)
  | 0, r => some ([], r)
  | n + 1, r => (takeBits 3 r).bind (fun p => (takeThrees n p.2).map (fun q => (p.1 :: q.1, q.2)))

/-- The codes of a dynamic block. -/
def dynamicCodes (r : List Bool) : Inf (Code × Code) :=
  match takeBits 14 r with
  | none => .short
  | some (h, r1) =>
    let hlit := h % 32 + 257
    let hdist := h / 32 % 32 + 1
    match takeThrees (h / 1024 + 4) r1 with
    | none => .short
    | some (ls, r2) =>
      let cl := codeOf ((List.range 19).map (fun i => ((clOrder.zip ls).lookup i).getD 0))
      if 286 < hlit ∨ codeLeft cl.counts 1 ≠ some 0 then .bad
      else
        match codeLengths cl (hlit + hdist + 1) (hlit + hdist) [] r2 with
        | .short => .short
        | .bad => .bad
        | .ok lens r3 =>
          let lit := codeOf (lens.take hlit)
          let dist := codeOf (lens.drop hlit)
          if lit.ok && dist.ok && lens.getD 256 0 != 0 then .ok (lit, dist) r3 else .bad

/-- The fixed codes (RFC 1951, 3.2.6). -/
def fixedLit : Code := codeOf (List.replicate 144 8 ++ List.replicate 112 9 ++ List.replicate 24 7 ++ List.replicate 8 8)
/-- The fixed distance code. -/
def fixedDist : Code := codeOf (List.replicate 32 5)

/-- Whole bytes from a run of bits: `n` of them. -/
def takeBytes : Nat → List Bool → Option (List Byte × List Bool)
  | 0, r => some ([], r)
  | n + 1, r => (takeBits 8 r).bind (fun p => (takeBytes n p.2).map (fun q => (BitVec.ofNat 8 p.1 :: q.1, q.2)))

/-- A stored block (RFC 1951, 3.2.4): the run of bits left is a whole number of bytes after the padding. -/
def storedBlock (out : List Byte) (r : List Bool) : Inflated :=
  let r := r.drop (r.length % 8)
  match takeBits 16 r with
  | none => .short out
  | some (n, r1) =>
    match takeBits 16 r1 with
    | none => .short out
    | some (m, r2) =>
      if n + m ≠ 65535 then .bad out
      else
        match takeBytes n r2 with
        | none => .short out
        | some (bs, r3) => .ok (bs.reverse ++ out) r3

/-- The blocks of a stream, to its final block. -/
def inflateBlocks : Nat → List Byte → List Bool → Inflated
  | 0, out, _ => .short out
  | fuel + 1, out, r =>
    match takeBits 3 r with
    | none => .short out
    | some (h, r1) =>
      let b := match h / 2 with
        | 0 => storedBlock out r1
        | 1 => inflateSyms fixedLit fixedDist (r1.length + 1) out r1
        | 2 =>
          match dynamicCodes r1 with
          | .short => .short out
          | .bad => .bad out
          | .ok (lit, dist) r2 => inflateSyms lit dist (r2.length + 1) out r2
        | _ => .bad out
      match b with
      | .ok out1 r2 => if h % 2 = 1 then .ok out1 r2 else inflateBlocks fuel out1 r2
      | x => x

/-- A DEFLATE stream decoded, with an empty window (R277). -/
def inflate (src : List Byte) : Inflated :=
  let r := bitsOfBytes src
  inflateBlocks (r.length + 1) [] r

/-- One bit of the CRC of gzip. -/
def crcBit (c : Nat) : Nat := if c % 2 = 1 then (c / 2) ^^^ 0xEDB88320 else c / 2

/-- The CRC-32 of gzip (R277). -/
def crc32 (bs : List Byte) : Nat :=
  (bs.foldl (fun c b => (List.range 8).foldl (fun c _ => crcBit c) (c ^^^ b.toNat)) 0xFFFFFFFF) ^^^ 0xFFFFFFFF

/-! ### Charsets (R278) -/

/-- What the head of a decoded stream is: a character and its length, an error and its length, or not yet known. -/
inductive Head | char (cp n : Nat) | err (n : Nat) | more
  deriving DecidableEq, Repr

/-- The bounds of the second byte after a lead byte, and how many continuation bytes follow: the well-formed sequences of the
Unicode Standard. -/
def utf8Lead (b : Nat) : Option (Nat × Nat × Nat) :=
  if 0xC2 ≤ b ∧ b ≤ 0xDF then some (1, 0x80, 0xBF)
  else if b = 0xE0 then some (2, 0xA0, 0xBF)
  else if b = 0xED then some (2, 0x80, 0x9F)
  else if 0xE1 ≤ b ∧ b ≤ 0xEF then some (2, 0x80, 0xBF)
  else if b = 0xF0 then some (3, 0x90, 0xBF)
  else if 0xF1 ≤ b ∧ b ≤ 0xF3 then some (3, 0x80, 0xBF)
  else if b = 0xF4 then some (3, 0x80, 0x8F)
  else none

/-- The continuation bytes of a sequence: `k` more, the first between `lo` and `hi`; `n` bytes are taken, `cp` is their value. -/
def utf8Rest (final : Bool) : Nat → Nat → Nat → Nat → Nat → List Byte → Head
  | 0, _, _, cp, n, _ => .char cp n
  | _ + 1, _, _, _, n, [] => if final then .err n else .more
  | k + 1, lo, hi, cp, n, b :: r =>
    if lo ≤ b.toNat ∧ b.toNat ≤ hi then utf8Rest final k 0x80 0xBF (64 * cp + b.toNat % 64) (n + 1) r else .err n

/-- The head of a UTF-8 stream. -/
def utf8Head (final : Bool) : List Byte → Head
  | [] => .more
  | b :: r =>
    if b.toNat < 0x80 then .char b.toNat 1
    else match utf8Lead b.toNat with
      | none => .err 1
      | some (k, lo, hi) => utf8Rest final k lo hi (b.toNat % 2 ^ (6 - k)) 1 r

/-- The head of a UTF-16 stream, given the byte order. -/
def utf16Head (final big : Bool) : List Byte → Head
  | [] => .more
  | [_] => if final then .err 1 else .more
  | a :: b :: r =>
    let unit := fun (x y : Byte) => if big then 256 * x.toNat + y.toNat else x.toNat + 256 * y.toNat
    let u := unit a b
    if u < 0xD800 ∨ 0xDFFF < u then .char u 2
    else if 0xDC00 ≤ u then .err 2
    else match r with
      | c :: d :: _ =>
        let v := unit c d
        if 0xDC00 ≤ v ∧ v ≤ 0xDFFF then .char (0x10000 + (u - 0xD800) * 0x400 + (v - 0xDC00)) 4 else .err 2
      | _ => if final then .err 2 else .more

/-- ISO-8859-15 where it differs from ISO-8859-1 (R278). -/
def latin9 : Nat → Nat
  | 0xA4 => 0x20AC | 0xA6 => 0x160 | 0xA8 => 0x161 | 0xB4 => 0x17D | 0xB8 => 0x17E | 0xBC => 0x152 | 0xBD => 0x153 | 0xBE => 0x178
  | b => b

/-- The head of a stream in a charset. -/
def charHead (cs : Nat) (final : Bool) (bs : List Byte) : Head :=
  match cs with
  | 0 => utf8Head final bs
  | 1 => utf16Head final false bs
  | 2 => utf16Head final true bs
  | 3 => match bs with | [] => .more | b :: _ => .char b.toNat 1
  | _ => match bs with | [] => .more | b :: _ => .char (latin9 b.toNat) 1

/-- UTF-8 of a character. -/
def utf8Of (cp : Nat) : List Byte :=
  let t := fun k => BitVec.ofNat 8 (0x80 + cp / 64 ^ k % 64)
  if cp < 0x80 then [BitVec.ofNat 8 cp]
  else if cp < 0x800 then [BitVec.ofNat 8 (0xC0 + cp / 64), t 0]
  else if cp < 0x10000 then [BitVec.ofNat 8 (0xE0 + cp / 4096), t 1, t 0]
  else [BitVec.ofNat 8 (0xF0 + cp / 262144), t 2, t 1, t 0]

/-- Text made from a decoded stream: the text, the replacements, and the offset of the first error under policy 1. -/
structure Text where
  bytes : List Byte
  repl : Nat
  err : Option Nat
  deriving DecidableEq, Repr

/-- The transcoder (R278): from offset `off` on; `fuel` bounds the characters. -/
def transcode (cs : Nat) (policy final : Bool) : Nat → Nat → List Byte → Text
  | 0, _, _ => ⟨[], 0, none⟩
  | fuel + 1, off, bs =>
    match charHead cs final bs with
    | .more => ⟨[], 0, none⟩
    | .char cp n =>
      let t := transcode cs policy final fuel (off + n) (bs.drop n)
      { t with bytes := utf8Of cp ++ t.bytes }
    | .err n =>
      if policy then ⟨[], 0, some off⟩
      else
        let t := transcode cs policy final fuel (off + n) (bs.drop n)
        { t with bytes := utf8Of 0xFFFD ++ t.bytes, repl := t.repl + 1 }

/-! ### Pieces and merges (R279) -/

/-- A continuation byte. -/
def isCont (b : Byte) : Bool := b.toNat / 64 == 2

/-- A boundary lies before byte `b`, which follows byte `a` (R279). -/
def boundary (cls bnd : List Byte) (a b : Byte) : Bool :=
  let k := fun (x : Byte) => (cls.getD x.toNat 0).toNat % 16
  let row := ofLeBytes ((bnd.drop (2 * k a)).take 2)
  !isCont b && row.testBit (k b)

/-- The length of the piece at the head of the text, of which `i` bytes are passed, `prev` the last of them, and `cut` the
place of the last byte that is not a continuation byte; `none` if it is not known yet (R279). -/
def pieceLen (cls bnd : List Byte) (final : Bool) : List Byte → Nat → Byte → Nat → Option Nat
  | [], i, _, _ => if final && 0 < i then some i else none
  | b :: r, i, prev, cut =>
    if 0 < i ∧ boundary cls bnd prev b then some i
    else
      let cut := if isCont b then cut else i
      if i + 1 = 1024 then some (if cut = 0 then 1024 else cut) else pieceLen cls bnd final r (i + 1) b cut

/-- An entry of the merge table: left id, right id, rank, new id (R279). -/
structure Merge where
  key : Nat
  rank : Nat
  new : Nat
  deriving DecidableEq, Repr

/-- The entries of a merge table. -/
def mergesOf : List Nat → List Merge
  | a :: b :: r => ⟨bitsOf a 47 0, bitsOf b 31 0, bitsOf b 55 32⟩ :: mergesOf r
  | _ => []

/-- The keys rise strictly, as R279 asks. -/
def mergesSorted : List Merge → Bool
  | a :: b :: r => decide (a.key < b.key) && mergesSorted (b :: r)
  | _ => true

/-- A lookup (R279): the entry with the key; in a table out of order, any of them or none, freely (log entry 10). -/
def lookupMerge (tab : List Merge) (sorted : Bool) (pick : Nat) (l r : Nat) : Option Merge :=
  let hits := tab.filter (fun e => e.key == l * 2 ^ 24 + r)
  if sorted then hits.head? else hits[pick % (hits.length + 1)]?

/-- The best merge of a piece: the lowest rank, the leftmost among equals. -/
def bestMerge (look : Nat → Nat → Nat → Option Merge) : Nat → List Nat → Option (Nat × Merge)
  | i, a :: b :: r =>
    let rest := bestMerge look (i + 1) (b :: r)
    match look i a b with
    | none => rest
    | some e =>
      match rest with
      | none => some (i, e)
      | some (j, f) => if f.rank < e.rank then some (j, f) else some (i, e)
  | _, _ => none

/-- The merges of a piece, until none applies (R279). -/
def mergePiece (look : Nat → Nat → Nat → Nat → Option Merge) : Nat → List Nat → List Nat
  | 0, ids => ids
  | n + 1, ids =>
    match bestMerge (look n) 0 ids with
    | none => ids
    | some (i, e) => mergePiece look n (ids.take i ++ [e.new] ++ ids.drop (i + 2))

end Sys2Proof.Machine
end

