-- ==== Sys2Proof/Machine/Intake.lean ====
section
/-! DEFINITION. The intake engine (R275 to R283): a stream's current message, stage by stage. -/
namespace Sys2Proof.Machine

/-- Elements an output port, and a quarantine port, hold (R271). -/
def outputPlaces : Nat := 64
/-- Elements of a quarantine port (R271). -/
def quarantinePlaces : Nat := 16

/-- The stage stalls at translation (R283). -/
def Stream.waits (x : Stream) (st : IntakeStage) : Bool := x.stalled.any (fun p => p.1 == st)

/-- A stream of a tower of which a stage works: the stream is not stopped by a save, nor the stage stalled (R283, R348, R353). -/
def State.liveStream (s : State) (t h : Nat) (st : IntakeStage) : Option Stream :=
  ((s.tower t).stream? h).bind (fun x => if x.stopped || x.waits st then none else some x)

/-- The message of a stream of which a stage works. -/
def State.liveMsg (s : State) (t h : Nat) (st : IntakeStage) : Option (Stream × Msg) :=
  (s.liveStream t h st).bind (fun x => x.msg.map (fun m => (x, m)))

/-- The stream's message replaced. -/
def State.setMsg (s : State) (t h : Nat) (m : Msg) : State := s.modStream t h (fun x => { x with msg := some m })

/-- An element pushed into the output port (R280). -/
def State.pushOut (s : State) (t h : Nat) (e : List Word) : State := s.modStream t h (fun x => { x with outQ := x.outQ ++ e })

/-- The translations held for a stream's tower (R346). -/
def Stream.tlb (x : Stream) (s : State) : List TlbEntry := s.towerTlb (towerOf x.core)

/-- A run that a stream reads (R282, R283). -/
def Stream.read (x : Stream) (s : State) (va n : Nat) : Except RunFail (List Byte) :=
  if 2 ^ 56 < va + n then .error (.denied va) else s.readRun (x.tlb s) x.asid x.smode va n

/-- A stage stalls at translation: the cause and the offset are those of a failure (R283, R348 to R350). A table entry that it could not
read is an event (R126, R364). -/
def State.stallStream (s : State) (t : Nat) (x : Stream) (st : IntakeStage) (f : WalkFault) (va : Nat) (k : AccKind) (cause off : Nat) :
    State :=
  ((s.logWalk f).modStream t x.handle (fun y => { y with stalled := y.stalled ++ [(st, cause, off)] })).modTower t (fun y =>
    y.joinFault (.intake x.handle st) f va x.asid k.code 2 0)

/-- No stage of a stream waits at translation any more: its message is quarantined (R282). -/
def State.freeStages (s : State) (t h : Nat) : State :=
  s.modTower t (fun y => { y.withdraw (·.ofStream h) with
    streams := y.streams.map (fun x => if x.handle = h then { x with stalled := [] } else x) })

/-- A fault offset that R282 does not fix, within the bytes it is counted in (log entry 10). -/
def freeOffset (s : State) (lim : Nat) : Nat × State :=
  (Config.freeCount s.freshCount % (lim + 1), { s with freshCount := s.freshCount + 1 })

/-- The bytes that a cause's offset is counted in (R282): of the source; of the text. -/
def Msg.limit (m : Msg) (cause : Nat) : Nat :=
  match cause with
  | 5 => m.cap
  | 9 => m.utf8.length
  | _ => m.srclen

/-- The message meets a fault (R282), at an offset, or at one not fixed. -/
def State.faultMsg (s : State) (t h : Nat) (m : Msg) (cause : Nat) (off : Option Nat) : State :=
  match off with
  | some o => s.setMsg t h { m with fault := some (cause, o) }
  | none =>
    let (o, s1) := freeOffset s (m.limit cause)
    s1.setMsg t h { m with fault := some (cause, o) }

/-- A read's failure in a stage (R282, R283): of the source, at the byte that could not be read; of a table, at an offset not
fixed. -/
def State.readFailed (s : State) (t : Nat) (x : Stream) (m : Msg) (cause : Nat) (r : RunFail) : State :=
  let off := fun (va : Nat) => if cause = 6 then some (min (va - m.src) m.srclen) else none
  match r with
  | .fault f va =>
    let (o, s1) := match off va with | some o => (o, s) | none => freeOffset s (m.limit cause)
    s1.stallStream t x (if cause = 9 then .tokens else .source) f va .read cause o
  | .denied va => s.faultMsg t x.handle m cause (off va)
  | .uncorrectable va pa => (s.log (pa / Config.towerBytes) { kind := 1, addr := pa }).faultMsg t x.handle m cause (off va)

/-! ### The message's start (R276, R280) -/

/-- The start marker of an element. -/
def startMarker (e : Word) : Word := BitVec.ofNat 64 (2 ^ 60 + bitsOf e.toNat 55 0)

/-- A pushed element is taken, and its message begins (R276, R280). -/
def State.beginMsg (s : State) (t h : Nat) (m : Msg) : State :=
  s.modStream t h (fun x => { x with inQ := x.inQ.drop 1, msg := some m, outQ := x.outQ ++ [startMarker m.desc] })

/-- A message without its descriptor. -/
def emptyMsg (e : Word) : Msg :=
  { desc := e, src := 0, srclen := 0, policy := false, cs := 0, frm := 0, text := 0, cap := 0 }

/-- The message of a descriptor, with its check (R276). -/
def msgOf (e : Word) (w : List Nat) : Msg :=
  let g := fun i => w.getD i 0
  let m1 := g 1
  let bad := bitsOf m1 63 49 != 0 || decide (5 ≤ bitsOf m1 47 44) || decide (3 ≤ bitsOf m1 43 40)
    || bitsOf (g 0) 63 56 != 0 || bitsOf (g 3) 63 56 != 0 || bitsOf (g 4) 63 40 != 0 || g 5 != 0 || g 6 != 0
  { desc := e, src := bitsOf (g 0) 55 0, srclen := bitsOf m1 39 0, policy := decide (bitsOf m1 48 48 = 1), cs := bitsOf m1 47 44,
    frm := bitsOf m1 43 40, text := bitsOf (g 3) 55 0, cap := bitsOf (g 4) 39 0, fault := if bad then some (8, 0) else none }

/-- `INTAKE_MESSAGE_START`, if it can happen (R276, R280): the next element of the input port. -/
def tryIntakeMessageStart (tower stream : Nat) (s : State) : Option State :=
  match s.liveStream tower stream .source with
  | none => none
  | some x =>
    match x.msg, x.inQ with
    | none, e :: _ =>
      if outputPlaces ≤ x.outQ.length then none
      else if e.toNat % 64 ≠ 0 ∨ 2 ^ 56 ≤ e.toNat then
        some (s.beginMsg tower stream { emptyMsg e with fault := some (8, 0), noStatus := true })
      else
        match x.read s e.toNat 64 with
        | .ok bs => some (s.beginMsg tower stream (msgOf e (chunksOf 8 8 bs)))
        | .error (.fault f va) => some (s.stallStream tower x .source f va .read 6 0)
        | .error r => some ((s.beginMsg tower stream (emptyMsg e)).readFailed tower x (emptyMsg e) 6 r)
    | _, _ => none

/-- `INTAKE_MESSAGE_START` (R276, R280). -/
def execIntakeMessageStart (tower stream : Nat) (s : State) : Out := happens s (tryIntakeMessageStart tower stream s)

/-! ### Decoding and text (R277, R278) -/

/-- What a decoder lane gives: the bytes, whether they end the message, and a fault's cause. -/
structure Decoded where
  bytes : List Byte
  final : Bool
  cause : Option Nat := none
  /-- The fault's offset, where it is known. -/
  off : Option Nat := none

/-- The first `n` bytes of a run that can be read: pages before the first that fails. -/
def Stream.readable (x : Stream) (s : State) (va n : Nat) : List Byte :=
  ((piecesOf va n).foldl (fun (acc : List Byte × Bool) p =>
    if acc.2 then acc
    else match x.read s p.1 p.2 with
      | .ok bs => (acc.1 ++ bs, false)
      | .error _ => (acc.1, true)) ([], false)).1

/-- One raw DEFLATE stream (R277, R282): it must end exactly at the source's end. -/
def decodeRaw (src : List Byte) : Decoded :=
  match inflate src with
  | .ok out rest => { bytes := out.reverse, final := true, cause := if rest.length < 8 then none else some 3 }
  | .short out => { bytes := out.reverse, final := true, cause := some 3 }
  | .bad out => { bytes := out.reverse, final := true, cause := some 1 }

/-- A chunk's bytes, against its index entry (R277; log entry 28 for a stream that is short). -/
def decodeChunk (src : List Byte) (len crc : Nat) (last : Bool) : Decoded :=
  match inflate src with
  | .ok out _ =>
    if out.length = len ∧ crc32 out.reverse = crc then { bytes := out.reverse, final := last } else { bytes := [], final := true, cause := some 2 }
  | _ => { bytes := [], final := true, cause := some 1 }

/-- The next piece of work of a message's decoder (R277). -/
def Msg.decode (m : Msg) (x : Stream) (s : State) : Except RunFail Decoded :=
  if m.frm = 2 then
    if m.srclen < 8 then .ok { bytes := [], final := true, cause := some 2 }
    else
      (x.read s m.src 8).bind (fun hd =>
        let magic := ofLeBytes (hd.take 4)
        let count := ofLeBytes (hd.drop 4)
        if magic ≠ 0x3146434E ∨ count = 0 ∨ 65536 < count ∨ m.srclen < 8 + 16 * count then .ok { bytes := [], final := true, cause := some 2 }
        else
          (x.read s (m.src + 8 + 16 * m.chunks) 16).bind (fun e =>
            let w0 := ofLeBytes (e.take 8)
            let w1 := ofLeBytes (e.drop 8)
            let off := bitsOf w0 39 0
            let n := bitsOf w0 63 40
            let len := bitsOf w1 31 0
            if m.srclen < off + n ∨ len = 0 ∨ 1048576 < len then .ok { bytes := [], final := true, cause := some 2 }
            else (x.read s (m.src + off) n).bind (fun bs => .ok (decodeChunk bs len (bitsOf w1 63 32) (m.chunks + 1 == count)))))
  else
    (x.read s m.src m.srclen).bind (fun bs => .ok (if m.frm = 1 then decodeRaw bs else { bytes := bs, final := true }))

/-- What the bytes before a failed read give (R282 step 2). -/
def Msg.decodeBefore (m : Msg) (x : Stream) (s : State) : List Byte :=
  match m.frm with
  | 0 => x.readable s m.src m.srclen
  | 1 => (decodeRaw (x.readable s m.src m.srclen)).bytes
  | _ => []

/-- A source that cannot be read at an address: the bytes before it, and the fault there (R282). -/
def Msg.sourceFails (m : Msg) (x : Stream) (s : State) (va : Nat) : Decoded :=
  { bytes := m.decodeBefore x s, final := true, cause := some 6, off := some (min (va - m.src) m.srclen) }

/-- New text bytes written (R278): as many as can be, and how the first failure stands. -/
def Stream.writeText (x : Stream) (s : State) (va : Nat) (bs : List Byte) : Except RunFail State :=
  if bs.isEmpty then .ok s
  else if 2 ^ 56 < va + bs.length then .error (.denied va)
  else s.writeRun (x.tlb s) x.asid x.smode va bs

/-- The first `n` bytes, of `bs` at most, that can be written: page by page. -/
def Stream.writeSome (x : Stream) (s : State) (va : Nat) (bs : List Byte) : Nat × State :=
  ((piecesOf va bs.length).foldl (fun (acc : Nat × State × Bool) p =>
    if acc.2.2 then acc
    else match x.writeText acc.2.1 p.1 ((bs.drop (p.1 - va)).take p.2) with
      | .ok s1 => (acc.1 + p.2, s1, false)
      | .error _ => (acc.1, acc.2.1, true)) (0, s, false)) |> fun r => (r.1, r.2.1)

/-- A fault ends the text: some prefix of what comes before it is written, freely (R282 step 2; log entry 10). -/
def State.cutText (s : State) (t : Nat) (x : Stream) (m : Msg) (new : List Byte) (cause : Nat) (off : Option Nat) : State :=
  let k := Config.freeCount s.freshCount % (new.length + 1)
  let (n, s1) := x.writeSome { s with freshCount := s.freshCount + 1 } (m.text + m.utf8.length) (new.take k)
  let m1 := { m with utf8 := m.utf8 ++ new.take n, decodeDone := true }
  s1.faultMsg t x.handle m1 cause off

/-- Decoded bytes are committed: transcoded and written as text (R277, R278). The replacements counted are those of all that has been
decoded so far, also where a fault cuts the text short (R276, R282; log entry 76). -/
def State.commitDecoded (s : State) (t : Nat) (x : Stream) (m : Msg) (d : Decoded) : State :=
  let dec := m.decoded ++ d.bytes
  let tx := transcode m.cs m.policy (d.final && d.cause.isNone) (dec.length + 1) 0 dec
  let m1 := { m with decoded := dec, repl := tx.repl }
  let new := tx.bytes.drop m.utf8.length
  if m.cap < tx.bytes.length then s.cutText t x m1 (new.take (m.cap - m.utf8.length)) 5 none
  else if tx.err.isSome then s.cutText t x m1 new 4 tx.err
  else match d.cause with
    | some c => s.cutText t x m1 new c d.off
    | none =>
      match x.writeText s (m.text + m.utf8.length) new with
      | .ok s1 => s1.setMsg t x.handle { m1 with utf8 := tx.bytes, chunks := m.chunks + 1, decodeDone := d.final }
      | .error (.fault f va) => s.stallStream t x .source f va .write 7 (va - m.text)
      | .error (.denied va) | .error (.uncorrectable va _) => s.cutText t x m1 new 7 (some (va - m.text))

/-- `CHUNK_DECODE_COMPLETE`, if it can happen (R277, R278): the next chunk, or the whole message, is decoded and committed. -/
def tryChunkDecodeComplete (tower stream : Nat) (s : State) : Option State :=
  match s.liveMsg tower stream .source with
  | none => none
  | some (x, m) =>
    if m.decodeDone || m.fault.isSome then none
    else match m.decode x s with
      | .ok d => some (s.commitDecoded tower x m d)
      | .error (.fault f va) => some (s.readFailed tower x m 6 (.fault f va))
      | .error (.uncorrectable va pa) =>
        some ((s.log (pa / Config.towerBytes) { kind := 1, addr := pa }).commitDecoded tower x m (m.sourceFails x s va))
      | .error (.denied va) => some (s.commitDecoded tower x m (m.sourceFails x s va))

/-- `CHUNK_DECODE_COMPLETE` (R277, R278). -/
def execChunkDecodeComplete (tower stream : Nat) (s : State) : Out := happens s (tryChunkDecodeComplete tower stream s)

/-! ### Tokens (R279 to R281) -/

/-- Tokens of the message that the port has room for are delivered (R280, R281). -/
def State.deliverTokens (s : State) (t : Nat) (x : Stream) (m : Msg) : State :=
  let k := min m.pendingTokens.length (outputPlaces - x.outQ.length)
  (s.pushOut t x.handle (m.pendingTokens.take k)).setMsg t x.handle
    { m with pendingTokens := m.pendingTokens.drop k, tokens := m.tokens + k }

/-- The tables a stream needs for a piece (R275). -/
def Stream.tables (x : Stream) (s : State) : Except RunFail (List Byte × List Byte × List Byte) :=
  (x.read s x.cls 256).bind (fun c => (x.read s x.bnd 32).bind (fun b => (x.read s x.mtab (16 * x.mcount)).bind (fun m => .ok (c, b, m))))

/-- The tokens of a piece (R279). -/
def tokensOf (mtab : List Byte) (count pick : Nat) (piece : List Byte) : List Word :=
  let tab := mergesOf (chunksOf 8 (2 * count) mtab)
  let sorted := mergesSorted tab
  let look := fun (n i l r : Nat) => lookupMerge tab sorted (Config.freeCount (pick + 1024 * n + i)) l r
  (mergePiece look piece.length (piece.map (·.toNat))).map (BitVec.ofNat 64)

/-- `INTAKE_PIECE_TOKENISED`, if it can happen (R279, R281): tokens that waited for room are delivered, or else the next piece is tokenised. -/
def tryIntakePieceTokenised (tower stream : Nat) (s : State) : Option State :=
  match s.liveMsg tower stream .tokens with
  | none => none
  | some (x, m) =>
    if x.notok then none
    else if !m.pendingTokens.isEmpty then
      if outputPlaces ≤ x.outQ.length then none else some (s.deliverTokens tower x m)
    else if m.utf8.length ≤ m.consumed then none
    else match x.tables s with
      | .error r => if m.fault.isSome then none else some (s.readFailed tower x m 9 r)
      | .ok (cls, bnd, mtab) =>
        let left := m.utf8.drop m.consumed
        match pieceLen cls bnd (m.decodeDone && m.fault.isNone) left 0 0 0 with
        | none => none
        | some n =>
          let toks := tokensOf mtab x.mcount s.freshCount (left.take n)
          some ({ s with freshCount := s.freshCount + 2 ^ 20 }.deliverTokens tower x
            { m with consumed := m.consumed + n, pendingTokens := toks })

/-- `INTAKE_PIECE_TOKENISED` (R279, R281). -/
def execIntakePieceTokenised (tower stream : Nat) (s : State) : Out := happens s (tryIntakePieceTokenised tower stream s)

/-! ### The end (R280, R282) -/

/-- The status word (R276). -/
def statusWord (len cause repl : Nat) : Nat := len % 2 ^ 40 + cause * 2 ^ 40 + min repl 65535 * 2 ^ 48

/-- Writing the status word of a message. -/
def Stream.writeStatus (x : Stream) (s : State) (m : Msg) (v : Nat) : Except RunFail State :=
  s.writeRun (x.tlb s) x.asid x.smode (m.desc.toNat + 56) (leBytes 8 v)

/-- `INTAKE_MESSAGE_END`, if it can happen (R280): every token delivered, the status word is written, then the end marker pushed. -/
def tryIntakeMessageEnd (tower stream : Nat) (s : State) : Option State :=
  match s.liveMsg tower stream .close with
  | none => none
  | some (x, m) =>
    if !m.decodeDone || m.fault.isSome || !m.pendingTokens.isEmpty || (!x.notok && decide (m.consumed < m.utf8.length))
        || decide (outputPlaces ≤ x.outQ.length) then none
    else match x.writeStatus s m (statusWord m.utf8.length 0 m.repl) with
      | .ok s1 => some (s1.modStream tower stream (fun y => { y with
          msg := none, outQ := y.outQ ++ [BitVec.ofNat 64 (2 * 2 ^ 60 + m.tokens % 2 ^ 32)] }))
      | .error (.fault f va) => some (s.stallStream tower x .close f va .write 7 0)
      | .error _ => some (s.faultMsg tower stream { m with noStatus := true } 7 (some 0))

/-- `INTAKE_MESSAGE_END` (R280). -/
def execIntakeMessageEnd (tower stream : Nat) (s : State) : Out := happens s (tryIntakeMessageEnd tower stream s)

/-- `MESSAGE_QUARANTINE`, if it can happen (R282): the abandoned marker, the status, and the quarantine element. -/
def tryMessageQuarantine (tower stream : Nat) (s : State) : Option State :=
  match s.liveMsg tower stream .close with
  | none => none
  | some (x, m) =>
    match m.fault with
    | none => none
    | some (cause, off) =>
      if !m.pendingTokens.isEmpty || decide (outputPlaces ≤ x.outQ.length) || decide (quarantinePlaces ≤ x.quarQ.length) then
        none
      else
        let fin := fun (s1 : State) => ((s1.freeStages tower stream).modStream tower stream (fun y => { y with
          msg := none
          outQ := y.outQ ++ [BitVec.ofNat 64 (3 * 2 ^ 60 + m.tokens % 2 ^ 32)]
          quarQ := y.quarQ ++ [BitVec.ofNat 64 (cause * 2 ^ 56 + bitsOf m.desc.toNat 55 0)] }))
        if m.noStatus then some (fin s)
        else match x.writeStatus s m (statusWord off cause m.repl) with
          | .ok s1 => some (fin s1)
          | .error (.fault f va) => some (s.stallStream tower x .close f va .write cause off)
          | .error _ => some (fin s)

/-- `MESSAGE_QUARANTINE` (R282). -/
def execMessageQuarantine (tower stream : Nat) (s : State) : Out := happens s (tryMessageQuarantine tower stream s)

end Sys2Proof.Machine
end

