-- ==== Sys2Proof/Machine/Faults.lean ====
section
/-! DEFINITION. What the management core does to translation faults (R350 to R353) and to held translations (R347). -/
namespace Sys2Proof.Machine

/-! ### Requesters (R348, R350) -/

/-- A word repeats from step 4 of R108 on, with the operands it had read. -/
def Ctx.repeatWork (c : Ctx) (s : State) : VWork → Out
  | .load w sgn ord es zs => c.goLoad s w sgn ord es zs
  | .store w ord es => c.goStore s w ord es
  | .atomic op w sem es zs => c.goAtomic s op w sem es zs
  | .rpld r v n => c.goRpld s ⟨r, v, n⟩
  | .rpst r v n => c.goRpst s ⟨r, v, n⟩
  | .rpstAdd r v n => c.goRpstAdd s ⟨r, v, n⟩
  | .commit t => c.goCommit s t
  | .monw w k es zs => c.goMonw s w k es zs
  | .drain j => c.goDrain s j
  | .tossRecord k regs rva => c.goTossRecord s k regs rva
  | .tossRanges k regs r record => c.goTossRanges s k regs r record
  | .bind d n va => c.goBind s d n va

/-- The state a meaning gives, if it gives one. -/
def stateOf (s : State) : Out → State
  | .next t => t
  | _ => s

/-- A number under which a word had waited, and waits no more, leaves the lanes and the fault records (R350). -/
def State.forgetReq (s : State) (c gi id : Nat) : State :=
  match s.gang? c gi with
  | none => s
  | some g =>
    if (g.heldOf id).isSome then s
    else (s.setGang c gi { g with lanes := g.lanes.map (fun l => if l.req = some id then { l with req := none } else l) }).modTower
      (towerOf c) (·.withdraw (fun r => r == .word c gi id))

/-- A stalled word of a gang walks again (R108, R350): it repeats from step 4, or, if its code was being fetched, fetches again. -/
def State.redo (s : State) (c gi id : Nat) : State :=
  match s.gang? c gi with
  | none => s
  | some g =>
    match g.heldOf id with
    | none => s
    | some h =>
      match h.kind with
      | .fault _ none => s.setGang c gi (g.unhold id h.lanes)
      | .fault _ (some work) =>
        let s1 : State := { s.setGang c gi (g.unhold id h.lanes) with cur := h.iss }
        (stateOf s1 (withCtx s1 (fun x => x.repeatWork s1 work))).forgetReq c gi id
      | _ => s

/-- The Teller of a core goes on, or not (R353). -/
def State.wakeTeller (s : State) (c : Nat) : State := s.modBlock c (fun b => { b with tellerStall := false })

/-- A requester walks again (R350, retry). -/
def State.retry (s : State) (t : Nat) : Requester → State
  | .word c g id => s.redo c g id
  | .fetch c g id => s.redo c g id
  | .command id => { s with commands := s.commands.map (fun (c : Command) => if c.id = id then { c with stalled := false } else c) }
  | .intake h st => s.modStream t h (fun x => { x with stalled := x.stalled.filter (·.1 != st) })
  | .teller c => s.wakeTeller c

/-- The lanes of a fetch that had passed its header stand in the clause (R60, R66), at its word or behind its prefix: what the trap
then names. -/
def Gang.openFor (g : Gang) (s : State) (c : Nat) (b : Block) (h : Held) (va : Nat) : Gang × Issue :=
  let at0 := h.iss.addr
  if (g.lane (lowLane h.lanes)).cpos = 0 ∧ at0.toNat < va then
    match codeAt s c b at0 with
    | .error _ => (g, h.iss)
    | .ok w =>
      match decodeHeader w with
      | none => (g, h.iss)
      | some hd =>
        let iss : Issue := { h.iss with addr := at0 + 4, taddr := at0 + 4, hdr := some at0 }
        (g.openClause hd at0 h.lanes,
         if va = at0.toNat + 8 then
           { iss with addr := at0 + 8, words := 2, pfx := match codeAt s c b (at0 + 4) with
             | .ok p => decodePfx p
             | .error _ => none }
         else iss)
  else (g, h.iss)

/-- A stalled word fails as a permission failure: *access-violation* at the address of the walk that met the entry (R350). A binding whose
record cannot be read traps on no path: it gives 0 (R271, R274; log entry 35). -/
def State.failWord (s : State) (c gi id key : Nat) : State :=
  match s.block? c with
  | none => s
  | some b =>
    match b.gangs[gi]? with
    | none => s
    | some g =>
      match g.heldOf id with
      | none => s
      | some h =>
        match h.kind with
        | .fault ws work =>
          match ws.find? (fun w => w.1 == key), work with
          | none, _ => s.redo c gi id
          | some _, some (.bind d _ _) =>
            let s1 : State := { s.setGang c gi (g.unhold id h.lanes) with cur := h.iss }
            (stateOf s1 (withCtx s1 (fun x => .next (x.bindResult s1 d 0)))).forgetReq c gi id
          | some (_, lane, info), _ =>
            let (g1, iss) := (g.unhold id h.lanes).openFor s c b h (info % 2 ^ 56)
            ((s.setGang c gi g1).trapAt c gi iss h.lanes none
              { cause := Cause.accessViolation, lane := lane, info := info }).forgetReq c gi id
        | _ => s

/-- A command fails as a permission failure (R258, R350): its transfer with cause 0x04, its completion update with 0x09; a counter
that its aborting program cannot mark is passed over (R270). -/
def State.failStalled (s : State) (id : Nat) : State :=
  match s.command? id with
  | none => s
  | some c =>
    if c.finished then
      let c1 := { c with failure := some 9, stalled := false }
      ((s.setCommand c1).failQueue c1 9).retireCommand c1
    else
      match c.coll, c.failure with
      | some _, some x => s.failColl c x true
      | some _, none => (c.stepFree s).failColl c 4
      | none, _ =>
        if c.kind = .coll then s.failColl { c with coll := c.partColl s } 4 else (c.leaveFree s).failCommand c 4

/-- An intake stage fails as a permission failure: its message is to be quarantined (R282, R350). -/
def State.failStream (s : State) (t h : Nat) (st : IntakeStage) : State :=
  match (s.tower t).stream? h with
  | none => s
  | some x =>
    match x.stalled.find? (·.1 == st) with
    | none => s
    | some (_, f) =>
      let s1 := s.modStream t h (fun y => { y with stalled := y.stalled.filter (·.1 != st) })
      match x.msg with
      | some m =>
        s1.setMsg t h { m with fault := some (m.fault.getD f), noStatus := m.noStatus || st == .close, decodeDone := true }
      | none =>
        match x.inQ with
        | [] => s1
        | e :: _ => s1.beginMsg t h { emptyMsg e with fault := some f }

/-- The entry on which the Teller of a core stalls is discarded, and later entries go on (R353). -/
def State.failTeller (s : State) (c : Nat) : State :=
  match s.block? c with
  | none => s
  | some b =>
    if !b.tellerStall then s
    else
      let s1 := s.wakeTeller c
      match sortBy TellerEntry.before (b.teller.filter (fun e => decide (e.flush = b.tfl))) with
      | [] => s1
      | e :: _ => (s1.discardEntry c e).dropEntry c e

/-- A requester fails (R350, fail). -/
def State.failReq (s : State) (t key : Nat) : Requester → State
  | .word c g id => s.failWord c g id key
  | .fetch c g id => s.failWord c g id key
  | .command id => s.failStalled id
  | .intake h st => s.failStream t h st
  | .teller c => s.failTeller c

/-! ### FBDONE and REPLAY (R350, R352) -/

/-- A record is freed, with its entry, and every requester of it is acted on (R350). A write for an entry not valid is ignored. -/
def freeRecord (s : State) (t e : Nat) (act : State → Nat → Requester → State) : State :=
  match (s.tower t).faults.find? (fun r => r.entry == some e) with
  | none => s
  | some r =>
    let s1 := s.modTower t (fun x => { x with faults := x.faults.filter (fun y => y.key != r.key) })
    r.reqs.foldl (fun s q => act s r.key q) s1

/-- `FBDONE_RETRY` (R350). -/
def execFbdoneRetry (tower entry : Nat) (s : State) : Out := .next (freeRecord s tower entry (fun s _ q => s.retry tower q))

/-- `FBDONE_FAIL` (R350). -/
def execFbdoneFail (tower entry : Nat) (s : State) : Out := .next (freeRecord s tower entry (fun s k q => s.failReq tower k q))

/-- The stalled words of a gang, by their numbers. -/
def Gang.stalls (g : Gang) : List Nat :=
  (g.held.filter (fun h => match h.kind with | .fault _ _ => true | _ => false)).map (·.id)

/-- The stalled words of the gangs of a tower: core, gang and number. -/
def State.stallsOf (s : State) (t : Nat) : List (Nat × Nat × Nat) :=
  (List.range s.cores.length).flatMap (fun c =>
    if towerOf c = t then
      (s.block? c).elim [] (fun b => (b.gangs.mapIdx (fun gi g => g.stalls.map (fun id => (c, gi, id)))).flatten)
    else [])

/-- Every requester on a tower walks again (R352): also one that joined no record. -/
def State.replayTower (s : State) (t : Nat) : State :=
  let s1 : State := { s with
    cores := s.cores.mapIdx (fun c (x : Core) =>
      if towerOf c = t then { x with block := x.block.map (fun b => { b with tellerStall := false }) } else x)
    commands := s.commands.map (fun (c : Command) => if towerOf c.core = t then { c with stalled := false } else c)
    towers := modAt s.towers t (fun x => { x with
      faults := [], dropped := false, streams := x.streams.map (fun y => { y with stalled := [] }) }) }
  (s.stallsOf t).foldl (fun s w => s.redo w.1 w.2.1 w.2.2) s1

/-- `REPLAY` (R352). -/
def execReplay (tower : Nat) (s : State) : Out := .next (s.replayTower tower)

/-! ### The registers that are read (R349, R351) -/

/-- The word of a bit. -/
def bitWord (b : Bool) (n : Nat) : Nat := if b then 2 ^ n else 0

/-- The record that holds a fault buffer entry. -/
def Tower.entry (t : Tower) (e : Nat) : Option FaultRec := t.faults.find? (fun r => r.entry == some e)

/-- A read of FBSTAT (R351). -/
def Tower.fbstat (t : Tower) : Nat :=
  ((List.range 8).map (fun e => bitWord (t.entry e).isSome e)).sum + bitWord t.dropped 8 + t.faults.length * 2 ^ 16

/-- A read of word `i` of a fault buffer entry (R349): 0 where the entry is not in use. -/
def Tower.fbent (t : Tower) (e i : Nat) : Nat :=
  match t.entry e with
  | none => 0
  | some r =>
    match i with
    | 0 => 2 ^ 63 + r.page % 2 ^ 40 * 2 ^ 16 + r.asid.toNat
    | 1 => min r.count 65535 * 2 ^ 32 + r.srcno % 32 * 2 ^ 16 + r.src % 16 * 2 ^ 12 + r.acc % 4 * 2 ^ 8 + r.level % 8 * 2 ^ 4 + r.kind % 16
    | 2 => r.key % 2 ^ 52
    | _ => 0

/-- A read of INVSTAT (R347, R351). -/
def State.invstat (s : State) : Nat := bitWord s.inval.isSome 0

/-! ### Invalidation (R346, R347) -/

/-- A TLBINV write: ignored while INVSTAT[0] is 1. -/
def State.invalidate (s : State) (scope : Option (BitVec 16 × Option Nat)) : State :=
  if s.inval.isSome then s else { s with inval := some scope }

/-- `TLBINV_ALL` (R347). -/
def execTlbinvAll (s : State) : Out := .next (s.invalidate none)
/-- `TLBINV_ASID` (R347). -/
def execTlbinvAsid (asid : BitVec 16) (s : State) : Out := .next (s.invalidate (some (asid, none)))
/-- `TLBINV_PAGE` (R347). -/
def execTlbinvPage (asid : BitVec 16) (page : BitVec 40) (s : State) : Out := .next (s.invalidate (some (asid, some page.toNat)))

/-- The scope of an invalidation takes in a held entry: of one page, at every level (R347). -/
def TlbEntry.removed (x : TlbEntry) : Option (BitVec 16 × Option Nat) → Bool
  | none => true
  | some (a, none) => x.asid == a
  | some (a, some p) => x.asid == a && x.page == pageAt (p * 2 ^ 16) x.level

/-- A translation in a context used an entry of the scope of an invalidation: the topmost entry that it used serves the page named, and so
does each one below it that does (R347). -/
def viaScope (scope : Option (BitVec 16 × Option Nat)) (asid : BitVec 16) (via : Nat × Nat) : Bool :=
  (TlbEntry.mk asid via.1 via.2 0).removed scope

/-- The operation has an access to make whose translation used an entry of the scope (R347). -/
def Op.translated (o : Op) (scope : Option (BitVec 16 × Option Nat)) : Bool :=
  o.todo.any (fun x => (match x.spot with | .vm _ => true | _ => false) && o.asid.any (fun a => viaScope scope a x.via))

/-- The held word has accesses to make, translated at its issue, that used an entry of the scope (R347): it reads peer memory, is a Toss
word, or is a drain to virtual memory; what a deterministic launch stages is translated when it is applied. -/
def HeldKind.translated (cfg : BlockCfg) (scope : Option (BitVec 16 × Option Nat)) : HeldKind → Bool
  | .peer o _ => o.translated scope
  | .toss j => j.vias.any (viaScope scope cfg.asid)
  | .drain j => !cfg.det && j.vias.any (viaScope scope cfg.asid)
  | _ => false

/-- Accesses of a block are under way whose translations used an entry of the scope (R347). -/
def Block.translating (b : Block) (scope : Option (BitVec 16 × Option Nat)) : Bool :=
  b.gangs.any (fun g => g.ops.any (·.translated scope) || g.held.any (fun h => h.kind.translated b.cfg scope))

/-- The entries of the scope leave every TLB (R347). -/
def State.dropHeld (s : State) (scope : Option (BitVec 16 × Option Nat)) : State :=
  { s with
    cores := s.cores.map (fun k => { k with tlb := k.tlb.filter (fun x => !x.removed scope) })
    towers := s.towers.map (fun t => { t with tlb := t.tlb.filter (fun x => !x.removed scope) }) }

/-- `INVALIDATION_COMPLETE`, if it can happen (R347). -/
def tryInvalidationComplete (s : State) : Option State :=
  s.inval.bind (fun scope =>
    if s.cores.any (fun k => k.block.any (·.translating scope)) then none
    else some { s.dropHeld scope with inval := none })

/-- `INVALIDATION_COMPLETE` (R347). -/
def execInvalidationComplete (s : State) : Out := happens s (tryInvalidationComplete s)

end Sys2Proof.Machine
end

