-- ==== Sys2Proof/Machine/Ring.lean ====
section
/-! DEFINITION. Reading the host-to-device ring, and what every host message has in common (R358, R360). -/
namespace Sys2Proof.Machine

/-! ### The host-to-device ring (R358) -/

/-- The eight words of the ring entry with sequence number `q` (R358). -/
def State.ringEntry (s : State) (q : Word) : List Word :=
  let a := s.mailbox.h2dbase.toNat + 64 * (q.toNat % 2 ^ s.mailbox.h2dsize)
  (List.range 8).map (fun i => BitVec.ofNat 64 (memNat s.hostMem (a + 8 * i) 8))

/-- The entry the device reads next: its sequence number and its words, if the device reads (R358, R371). -/
def State.nextEntry (s : State) : Option (Word × List Word) :=
  let m := s.mailbox
  if m.ready && !m.stopped && decide (m.h2ddone.toNat < m.h2dtail.toNat) then some (m.h2ddone + 1, s.ringEntry (m.h2ddone + 1))
  else none

/-- A response (R360): status and request sequence, with the words from W3 on. -/
def State.respond (s : State) (seq : Word) (status : Nat) (rest : List Nat) : State :=
  s.post (message 0x81 (status * 2 ^ 8) (seq.toNat :: rest))

/-- A message's effect has been made: H2DDONE advances, and the response is written (R358, R360). -/
def State.completeEntry (s : State) (seq : Word) (status : Nat) (rest : List Nat) : State :=
  ({ s with mailbox := { s.mailbox with h2ddone := seq } } : State).respond seq status rest

/-- Entries that have no effect of their own: a wrong sequence number stops the reading with status 5, and a kind that is not
assigned gets status 1 (R358, R360). -/
def State.skim : Nat → State → State
  | 0, s => s
  | n + 1, s =>
    match s.nextEntry with
    | none => s
    | some (q, w) =>
      if w.getD 0 0 ≠ q then
        (({ s with mailbox := { s.mailbox with stopped := true } } : State).respond q 5 [])
      else if bitsOf (w.getD 1 0).toNat 7 0 = 0 ∨ 9 < bitsOf (w.getD 1 0).toNat 7 0 then State.skim n (s.completeEntry q 1 [])
      else s

/-- All of them that come next: no more than a ring holds. -/
def State.skimRing (s : State) : State := s.skim 4096

/-- A host message event, if it can happen: the next entry must be of the kind; its effect gives the state, the status and the
response's words. -/
def hostMessage (kind : Nat) (effect : List Nat → State → State × Nat × List Nat) (s : State) : Option State :=
  match s.nextEntry with
  | none => none
  | some (q, w) =>
    if w.getD 0 0 ≠ q ∨ bitsOf (w.getD 1 0).toNat 7 0 ≠ kind then none
    else
      let (s1, status, rest) := effect (w.map (·.toNat)) s
      some (s1.completeEntry q status rest).skimRing

/-- Word `i` of an entry. -/
def wordOf (w : List Nat) (i : Nat) : Nat := w.getD i 0

end Sys2Proof.Machine
end

