-- ==== Sys2Proof/Machine/Xmss.lean ====
section
/-! DEFINITION. The published functions that R374 to R376 name: SHAKE256 with a 256-bit output, and XMSS with it as its hash
(NIST SP 800-208, RFC 8391; log entry 30): verification, and the signature of the module's own key. -/
namespace Sys2Proof.Machine

/-! ### SHAKE256 -/

/-- A sponge state of 25 words: word (x, y) at place 5 y + x. -/
abbrev Sponge := List Word

/-- The word at (x, y), the coordinates taken modulo 5. -/
def Sponge.at (a : Sponge) (x y : Nat) : Word := a.getD (y % 5 * 5 + x % 5) 0

/-- The state whose word (x, y) is `f x y`. -/
def spongeOf (f : Nat → Nat → Word) : Sponge := (List.range 25).map (fun i => f (i % 5) (i / 5))

/-- Step theta: every word takes in the parity of the column before it, and of the one behind it turned by one bit. -/
def Sponge.theta (a : Sponge) : Sponge :=
  let parity := fun (x : Nat) => a.at x 0 ^^^ a.at x 1 ^^^ a.at x 2 ^^^ a.at x 3 ^^^ a.at x 4
  let change := (List.range 5).map (fun x => parity (x + 4) ^^^ (parity (x + 1)).rotateLeft 1)
  spongeOf (fun x y => a.at x y ^^^ change.getD x 0)

/-- Steps rho and pi together, from the place (x, y) and the turn number `t` on, `n` turns: the word moves to (y, 2 x + 3 y), turned by
the t-th triangular number of bits, and the next turn takes the word of the place it has come to. -/
def Sponge.scatter (a : Sponge) : Nat → Nat → Nat → Nat → Sponge → Sponge
  | 0, _, _, _, b => b
  | n + 1, t, x, y, b =>
    let v := (2 * x + 3 * y) % 5
    a.scatter n (t + 1) y v (b.set (v * 5 + y) ((a.at x y).rotateLeft (t * (t + 1) / 2 % 64)))

/-- Step chi. -/
def Sponge.chi (a : Sponge) : Sponge := spongeOf (fun x y => a.at x y ^^^ (~~~a.at (x + 1) y &&& a.at (x + 2) y))

/-- One shift of the register that gives the bits of the round constants, as a number below 256. -/
def rcShift (r : Nat) : Nat := if r < 128 then 2 * r else (2 * r) ^^^ 0x171

/-- The bits of a round constant at the places 2^j - 1 for j from `j` on, `n` of them, and the register after them. -/
def rcBits : Nat → Nat → Nat → Nat × Nat
  | 0, _, r => (0, r)
  | n + 1, j, r =>
    let rest := rcBits n (j + 1) (rcShift r)
    (r % 2 * 2 ^ (2 ^ j - 1) + rest.1, rest.2)

/-- `n` rounds of the permutation, with the register of the round constants. -/
def keccakRounds : Nat → Nat → Sponge → Sponge
  | 0, _, a => a
  | n + 1, r, a =>
    let c := rcBits 7 0 r
    let b := a.theta
    let d := (b.scatter 24 1 1 0 b).chi
    keccakRounds n c.2 (d.set 0 (d.at 0 0 ^^^ BitVec.ofNat 64 c.1))

/-- The permutation of 24 rounds (FIPS 202). -/
def keccak (a : Sponge) : Sponge := keccakRounds 24 1 a

/-- Absorbing `n` blocks of 136 bytes. -/
def absorb : Nat → List Byte → List Word → List Word
  | 0, _, a => a
  | n + 1, bs, a =>
    absorb n (bs.drop 136) (keccak (a.mapIdx (fun i w => if i < 17 then w ^^^ BitVec.ofNat 64 (ofLeBytes ((bs.drop (8 * i)).take 8)) else w)))

/-- The padding of a message to whole blocks. -/
def shakePad (bs : List Byte) : List Byte :=
  let z := 135 - bs.length % 136
  if z = 0 then bs ++ [0x9F] else bs ++ [0x1F] ++ List.replicate (z - 1) 0 ++ [0x80]

/-- SHAKE256 of a message, 256 bits of output (R374, R375). -/
def shake256 (bs : List Byte) : List Byte :=
  ((absorb (bs.length / 136 + 1) (shakePad bs) (List.replicate 25 0)).take 4).flatMap (fun w => leBytes 8 w.toNat)

/-! ### The keyed functions and addresses of XMSS -/

/-- A number in big-endian bytes. -/
def beBytes (n v : Nat) : List Byte := (leBytes n v).reverse

/-- The keyed function with prefix `x`: 0 for chains, 1 for nodes, 2 for messages, 3 for keys and masks. -/
def xmssHash (x : Nat) (key m : List Byte) : List Byte := shake256 (beBytes 32 x ++ key ++ m)

/-- Two strings of bytes, added bit by bit. -/
def xorBytes (a b : List Byte) : List Byte := List.zipWith (· ^^^ ·) a b

/-- A hash address: the type (0 one-time key, 1 its tree, 2 the hash tree) and its last four words. -/
def xmssAddr (type a b c d : Nat) : List Byte := List.replicate 12 0 ++ [type, a, b, c, d].flatMap (beBytes 4)

/-- `n` steps of a chain from its step `i`: the one-time key `leaf`, the chain `ch`. -/
def wotsChain (seed : List Byte) (leaf ch : Nat) : Nat → Nat → List Byte → List Byte
  | 0, _, x => x
  | n + 1, i, x =>
    let key := xmssHash 3 seed (xmssAddr 0 leaf ch i 0)
    let mask := xmssHash 3 seed (xmssAddr 0 leaf ch i 1)
    wotsChain seed leaf ch n (i + 1) (xmssHash 0 key (xorBytes x mask))

/-- The parent of two nodes, at an address without its last word. -/
def xmssNode (seed : List Byte) (type a b c : Nat) (l r : List Byte) : List Byte :=
  let h := fun (k : Nat) => xmssHash 3 seed (xmssAddr type a b c k)
  xmssHash 1 (h 0) (xorBytes l (h 1) ++ xorBytes r (h 2))

/-- One level of a one-time key's tree: neighbours joined, an odd last one kept. -/
def ltreeLevel (seed : List Byte) (leaf height : Nat) : Nat → List (List Byte) → List (List Byte)
  | i, l :: r :: rest => xmssNode seed 1 leaf height i l r :: ltreeLevel seed leaf height (i + 1) rest
  | _, xs => xs

/-- The root of a one-time key's tree; `fuel` levels of it are left. -/
def ltree (seed : List Byte) (leaf : Nat) : Nat → Nat → List (List Byte) → List Byte
  | 0, _, xs => xs.headD []
  | fuel + 1, height, xs => if xs.length ≤ 1 then xs.headD [] else ltree seed leaf fuel (height + 1) (ltreeLevel seed leaf height 0 xs)

/-- The 67 digits that a message hash and its checksum give, of four bits each. -/
def wotsDigits (m : List Byte) : List Nat :=
  let ds : List Byte → List Nat := fun bs => bs.flatMap (fun b => [b.toNat / 16, b.toNat % 16])
  let d := ds m
  d ++ (ds (beBytes 2 (16 * (d.map (15 - ·)).sum))).take 3

/-- The leaf of a one-time key from the values of its chains, each at the step its digit names. -/
def wotsLeaf (seed : List Byte) (leaf : Nat) (digits : List Nat) (sig : List (List Byte)) : List Byte :=
  ltree seed leaf 8 0 ((digits.zip sig).mapIdx (fun c p => wotsChain seed leaf c (15 - p.1) p.1 p.2))

/-- The root over a leaf's node and its path; `k` is the height of the node. -/
def rootFrom (seed : List Byte) (idx : Nat) : Nat → List Byte → List (List Byte) → List Byte
  | _, node, [] => node
  | k, node, p :: path =>
    let up := fun (l r : List Byte) => xmssNode seed 2 0 k (idx / 2 ^ (k + 1)) l r
    rootFrom seed idx (k + 1) (if idx / 2 ^ k % 2 = 0 then up node p else up p node) path

/-- The `n` strings of 32 bytes from a place. -/
def hashesAt (bs : List Byte) (o n : Nat) : List (List Byte) := (List.range n).map (fun i => (bs.drop (o + 32 * i)).take 32)

/-- The hash of a message that a signature with an index and a randomiser signs. -/
def messageHash (r root : List Byte) (idx : Nat) (m : List Byte) : List Byte := xmssHash 2 (r ++ root ++ beBytes 32 idx) m

/-- XMSS-SHAKE256_10_256 verification (R375): `pk` holds OID, root and SEED; `sig` the index, the randomiser, 67 chain values and the
path of ten nodes. -/
def xmssVerifies (pk m sig : List Byte) : Bool :=
  let root := (pk.drop 4).take 32
  let seed := (pk.drop 36).take 32
  let idx := ofLeBytes (sig.take 4).reverse
  let digits := wotsDigits (messageHash ((sig.drop 4).take 32) root idx m)
  rootFrom seed idx 0 (wotsLeaf seed idx digits (hashesAt sig 36 67)) (hashesAt sig 2180 10) == root

/-! ### Firmware images (R374, R375) -/

/-- The first `n` bytes of a string, with zeros where it is shorter. -/
def fitBytes (n : Nat) (bs : List Byte) : List Byte := bs.take n ++ List.replicate (n - bs.length) 0

/-- The number in `n` bytes of an image at an offset. -/
def imgNat (b : List Byte) (o n : Nat) : Nat := ofLeBytes ((b.drop o).take n)

/-- An image, header and body, passes R374 and R375. -/
def imagePasses (img : List Byte) (fused : Nat) : Bool :=
  let h := img.take 4096
  let pk := (h.drop 48).take 68
  decide (4096 ≤ img.length) && imgNat h 0 4 == 0x464B594E && decide (imgNat h 4 4 ≤ 63) && decide (fused ≤ imgNat h 4 4)
    && imgNat h 8 4 + 4096 == img.length && imgNat h 12 4 == 0 && shake256 (img.drop 4096) == (h.drop 16).take 32
    && imgNat h 116 12 == 0 && imgNat h 2628 1468 == 0
    && shake256 pk == fitBytes 32 (Config.fusedKeyHash 0)
    && xmssVerifies pk (h.take 128) ((h.drop 128).take 2500)

/-- The security version of an image (R374). -/
def imageSvn (img : List Byte) : Nat := imgNat img 4 4

/-- The digest of an image's body (R374). -/
def imageDigest (img : List Byte) : List Byte := fitBytes 32 ((img.drop 16).take 32)

/-! ### The module's own key (R376): its secret is a free value -/

/-- The SEED of the attestation key. -/
def attestSeed : List Byte := fitBytes 32 Config.attestSeed

/-- The start of a chain of a one-time key. -/
def attestSecret (leaf ch : Nat) : List Byte := fitBytes 32 (Config.attestSecret leaf ch)

/-- The node of the hash tree at a height. -/
def attestNode : Nat → Nat → List Byte
  | 0, i => wotsLeaf attestSeed i (List.replicate 67 0) ((List.range 67).map (attestSecret i))
  | h + 1, i => xmssNode attestSeed 2 0 h i (attestNode h (2 * i)) (attestNode h (2 * i + 1))

/-- The XMSS-SHAKE256_16_256 signature with an index (R376): 2 692 bytes. -/
def attestSign (idx : Nat) (m : List Byte) : List Byte :=
  let r := xmssHash 3 (fitBytes 32 Config.attestPrf) (beBytes 32 idx)
  let digits := wotsDigits (messageHash r (attestNode 16 0) idx m)
  beBytes 4 idx ++ r ++ (digits.mapIdx (fun c d => wotsChain attestSeed idx c d 0 (attestSecret idx c))).flatten
    ++ ((List.range 16).map (fun j => attestNode j (idx / 2 ^ j ^^^ 1))).flatten

end Sys2Proof.Machine
end

