-- ==== Sys2Proof/Machine/Bringup.lean ====
section
/-! DEFINITION. Bring-up (R370 to R372), a module reset (R359), and the end of every launch at a link failure or a thermal trip
(R363, R379). -/
namespace Sys2Proof.Machine

/-! ### Killing launches (R323, R331) -/

/-- A launch that has passed step 4 is killed at a request: every started block of it, with kill source 2 (R323, R331). -/
def State.killLaunch (s : State) (lid : Nat) : State :=
  let (s1, ns) := (List.range s.cores.length).foldl (fun (acc : State × List Notice) c =>
    match acc.1.block? c with
    | none => acc
    | some b => if b.cfg.lid = lid then
        let (s', ms) := acc.1.killBlock c ⟨b.cfg.index, [], 2⟩
        (s', acc.2 ++ ms) else acc) (s, [])
  let (s2, ms) := s1.dropSaved lid
  let s3 := State.deliver deliverFuel (ns ++ ms) s2
  match s3.launch? lid with
  | none => s3
  | some l =>
    let s4 := match l.kill with
      | some _ => s3
      | none => s3.setLaunch { l with kill := some ⟨0, [], 2⟩ }
    s4.checkLaunch lid

/-- Every live launch of every partition is killed (R363, R379). -/
def State.killAll (s : State) : State :=
  (s.launches.filter (fun l => l.phase == .running)).foldl (fun s l => s.killLaunch l.id) s

/-! ### A module reset (R359, R372) -/

/-- The EPOCH after a reset: nonzero and not the one before it (R357, R359). -/
def nextEpoch (old : Word) (fresh : Word) : Word :=
  if fresh ≠ 0 ∧ fresh ≠ old then fresh else if old + 1 ≠ 0 then old + 1 else 1

/-- A tower after a module reset: its bring-up record, the stages it does not run again, and its retirement are in persistent store (R366, R372). -/
def Tower.afterReset (t : Tower) : Tower := { bringUp := t.bringUp, barred := t.barred, keptChannel := t.keptChannel }

/-- A module reset: launches, partitions and messages are gone, EPOCH has changed, and every tower starts again (R359, R372).
The bank of a staged image becomes the active one (R373). Memory keeps its contents (log entry 29). -/
def State.resetModule (s : State) : State :=
  let k := s.security
  let sec := if k.staged then { k with active := 1 - k.active, staged := false } else k
  { State.reset with
    part := s.part, mem := s.mem, failing := s.failing, hostMem := s.hostMem, peerMem := s.peerMem,
    cores := s.cores.map (fun c => { keptMap := c.keptMap }),
    towers := s.towers.map Tower.afterReset,
    mailbox := { epoch := nextEpoch s.mailbox.epoch (Config.freshEpoch s.freshCount) },
    security := sec, turns := s.turns, freshCount := s.freshCount + 1 }

/-- `MODULE_RESET` (R359). -/
def execModuleReset (s : State) : Out := .next s.resetModule

/-! ### Stages (R370 to R372) -/

/-- The towers of the part, by number. -/
def State.towerNums (s : State) : List Nat := List.range s.part.towers

/-- After four consecutive failures at a stage, the tower does not run it again (R372). -/
def Tower.stuck (t : Tower) : Bool := t.barred.contains t.stage

/-- The tower can never pass stage 4 in this bring-up (R370, R372). -/
def Tower.lost (t : Tower) : Bool := t.stage == 9 || (t.stuck && decide (t.stage ≤ 4))

/-- The persistent retirement and elevator maps are applied (R366, R368, R370 stage 4). -/
def State.applyKept (s : State) (t : Nat) : State :=
  let s1 := s.modTower t (fun x =>
    match x.keptChannel with
    | some c => { x with retired := true, channel := c }
    | none => x)
  { s1 with cores := s1.cores.mapIdx (fun i (c : Core) => if towerOf i = t then { c with spare := c.keptMap.1, grp := c.keptMap.2 } else c) }

/-- A tower comes into service: it has no failure on record any more (R370, R372). -/
def Tower.enter (t : Tower) (stage : Nat) : Tower :=
  { t with inService := true, stage := stage, bringUp := if t.bringUp.step = 7 then t.bringUp else {} }

/-- The image that a tower loads at stage 1 (R370): of the active bank, or of the other. -/
def State.bankOf (s : State) (t : Nat) : List Byte :=
  s.security.banks.getD (if (s.tower t).otherBank then 1 - s.security.active else s.security.active) []

/-- Every tower has passed every stage: full service has been entered (R370). -/
def State.entered (s : State) : Bool := s.towerNums.all (fun t => (s.tower t).stage == 8)

/-- Full service (R370, R371, R375): the fused counter rises to the version of the images that the towers loaded and run. The service tower keeps its
clock until R371's instant. -/
def State.fullService (s : State) : State :=
  if s.entered then
    { s with security := { s.security with
      fusedSvn := s.towerNums.foldl (fun m t => max m (imageSvn (s.tower t).image)) s.security.fusedSvn } }
  else s

/-- The module number and the domain size in their ranges (R20, R361). -/
def fabricOf (p : Nat × Nat) : Nat × Nat := (p.1 % (1 + p.2 % 512), 1 + p.2 % 512)

/-- Stage 7 is done: the module number and the domain size are set (R361, R370). -/
def State.setFabric (s : State) : State :=
  { s with moduleNum := BitVec.ofNat 9 (fabricOf Config.fabricNumbers).1, domainSize := (fabricOf Config.fabricNumbers).2 }

/-- A stage is passed (R370). -/
def State.passStage (s : State) (t : Nat) : State :=
  let x := s.tower t
  match x.stage with
  | 1 => s.modTower t (fun x => { x with stage := 2, image := s.bankOf t })
  | 4 => (s.applyKept t).modTower t (fun x => { x with stage := 5 })
  | 5 =>
    if s.towerNums.any (fun i => (s.tower i).inService) then s.modTower t (fun x => { x with stage := 6 })
    else
      let s1 := s.modTower t (fun x => x.enter 7)
      ({ s1 with mailbox := { s1.mailbox with ready := true, reduced := true } } : State).pump.skimRing
  | 6 => s.modTower t (fun x => { x.enter 7 with mhz := 3000 })
  | 7 => ((s.modTower t (fun x => { x with stage := 8, bringUp := {} })).setFabric).fullService
  | n => s.modTower t (fun x => { x with stage := n + 1 })

/-- A bring-up record after a failure at stage `n` (R372). -/
def BringUp.fail (b : BringUp) (n : Nat) (detail : BitVec 16) : BringUp :=
  let before := if b.step = n then b.tries else 0
  ⟨min 255 (before + 1), n, before % 4, detail⟩

/-- A stage is failed (R370, R372): a failure at stages 2 to 6 starts the tower again from stage 2, one at stage 7 from there. -/
def State.failStage (s : State) (t : Nat) (detail : BitVec 16) : State :=
  let x := s.tower t
  match x.stage with
  | 0 => s.modTower t (fun x => { x with stage := 9 })
  | 1 => s.modTower t (fun x => if x.otherBank then { x with stage := 9 } else { x with otherBank := true })
  | n =>
    s.modTower t (fun x =>
      let b := x.bringUp.fail n detail
      let bar := decide (4 ≤ b.tries)
      { x with bringUp := b, barred := if bar then n :: x.barred else x.barred, stage := if n = 7 then 7 else if bar then n else 2 })

/-- STATUS[2] once no tower can pass stage 4 (R372). -/
def State.checkLost (s : State) : State :=
  if s.towerNums.all (fun t => (s.tower t).lost) then { s with mailbox := { s.mailbox with fatal := true } } else s

/-- `BRINGUP_STAGE_COMPLETE`, if it can happen (R370, R372): stage 1 passes if the image does (R375). Stage 5 is that of the lowest-numbered tower to have passed stage 4, and cannot fail. -/
def tryBringupStageComplete (tower : Nat) (passed : Bool) (detail : BitVec 16) (s : State) : Option State :=
  let x := s.tower tower
  if s.part.towers ≤ tower ∨ 8 ≤ x.stage ∨ x.stuck then none
  else if x.stage = 1 ∧ passed ≠ imagePasses (s.bankOf tower) s.security.fusedSvn then none
  else if passed then
    if x.stage = 5 ∧ s.towerNums.any (fun i => decide (i < tower) && decide (5 ≤ (s.tower i).stage) && (s.tower i).stage != 9)
        ∧ !s.towerNums.any (fun i => (s.tower i).inService) then
      none
    else some (s.passStage tower).checkLost
  else if x.stage = 5 then none
  else some (s.failStage tower detail).checkLost

/-- `BRINGUP_STAGE_COMPLETE` (R370, R372). -/
def execBringupStageComplete (tower : Nat) (passed : Bool) (detail : BitVec 16) (s : State) : Out := happens s (tryBringupStageComplete tower passed detail s)

/-- The service tower: the one whose clock is still that of reduced service (R371). -/
def State.serviceTower (s : State) : Option Nat :=
  s.towerNums.find? (fun t => (s.tower t).inService && (s.tower t).mhz == 1500)

/-- A bind record of a tower reads running (R366, R371). -/
def State.towerRuns (s : State) (t : Nat) : Bool :=
  (s.cores.mapIdx (fun c (k : Core) => towerOf c == t && k.bind == .running)).any (fun x => x)

/-- `SERVICE_CLOCK_RISE`, if it can happen (R371): in full service, with no record of the service tower running. -/
def tryServiceClockRise (s : State) : Option State :=
  match s.serviceTower with
  | none => none
  | some t =>
    if s.entered && s.mailbox.reduced && !s.towerRuns t then
      let s1 := s.modTower t (fun x => { x with mhz := 3000 })
      some { s1 with mailbox := { s1.mailbox with reduced := false } }
    else none

/-- `SERVICE_CLOCK_RISE` (R371). -/
def execServiceClockRise (s : State) : Out := happens s (tryServiceClockRise s)

/-! ### Links and heat (R363, R377 to R379) -/

/-- `LANE_REPAIR`, if it can happen (R363): a repair, or the fall to half width, which of them being open (log entry 9); logged as kind 6. -/
def tryLaneRepair (tower peer : Nat) (s : State) : Option State :=
  if tower < s.part.towers ∧ peer < s.part.towers ∧ tower ≠ peer then
    let half := Config.freeChoice s.freshCount
    let s1 := { s with freshCount := s.freshCount + 1 }
    let s2 := if half then s1.modTower tower (fun x => { x with linkHalf := x.linkHalf ||| BitVec.ofNat 8 (2 ^ peer) }) else s1
    some (s2.log tower { kind := 6, loc := peer })
  else none

/-- `LANE_REPAIR` (R363). -/
def execLaneRepair (tower peer : Nat) (s : State) : Out := happens s (tryLaneRepair tower peer s)

/-- `LINK_DOWN`, if it can happen (R363): STATUS[2], every live launch killed, and kind 7 logged. -/
def tryLinkDown (tower peer : Nat) (s : State) : Option State :=
  if tower < s.part.towers ∧ peer < s.part.towers ∧ tower ≠ peer then
    let s1 := s.modTower tower (fun x => { x with linkDown := x.linkDown ||| BitVec.ofNat 8 (2 ^ peer) })
    let s2 := { s1 with mailbox := { s1.mailbox with fatal := true } }
    some (s2.killAll.log tower { kind := 7, loc := peer })
  else none

/-- `LINK_DOWN` (R363). -/
def execLinkDown (tower peer : Nat) (s : State) : Out := happens s (tryLinkDown tower peer s)

/-- `FLIT_CRC_RETRY` (R364): no effect on any value or order. -/
def execFlitCrcRetry (_tower : Nat) (s : State) : Out := .next s

/-- The duty of a tower after a millisecond (R378). -/
def dutyAfter (hot : Bool) (d : Nat) : Nat := if hot then max 1 (d - 1) else min 16 (d + 1)

/-- `DUTY_TICK`, if it can happen (R377, R378): a millisecond ends; `power` and `tj` are what PWRNOW and TJNOW then read. -/
def tryDutyTick (power : BitVec 16) (tj : List Byte) (s : State) : Option State :=
  if tj.length ≠ 8 then none
  else
    let low := s.towerNums.any (fun t => decide ((s.tower t).duty < 16))
    let upd := fun (t : Nat) (x : Tower) =>
      let j := tj.getD t 0
      { x with tj := j, duty := dutyAfter (decide (s.pwrlim < power.toNat) || decide (s.tlim < j.toNat)) x.duty }
    some { s with
      pwrnow := power
      thrcnt := s.thrcnt + low.toNat
      towers := s.towers.mapIdx (fun t x => if t < s.part.towers then upd t x else x) }

/-- `DUTY_TICK` (R377, R378). -/
def execDutyTick (power : BitVec 16) (tj : List Byte) (s : State) : Out := happens s (tryDutyTick power tj s)

/-- `THRCNT_CLEAR` (R377). -/
def execThrcntClear (s : State) : Out := .next { s with thrcnt := 0 }

/-- `THERMAL_TRIP`, if it can happen (R379): a junction at or above 110 °C. -/
def tryThermalTrip (tower : Nat) (s : State) : Option State :=
  if s.part.towers ≤ tower ∨ (s.tower tower).tj.toNat < 110 then none
  else
    let s1 := { s with mailbox := { s.mailbox with fatal := true } }
    let s2 := s1.killAll
    some (({ s2 with towers := s2.towers.map (fun t => { t with clockStopped := true }) } : State).log tower { kind := 10, loc := tower })

/-- `THERMAL_TRIP` (R379). -/
def execThermalTrip (tower : Nat) (s : State) : Out := happens s (tryThermalTrip tower s)

end Sys2Proof.Machine
end

