-- ==== Sys2Proof/Machine/CrossLane.lean ====
section
/-! DEFINITION. Cross-lane words: shuffles (R179), votes (R180), gang reductions (R181), mask words (R182), and the queries of
R19 to R22. -/
namespace Sys2Proof.Machine

/-! ### Shuffles (R179) -/

/-- Sub-element number `i` of the gang: element i mod n of lane i div n. -/
def Ctx.linear (c : Ctx) (w : Width) (a : Src) (i : Nat) : Nat := c.elem w a (i / w.elems) (i % w.elems)

/-- A shuffle: `src` gives the linear number of the source, or none for the element's own value. -/
def shuffleWord (s : State) (w : Width) (d : Dst) (a : Src) (extra : List Src) (src : Ctx → Nat → Nat → Option Nat) : Out :=
  elemWord s w d (fun _ => a :: extra) (fun c l e =>
    match src c l e with
    | some i => c.linear w a i
    | none => c.elem w a l e)

/-- `shfl` (R179). -/
def execShfl (w : Width) (d : Dst) (a b : Src) (s : State) : Out :=
  shuffleWord s w d a [b] (fun c l e => some (c.elem w b l e % (32 * w.elems)))
/-- `shfx`; an immediate of 32n or more does not decode (R179). -/
def execShfx (w : Width) (d : Dst) (a : Src) (i : BitVec 8) (s : State) : Out :=
  shuffleWord s w d a [] (fun _ l e => some ((l * w.elems + e) ^^^ i.toNat))
/-- `shup` (R179). -/
def execShup (w : Width) (d : Dst) (a : Src) (i : BitVec 8) (s : State) : Out :=
  shuffleWord s w d a [] (fun _ l e => if i.toNat ≤ l * w.elems + e then some (l * w.elems + e - i.toNat) else none)
/-- `shdn` (R179). -/
def execShdn (w : Width) (d : Dst) (a : Src) (i : BitVec 8) (s : State) : Out :=
  shuffleWord s w d a [] (fun _ l e => if l * w.elems + e + i.toNat < 32 * w.elems then some (l * w.elems + e + i.toNat) else none)

/-! ### Votes (R180) -/

/-- Bits 8l to 8l + 7 of every active lane set from a lane function (R180, R182). -/
def Ctx.setLaneMasks (c : Ctx) (m : MaskNo) (f : Nat → Nat) : Gang :=
  c.g.setMask m (c.lanes.foldl (fun x l => (x &&& ~~~laneMask l) ||| BitVec.ofNat 256 (f l % 256 * 2 ^ (8 * l))) (c.g.mask m))

/-- A vote into a mask: every active lane's bits take the outcome. -/
def voteWord (s : State) (srcs : List Src) (d : MaskNo) (p : Ctx → Bool) : Out :=
  gangWord s (fun c => c.check srcs) (fun c => c.setLaneMasks d (fun _ => if p c then 255 else 0))

/-- A word that gives every active lane one value. -/
def sameWord (s : State) (d : Dst) (v : Ctx → Word) : Out :=
  gangWord s (fun c => c.check [d.src]) (fun c => c.g.writeDst c.iss.active d (fun _ => v c))

/-- `ballot` (R180). -/
def execBallot (d : Dst) (a : MaskNo) (s : State) : Out :=
  sameWord s d (fun c => (laneSet (fun l => c.iss.active.getLsbD l && c.g.cond a l)).setWidth 64)
/-- `vany` (R180). -/
def execVany (d a : MaskNo) (s : State) : Out := voteWord s [] d (fun c => c.lanes.any (c.g.cond a))
/-- `vall` (R180). -/
def execVall (d a : MaskNo) (s : State) : Out := voteWord s [] d (fun c => c.lanes.all (c.g.cond a))
/-- `veq` (R180). -/
def execVeq (d : MaskNo) (a : Src) (s : State) : Out :=
  voteWord s [a] d (fun c => c.lanes.all (fun l => c.read l a == c.read c.low a))
/-- `nact` (R180). -/
def execNact (d : Dst) (s : State) : Out := sameWord s d (fun c => BitVec.ofNat 64 c.lanes.length)
/-- `lfirst` (R180). -/
def execLfirst (d : Dst) (s : State) : Out := sameWord s d (fun c => BitVec.ofNat 64 c.low)

/-! ### Reductions (R181) -/

/-- The leaves: an inactive lane gives the identity (R181). -/
def Ctx.leaves (c : Ctx) (w : Width) (a : Src) (ident : Nat) : List Nat :=
  (List.range (32 * w.elems)).map (fun i => if c.iss.active.getLsbD (i / w.elems) then c.linear w a i else ident)

/-- A gang reduction (R181): every sub-element of the active lanes takes the root. -/
def reduceWord (s : State) (w : Width) (d : Dst) (a : Src) (ident : Nat) (node : Nat → Nat → Nat) : Out :=
  gangWord s (fun c => c.check [d.src, a]) (fun c =>
    let v := treeOf node 6 (c.leaves w a ident)
    c.g.writeDst c.iss.active d (fun _ => BitVec.ofNat 64 (packElems w (List.replicate w.elems v))))

/-- `gadd.f32` (R181). -/
def execGaddF32 (d : Dst) (a : Src) (s : State) : Out := reduceWord s .b32 d a 0x80000000 (fAdd fmtF32 .rne)
/-- `gmax.f32` (R181). -/
def execGmaxF32 (d : Dst) (a : Src) (s : State) : Out := reduceWord s .b32 d a 0xFF800000 (fMax fmtF32)
/-- `gmin.f32` (R181). -/
def execGminF32 (d : Dst) (a : Src) (s : State) : Out := reduceWord s .b32 d a 0x7F800000 (fMin fmtF32)
/-- `gamax.f32` (R181). -/
def execGamaxF32 (d : Dst) (a : Src) (s : State) : Out := reduceWord s .b32 d a 0 fAmaxNode
/-- `gadd.i32` (R181). -/
def execGaddI32 (d : Dst) (a : Src) (s : State) : Out := reduceWord s .b32 d a 0 (fun x y => (x + y) % 2 ^ 32)
/-- `gadd.i64` (R181). -/
def execGaddI64 (d : Dst) (a : Src) (s : State) : Out := reduceWord s .b64 d a 0 (fun x y => (x + y) % 2 ^ 64)

/-! ### Mask words (R182) -/

/-- A mask word on the active lanes' bits. -/
def maskWord (s : State) (d : MaskNo) (f : Gang → MaskBits) : Out :=
  gangWord s (fun _ => .ok ()) (fun c =>
    let m := lanesMask c.iss.active
    c.g.setMask d ((c.g.mask d &&& ~~~m) ||| (f c.g &&& m)))

/-- `mand` (R182). -/
def execMand (d a b : MaskNo) (s : State) : Out := maskWord s d (fun g => g.mask a &&& g.mask b)
/-- `mor` (R182). -/
def execMor (d a b : MaskNo) (s : State) : Out := maskWord s d (fun g => g.mask a ||| g.mask b)
/-- `mxor` (R182). -/
def execMxor (d a b : MaskNo) (s : State) : Out := maskWord s d (fun g => g.mask a ^^^ g.mask b)
/-- `mandn` (R182). -/
def execMandn (d a b : MaskNo) (s : State) : Out := maskWord s d (fun g => g.mask a &&& ~~~g.mask b)
/-- `mnot` (R182). -/
def execMnot (d a : MaskNo) (s : State) : Out := maskWord s d (fun g => ~~~g.mask a)
/-- `mmov` (R182). -/
def execMmov (d a : MaskNo) (s : State) : Out := maskWord s d (fun g => g.mask a)
/-- `mone` (R182). -/
def execMone (d : MaskNo) (s : State) : Out := maskWord s d (fun _ => BitVec.allOnes 256)
/-- `mzero` (R182). -/
def execMzero (d : MaskNo) (s : State) : Out := maskWord s d (fun _ => 0)
/-- The eight bits of a lane of a mask, as a number. -/
def laneByte (m : MaskBits) (l : Nat) : Nat := m.toNat / 2 ^ (8 * l) % 256
/-- `mget` (R182). -/
def execMget (d : Dst) (a : MaskNo) (s : State) : Out :=
  gangWord s (fun c => c.check [d.src]) (fun c =>
    c.g.writeDst c.iss.active d (fun l => BitVec.ofNat 64 (laneByte (c.g.mask a) l)))
/-- `mlet` (R182). -/
def execMlet (d : MaskNo) (a : Src) (s : State) : Out :=
  gangWord s (fun c => c.check [a]) (fun c => c.setLaneMasks d (fun l => (c.read l a).toNat))

/-! ### Queries (R19 to R22) -/

/-- What a query may see beside its gang: the module, the core and the block. -/
structure Place where
  st : State
  core : Nat
  gnid : Nat
  blk : Block
  g : Gang

/-- The canonical number of R22. -/
def Place.canon (p : Place) : Nat := (4 * (p.blk.cfg.index / p.blk.cfg.ens) + p.blk.cfg.index % p.blk.cfg.ens) % 256

/-- A placement-class value: the canonical one in a deterministic launch (R21, R22). -/
def Place.placed (p : Place) (canon real : Nat) : Nat := if p.blk.cfg.det then canon else real

/-- The clock in MHz of the core's tower (R20, R371). -/
def Place.mhz (p : Place) : Nat := (p.st.tower (towerOf p.core)).mhz

/-- The value of a selector in a lane, if it is assigned (R20). -/
def Place.value (p : Place) (sel lane : Nat) : Option Nat :=
  let cfg := p.blk.cfg
  match sel with
  | 0x00 => some lane
  | 0x01 => some p.gnid
  | 0x02 => some cfg.nGangs
  | 0x03 => some (p.gnid % 4)
  | 0x04 => some cfg.index
  | 0x05 => some cfg.grid
  | 0x06 => some (cfg.index / cfg.ens)
  | 0x07 => some cfg.ens
  | 0x08 => some (cfg.index % cfg.ens)
  | 0x09 => some (p.placed (p.canon % 32) (p.core % 32))
  | 0x0A => some (p.placed (p.canon % 32 / 4) (p.core % 32 / 4))
  | 0x0B => some (p.placed (p.canon / 32) (towerOf p.core))
  | 0x0C => some (p.placed 8 p.st.part.towers)
  | 0x0D => some (p.placed 256 (32 * p.st.part.towers))
  | 0x0E => some p.st.moduleNum.toNat
  | 0x0F => some p.st.domainSize
  | 0x10 => some cfg.allot
  | 0x11 => some cfg.slots
  | 0x12 => some (1024 * cfg.dsp)
  | 0x13 => some (256 * cfg.rsp)
  | 0x14 => some cfg.sliced.toNat
  | 0x15 => some cfg.det.toNat
  | 0x16 => some (p.placed 0x88 p.st.part.code)
  | 0x17 => some p.mhz
  | 0x18 => some p.st.packageBytes
  | 0x19 => some (p.st.part.towers * Config.towerL2Bytes)
  | 0x1A => some (if (p.st.tower (towerOf p.core)).retired then 2 ^ (p.st.tower (towerOf p.core)).channel.val else 0)
  | 0x1B => some (p.placed 0 (p.st.core p.core).cycles)
  | 0x1C => some p.g.wb
  | _ => none

/-- The place of the word being issued. -/
def Ctx.place (c : Ctx) (s : State) : Place := ⟨s, c.iss.core, c.iss.gang, c.blk, c.g⟩

/-- `qry` (R19); a selector that is not assigned is an illegal encoding (R65). -/
def execQry (d : Dst) (sel : BitVec 8) (s : State) : Out :=
  withCtx s (fun c =>
    if ((c.place s).value sel.toNat 0).isNone then .next (s.trap { cause := Cause.illegalEncoding, lane := c.low })
    else match c.check [d.src] with
      | .error t => .next (s.trap t)
      | .ok _ => .next (s.retire (c.g.writeDst c.iss.active d (fun l => BitVec.ofNat 64 (((c.place s).value sel.toNat l).getD 0)))))

/-- `qry.x`: a selector that is not assigned gives all ones (R19). -/
def execQryX (d : Dst) (a : Src) (s : State) : Out :=
  gangWord s (fun c => c.check [d.src, a]) (fun c =>
    c.g.writeDst c.iss.active d (fun l =>
      match (c.place s).value ((c.read l a).toNat % 256) l with
      | some v => BitVec.ofNat 64 v
      | none => BitVec.allOnes 64))

end Sys2Proof.Machine
end

