-- ==== Sys2Proof/Machine/Integer.lean ====
section
/-! DEFINITION. Integer words: arithmetic, logic, shifts, bit fields, compares, select, immediates and addresses (R165 to R172),
and the window and index words (R68). -/
namespace Sys2Proof.Machine

/-- sat_i of R155. -/
def satI (w : Nat) (x : Int) : Nat := lowBits w (clampInt (-(2 ^ (w - 1) : Nat)) ((2 ^ (w - 1) : Nat) - 1) x)
/-- sat_n of R155. -/
def satN (w : Nat) (x : Int) : Nat := lowBits w (clampInt 0 ((2 ^ w : Nat) - 1) x)

/-- `add` (R166). -/
def intAdd (w a b : Nat) : Nat := (a + b) % 2 ^ w
/-- `sub` (R166). -/
def intSub (w a b : Nat) : Nat := (a + (2 ^ w - b)) % 2 ^ w
/-- `div.iW`, truncated towards zero; by zero -1; the most negative number by -1 gives itself (R166). -/
def divI (w a b : Nat) : Nat := if b = 0 then 2 ^ w - 1 else lowBits w ((sintN w a).tdiv (sintN w b))
/-- `rem.iW`; by zero a (R166). -/
def remI (w a b : Nat) : Nat := if b = 0 then a else lowBits w ((sintN w a).tmod (sintN w b))
/-- `div.nW`; by zero all ones (R166). -/
def divN (w a b : Nat) : Nat := if b = 0 then 2 ^ w - 1 else a / b
/-- `rem.nW`; by zero a (R166). -/
def remN (a b : Nat) : Nat := if b = 0 then a else a % b
/-- NOT in `w` bits. -/
def notN (w a : Nat) : Nat := 2 ^ w - 1 - a
/-- `bsel` (R166). -/
def bselN (w a b c : Nat) : Nat := (a &&& c) ||| (b &&& notN w c)
/-- `shl` (R166); the result is 0 once the shift reaches the width. -/
def shlN (w a s : Nat) : Nat := if s < w then a * 2 ^ s % 2 ^ w else 0
/-- `shr.nW` (R166). -/
def shrN (w a s : Nat) : Nat := if s < w then a / 2 ^ s else 0
/-- `shr.iW` (R166): floored. -/
def shrI (w a s : Nat) : Nat := lowBits w (sintN w a / ((2 ^ min s (w - 1) : Nat) : Int))
/-- `rol` (R166). -/
def rolN (w a s : Nat) : Nat := (a * 2 ^ (s % w) + a / 2 ^ (w - s % w)) % 2 ^ w
/-- `ror` (R166). -/
def rorN (w a s : Nat) : Nat := (a / 2 ^ (s % w) + a * 2 ^ (w - s % w)) % 2 ^ w
/-- `mulh.iW`, floored (R166). -/
def mulhI (w a b : Nat) : Nat := lowBits w (sintN w a * sintN w b / ((2 ^ w : Nat) : Int))
/-- Bit `i` of a number, as 0 or 1. -/
def bitN (a i : Nat) : Nat := a / 2 ^ i % 2
/-- `popc` (R168). -/
def popcN (w a : Nat) : Nat := (List.range w).foldl (fun n i => n + bitN a i) 0
/-- The run of zero bits of `a` at the positions of a list. -/
def zeroRun (a : Nat) : List Nat → Nat
  | [] => 0
  | i :: r => if bitN a i = 1 then 0 else 1 + zeroRun a r
/-- `clz` (R168). -/
def clzN (w a : Nat) : Nat := zeroRun a (List.range w).reverse
/-- `ctz` (R168). -/
def ctzN (w a : Nat) : Nat := zeroRun a (List.range w)
/-- `brev` (R168). -/
def brevN (w a : Nat) : Nat := (List.range w).foldl (fun n i => n + bitN a i * 2 ^ (w - 1 - i)) 0
/-- log2 of the width (R168). -/
def widthLog : Width → Nat
  | .b8 => 3 | .b16 => 4 | .b32 => 5 | .b64 => 6
/-- The field named by b: position and covered length (R168). -/
def fieldOf (w : Width) (b : Nat) : Nat × Nat :=
  let pos := b % 2 ^ widthLog w
  let len := b / 2 ^ widthLog w % 2 ^ widthLog w + 1
  (pos, min len (w.bits - pos))
/-- `bfx.nW` (R168). -/
def bfxN (w : Width) (a b : Nat) : Nat := let f := fieldOf w b; a / 2 ^ f.1 % 2 ^ f.2
/-- `bfx.iW` (R168). -/
def bfxI (w : Width) (a b : Nat) : Nat := let f := fieldOf w b; lowBits w.bits (sintN f.2 (a / 2 ^ f.1))
/-- `bfi` (R168). -/
def bfiN (w : Width) (d a b : Nat) : Nat :=
  let f := fieldOf w b
  d % 2 ^ f.1 + a % 2 ^ f.2 * 2 ^ f.1 + d / 2 ^ (f.1 + f.2) * 2 ^ (f.1 + f.2)
/-- An immediate, sign-extended to `w` bits (R171). -/
def immW (w : Nat) (i : BitVec 8) : Nat := lowBits w i.toInt

/-- `add` (R166). -/
def execAdd (w : Width) (d : Dst) (a b : Src) (s : State) : Out := binaryWord s w d a b (fun x y => intAdd w.bits x y)
/-- `sub` (R166). -/
def execSub (w : Width) (d : Dst) (a b : Src) (s : State) : Out := binaryWord s w d a b (fun x y => intSub w.bits x y)
/-- `adds.iW` (R166). -/
def execAddsI (w : Width) (d : Dst) (a b : Src) (s : State) : Out :=
  binaryWord s w d a b (fun x y => satI w.bits (sintN w.bits x + sintN w.bits y))
/-- `adds.nW` (R166). -/
def execAddsN (w : Width) (d : Dst) (a b : Src) (s : State) : Out :=
  binaryWord s w d a b (fun x y => satN w.bits ((x : Int) + y))
/-- `subs.iW` (R166). -/
def execSubsI (w : Width) (d : Dst) (a b : Src) (s : State) : Out :=
  binaryWord s w d a b (fun x y => satI w.bits (sintN w.bits x - sintN w.bits y))
/-- `subs.nW` (R166). -/
def execSubsN (w : Width) (d : Dst) (a b : Src) (s : State) : Out :=
  binaryWord s w d a b (fun x y => satN w.bits ((x : Int) - y))
/-- `absd.iW` (R166). -/
def execAbsdI (w : Width) (d : Dst) (a b : Src) (s : State) : Out :=
  binaryWord s w d a b (fun x y => (sintN w.bits x - sintN w.bits y).natAbs)
/-- `absd.nW` (R166). -/
def execAbsdN (w : Width) (d : Dst) (a b : Src) (s : State) : Out :=
  binaryWord s w d a b (fun x y => ((x : Int) - y).natAbs)
/-- `mul` (R166). -/
def execMul (w : Width) (d : Dst) (a b : Src) (s : State) : Out := binaryWord s w d a b (fun x y => x * y % 2 ^ w.bits)
/-- `mulh.iW` (R166). -/
def execMulhI (w : Width) (d : Dst) (a b : Src) (s : State) : Out := binaryWord s w d a b (fun x y => mulhI w.bits x y)
/-- `mulh.nW` (R166). -/
def execMulhN (w : Width) (d : Dst) (a b : Src) (s : State) : Out := binaryWord s w d a b (fun x y => x * y / 2 ^ w.bits)
/-- `muls.iW` (R166). -/
def execMulsI (w : Width) (d : Dst) (a b : Src) (s : State) : Out :=
  binaryWord s w d a b (fun x y => satI w.bits (sintN w.bits x * sintN w.bits y))
/-- `muls.nW` (R166). -/
def execMulsN (w : Width) (d : Dst) (a b : Src) (s : State) : Out :=
  binaryWord s w d a b (fun x y => satN w.bits ((x * y : Nat) : Int))
/-- `mad` (R166). -/
def execMad (w : Width) (d : Dst) (a b : Src) (s : State) : Out :=
  ternaryWord s w d a b (fun x y z => (x * y + z) % 2 ^ w.bits)
/-- `min.iW` (R166). -/
def execMinI (w : Width) (d : Dst) (a b : Src) (s : State) : Out :=
  binaryWord s w d a b (fun x y => if sintN w.bits y < sintN w.bits x then y else x)
/-- `min.nW` (R166). -/
def execMinN (w : Width) (d : Dst) (a b : Src) (s : State) : Out := binaryWord s w d a b (fun x y => if y < x then y else x)
/-- `max.iW` (R166). -/
def execMaxI (w : Width) (d : Dst) (a b : Src) (s : State) : Out :=
  binaryWord s w d a b (fun x y => if sintN w.bits x < sintN w.bits y then y else x)
/-- `max.nW` (R166). -/
def execMaxN (w : Width) (d : Dst) (a b : Src) (s : State) : Out := binaryWord s w d a b (fun x y => if x < y then y else x)
/-- `abs` (R166). -/
def execAbsI (w : Width) (d : Dst) (a : Src) (s : State) : Out :=
  unaryWord s w d a (fun x => (sintN w.bits x).natAbs % 2 ^ w.bits)
/-- `abss` (R166). -/
def execAbss (w : Width) (d : Dst) (a : Src) (s : State) : Out :=
  unaryWord s w d a (fun x => satI w.bits ((sintN w.bits x).natAbs : Int))
/-- `neg` (R166). -/
def execNeg (w : Width) (d : Dst) (a : Src) (s : State) : Out := unaryWord s w d a (fun x => (2 ^ w.bits - x) % 2 ^ w.bits)
/-- `negs` (R166). -/
def execNegs (w : Width) (d : Dst) (a : Src) (s : State) : Out := unaryWord s w d a (fun x => satI w.bits (-(sintN w.bits x)))
/-- `div.iW` (R166). -/
def execDivI (w : Width) (d : Dst) (a b : Src) (s : State) : Out := binaryWord s w d a b (fun x y => divI w.bits x y)
/-- `div.nW` (R166). -/
def execDivN (w : Width) (d : Dst) (a b : Src) (s : State) : Out := binaryWord s w d a b (fun x y => divN w.bits x y)
/-- `rem.iW` (R166). -/
def execRemI (w : Width) (d : Dst) (a b : Src) (s : State) : Out := binaryWord s w d a b (fun x y => remI w.bits x y)
/-- `rem.nW` (R166). -/
def execRemN (w : Width) (d : Dst) (a b : Src) (s : State) : Out := binaryWord s w d a b (fun x y => remN x y)
/-- `and` (R166). -/
def execAnd (w : Width) (d : Dst) (a b : Src) (s : State) : Out := binaryWord s w d a b (fun x y => x &&& y)
/-- `or` (R166). -/
def execOr (w : Width) (d : Dst) (a b : Src) (s : State) : Out := binaryWord s w d a b (fun x y => x ||| y)
/-- `xor` (R166). -/
def execXor (w : Width) (d : Dst) (a b : Src) (s : State) : Out := binaryWord s w d a b (fun x y => x ^^^ y)
/-- `andn` (R166). -/
def execAndn (w : Width) (d : Dst) (a b : Src) (s : State) : Out := binaryWord s w d a b (fun x y => x &&& notN w.bits y)
/-- `orn` (R166). -/
def execOrn (w : Width) (d : Dst) (a b : Src) (s : State) : Out := binaryWord s w d a b (fun x y => x ||| notN w.bits y)
/-- `xnor` (R166). -/
def execXnor (w : Width) (d : Dst) (a b : Src) (s : State) : Out := binaryWord s w d a b (fun x y => notN w.bits (x ^^^ y))
/-- `not` (R166). -/
def execNot (w : Width) (d : Dst) (a : Src) (s : State) : Out := unaryWord s w d a (fun x => notN w.bits x)
/-- `bsel` (R166). -/
def execBsel (w : Width) (d : Dst) (a b : Src) (s : State) : Out := ternaryWord s w d a b (fun x y z => bselN w.bits x y z)
/-- `shl` (R166). -/
def execShl (w : Width) (d : Dst) (a b : Src) (s : State) : Out := binaryWord s w d a b (fun x y => shlN w.bits x y)
/-- `shr.nW` (R166). -/
def execShrN (w : Width) (d : Dst) (a b : Src) (s : State) : Out := binaryWord s w d a b (fun x y => shrN w.bits x y)
/-- `shr.iW` (R166). -/
def execShrI (w : Width) (d : Dst) (a b : Src) (s : State) : Out := binaryWord s w d a b (fun x y => shrI w.bits x y)
/-- `rol` (R166). -/
def execRol (w : Width) (d : Dst) (a b : Src) (s : State) : Out := binaryWord s w d a b (fun x y => rolN w.bits x y)
/-- `ror` (R166). -/
def execRor (w : Width) (d : Dst) (a b : Src) (s : State) : Out := binaryWord s w d a b (fun x y => rorN w.bits x y)
/-- `shli` (R167). -/
def execShli (w : Width) (d : Dst) (a : Src) (i : BitVec 8) (s : State) : Out := unaryWord s w d a (fun x => shlN w.bits x i.toNat)
/-- `shri.nW` (R167). -/
def execShriN (w : Width) (d : Dst) (a : Src) (i : BitVec 8) (s : State) : Out := unaryWord s w d a (fun x => shrN w.bits x i.toNat)
/-- `shri.iW` (R167). -/
def execShriI (w : Width) (d : Dst) (a : Src) (i : BitVec 8) (s : State) : Out := unaryWord s w d a (fun x => shrI w.bits x i.toNat)
/-- `rori` (R167). -/
def execRori (w : Width) (d : Dst) (a : Src) (i : BitVec 8) (s : State) : Out := unaryWord s w d a (fun x => rorN w.bits x i.toNat)
/-- `popc` (R168). -/
def execPopc (w : Width) (d : Dst) (a : Src) (s : State) : Out := unaryWord s w d a (fun x => popcN w.bits x)
/-- `clz` (R168). -/
def execClz (w : Width) (d : Dst) (a : Src) (s : State) : Out := unaryWord s w d a (fun x => clzN w.bits x)
/-- `ctz` (R168). -/
def execCtz (w : Width) (d : Dst) (a : Src) (s : State) : Out := unaryWord s w d a (fun x => ctzN w.bits x)
/-- `brev` (R168). -/
def execBrev (w : Width) (d : Dst) (a : Src) (s : State) : Out := unaryWord s w d a (fun x => brevN w.bits x)
/-- `bfx.nW` (R168). -/
def execBfxN (w : Width) (d : Dst) (a b : Src) (s : State) : Out := binaryWord s w d a b (fun x y => bfxN w x y)
/-- `bfx.iW` (R168). -/
def execBfxI (w : Width) (d : Dst) (a b : Src) (s : State) : Out := binaryWord s w d a b (fun x y => bfxI w x y)
/-- `bfi`: reads its destination (R168). -/
def execBfi (w : Width) (d : Dst) (a b : Src) (s : State) : Out :=
  elemWord s w d (fun _ => [a, b]) (fun c l e => bfiN w (c.elem w d.src l e) (c.elem w a l e) (c.elem w b l e))
/-- `ceq` (R169). -/
def execCeq (w : Width) (d : MaskNo) (a b : Src) (s : State) : Out := compareWord s w d a b (fun x y => decide (x = y))
/-- `cne` (R169). -/
def execCne (w : Width) (d : MaskNo) (a b : Src) (s : State) : Out := compareWord s w d a b (fun x y => decide (x ≠ y))
/-- `clt.iW` (R169). -/
def execCltI (w : Width) (d : MaskNo) (a b : Src) (s : State) : Out :=
  compareWord s w d a b (fun x y => decide (sintN w.bits x < sintN w.bits y))
/-- `cge.iW` (R169). -/
def execCgeI (w : Width) (d : MaskNo) (a b : Src) (s : State) : Out :=
  compareWord s w d a b (fun x y => decide (sintN w.bits x ≥ sintN w.bits y))
/-- `clt.nW` (R169). -/
def execCltN (w : Width) (d : MaskNo) (a b : Src) (s : State) : Out := compareWord s w d a b (fun x y => decide (x < y))
/-- `cge.nW` (R169). -/
def execCgeN (w : Width) (d : MaskNo) (a b : Src) (s : State) : Out := compareWord s w d a b (fun x y => decide (x ≥ y))
/-- `ctst` (R169). -/
def execCtst (w : Width) (d : MaskNo) (a b : Src) (s : State) : Out := compareWord s w d a b (fun x y => decide (x &&& y ≠ 0))
/-- `sel` (R170). -/
def execSel (w : Width) (m : MaskNo) (d : Dst) (a b : Src) (s : State) : Out :=
  elemWord s w d (fun _ => [a, b]) (fun c l e =>
    if (c.g.mask m).getLsbD (8 * l + w.bytes * e) then c.elem w a l e else c.elem w b l e)
/-- `addi` (R171). -/
def execAddi (w : Width) (d : Dst) (a : Src) (i : BitVec 8) (s : State) : Out :=
  unaryWord s w d a (fun x => intAdd w.bits x (immW w.bits i))
/-- `andi` (R171). -/
def execAndi (w : Width) (d : Dst) (a : Src) (i : BitVec 8) (s : State) : Out := unaryWord s w d a (fun x => x &&& immW w.bits i)
/-- `ori` (R171). -/
def execOri (w : Width) (d : Dst) (a : Src) (i : BitVec 8) (s : State) : Out := unaryWord s w d a (fun x => x ||| immW w.bits i)
/-- `movi` (R171). -/
def execMovi (w : Width) (d : Dst) (i : BitVec 8) (s : State) : Out :=
  elemWord s w d (fun _ => []) (fun _ _ _ => immW w.bits i)
/-- `lea` (R172). -/
def execLea (sc : Fin 4) (d : Dst) (a b : Src) (s : State) : Out :=
  binaryWord s .b64 d a b (fun x y => (x + y * 2 ^ sc.val) % 2 ^ 64)
/-- `leai` (R172). -/
def execLeai (sc : Fin 4) (d : Dst) (a : Src) (i : BitVec 8) (s : State) : Out :=
  unaryWord s .b64 d a (fun x => lowBits 64 ((x : Int) + i.toInt * ((2 ^ sc.val : Nat) : Int)))
/-- `mov` (R172). -/
def execMov (d : Dst) (a : Src) (s : State) : Out := unaryWord s .b64 d a (fun x => x)

/-! ### Window and index words (R68) -/

/-- A new window base, checked (R52, R68): W is min(96, A). -/
def windowWord (s : State) (nb : Ctx → Int) : Out :=
  gangWord s (fun c =>
      if nb c < 0 ∨ nb c + min 96 c.blk.cfg.allot > c.blk.cfg.allot then
        .error { cause := Cause.windowBounds, lane := c.low, info := lowBits 16 (nb c) }
      else .ok ())
    (fun c => { c.g with wb := (nb c).toNat })

/-- `winb` (R68). -/
def execWinb (i : BitVec 8) (s : State) : Out := windowWord s (fun _ => 16 * (i.toNat : Int))
/-- `winb.rel` (R68). -/
def execWinbRel (i : BitVec 8) (s : State) : Out := windowWord s (fun c => (c.g.wb : Int) + 16 * i.toInt)
/-- `xset` (R68). -/
def execXset (n : Fin 4) (a : Src) (i : BitVec 8) (s : State) : Out :=
  gangWord s (fun c => c.check [a]) (fun c =>
    c.g.modLanes c.iss.active (fun l x => { x with x := x.x.set n.val (BitVec.ofNat 10 ((c.read l a).toNat + i.toNat)) }))
/-- `xget` (R68). -/
def execXget (d : Dst) (n : Fin 4) (s : State) : Out :=
  gangWord s (fun c => c.check [d.src]) (fun c =>
    c.g.writeDst c.iss.active d (fun l => ((c.g.lane l).x.getD n.val 0).setWidth 64))

end Sys2Proof.Machine
end

