-- ==== Sys2Proof/Machine/SaveArea.lean ====
section
/-! DEFINITION. The save area (R315 to R320): what a save writes, and what a resume reads and checks (R314, R321). -/
namespace Sys2Proof.Machine

/-! ### Layout (R315) -/

/-- GR. -/
def BlockCfg.gr (c : BlockCfg) : Nat := 2048 + 256 * c.allot
/-- SO. -/
def BlockCfg.so (c : BlockCfg) : Nat := 0x4100 + c.nGangs * c.gr
/-- DO. -/
def BlockCfg.dso (c : BlockCfg) : Nat := c.so + 9216 * c.nGangs * c.slots
/-- RO. -/
def BlockCfg.rso (c : BlockCfg) : Nat := (c.dso + 1024 * c.dsp + 2047) / 2048 * 2048
/-- The size of the area. -/
def BlockCfg.areaSize (c : BlockCfg) : Nat := c.rso + 2048 * c.rsp

/-! ### What a save writes -/

/-- A field of the area: its offset and its bytes. -/
abbrev Put := Nat × List Byte

/-- A field of `n` bytes. -/
def put (o n v : Nat) : Put := (o, leBytes n v)

/-- The bytes of sparse storage, cell by cell, moved up by `o`. -/
def cellPuts (o : Nat) (m : Memory) : List Put := m.map (fun p => (o + p.1, [p.2]))

/-- The wait of a lane (R318): code, phase and handle. -/
def HeldKind.waitOf : HeldKind → Nat × Nat × Nat
  | .barB p => (1, p, 0)
  | .barE p => (2, p, 0)
  | .nbar h p => (3, p, h.toNat)
  | .mxgsum _ q => (4, q, 0)
  | _ => (0, 0, 0)

/-- The wait of a lane. -/
def Gang.waitOf (g : Gang) (l : Lane) : Nat × Nat × Nat :=
  match l.wait with
  | none => (0, 0, 0)
  | some id => match g.heldOf id with
    | none => (0, 0, 0)
    | some h => h.kind.waitOf

/-- The park field (R318). -/
def parkCode : Option Park → Nat
  | none => 0xF
  | some .loop => 8
  | some (.j n) => n.val

/-- A lane record (R318). -/
def Gang.lanePuts (g : Gang) (o : Nat) (l : Lane) : List Put :=
  let (w, ph, h) := g.waitOf l
  let x := fun i => (l.x.getD i 0).toNat
  [put o 8 (l.pc.toNat + l.cpos * 2 ^ 56 + l.exited.toNat * 2 ^ 62 + l.hl.toNat * 2 ^ 63),
   put (o + 8) 8 (x 0 + x 1 * 2 ^ 10 + x 2 * 2 ^ 20 + x 3 * 2 ^ 30 + l.skip * 2 ^ 40 + parkCode l.park * 2 ^ 47 + w * 2 ^ 51),
   put (o + 16) 8 (ph % 2 ^ 32), put (o + 24) 8 h]

/-- A commit-stage entry (R320). -/
def Commit.puts (e : Commit) (o : Nat) : List Put :=
  [put o 8 (2 ^ 63 + e.nm1 * 2 ^ 24 + e.res % 2 ^ 24), put (o + 8) 8 e.va.toNat]

/-- A gang record (R317). -/
def Gang.puts (g : Gang) (o : Nat) : List Put :=
  (g.lanes.mapIdx (fun l x => g.lanePuts (o + 32 * l) x)).flatten ++
  g.m.mapIdx (fun i m => put (o + 0x400 + 32 * i) 32 m.toNat) ++
  g.k.mapIdx (fun i k => put (o + 0x500 + 8 * i) 8 k.toNat) ++
  g.j.mapIdx (fun i j => put (o + 0x5C0 + 4 * i) 4 j.toNat) ++
  [put (o + 0x5E0) 4 g.lm.toNat, put (o + 0x5E4) 2 g.wb, put (o + 0x5E6) 2 g.depth, put (o + 0x5E8) 8 g.entryGen.toNat] ++
  g.flags.mapIdx (fun i n => put (o + 0x5F0 + i) 1 n) ++
  [put (o + 0x5FC) 4 (g.amax.toNat + g.amaxNan.toNat * 2 ^ 31)] ++
  (g.commit.mapIdx (fun i e => e.puts (o + 0x600 + 16 * i))).flatten ++
  [g.tcause, g.taddr, g.tlane, g.tinfo, g.tkeep0, g.tkeep1].mapIdx (fun i w => put (o + 0x700 + 8 * i) 8 w.toNat) ++
  [put (o + 0x730) 8 (g.tlast.toNat + g.flush % 2 ^ 32 * 2 ^ 32),
   put (o + 0x738) 8 ((g.resume.map (·.cpos)).getD 0 + g.inHandler.toNat * 2 ^ 8)] ++
  (g.lanes.mapIdx (fun l x => x.regs.mapIdx (fun r v => put (o + 0x800 + 256 * r + 8 * l) 8 v.toNat))).flatten

/-- Flag B counted by a matrix word (R319). -/
def Gang.flagOf (g : Gang) (clauses : List Nat) : Nat :=
  match g.clauses.findSome? (fun c => if clauses.contains c.id then c.flagB else none) with
  | some f => f.val
  | none => 0xF

/-- A progress entry (R319). -/
def Prog.puts (p : Prog) (g : Gang) (o : Nat) : List Put :=
  let w := fun k => k + p.ksteps * 2 ^ 8 + g.flagOf p.clauses * 2 ^ 24
  match p.kind with
  | .mxm f a b => [put o 8 (w 1), put (o + 8) 8 f.toNat, put (o + 16) 8 a.toNat, put (o + 24) 8 b.toNat]
  | .mxclr => [put o 8 (w 2)]
  | .mxgsum q => [put o 8 (w 3), put (o + 8) 8 q]

/-- The progress entries of a slot: the words not complete, and an `mxgsum` held on it (R231, R319). -/
def Gang.progOf (g : Gang) (n : Nat) : List Prog :=
  (g.slot n).prog ++ g.held.filterMap (fun h =>
    match h.kind with
    | .mxgsum m q => if m = n then some { kind := .mxgsum q, clauses := g.clausesOf h.lanes } else none
    | _ => none)

/-- A slot record (R319); a retired channel's bytes are zero. -/
def Gang.slotPuts (g : Gang) (ret : Option Nat) (o n : Nat) : List Put :=
  let x := g.slot n
  let ps := g.progOf n
  cellPuts o (x.res.filter (fun p => some (p.1 / 1024) != ret)) ++
  [put (o + 8192) 8 x.bound.toNat, put (o + 8200) 8 (x.scales.isSome.toNat + ps.length * 2 ^ 8)] ++
  (match x.scales with | some (a, b) => [(o + 8208, a), (o + 8240, b)] | none => []) ++
  (ps.mapIdx (fun i p => p.puts g (o + 8448 + 32 * i))).flatten

/-- The code of an entry's kind (R320). -/
def TellerKind.code : TellerKind → Nat
  | .store => 0 | .fadda => 1 | .amaxm => 2

/-- A Teller entry (R320). -/
def TellerEntry.puts (e : TellerEntry) (o : Nat) : List Put :=
  [put o 8 (e.addr.toNat + Nat.log2 e.size * 2 ^ 56 + e.kind.code * 2 ^ 60), put (o + 8) 8 e.data.toNat,
   put (o + 16) 8 (e.gang + e.lane * 2 ^ 6 + e.flush % 2 ^ 32 * 2 ^ 32), put (o + 24) 8 (e.seq % 2 ^ 32)]

/-- The block header (R316). -/
def Block.headerPuts (b : Block) : List Put :=
  [put 0 8 1, put 8 8 b.cfg.lrec.toNat,
   put 0x10 8 (b.cfg.index + (b.cfg.nGangs - 1) * 2 ^ 32 + b.cfg.slots * 2 ^ 38), put 0x18 8 b.cfg.areaSize,
   put 0x20 8 (b.barB.arrived + b.barB.phase % 2 ^ 32 * 2 ^ 32), put 0x28 8 (b.barE.arrived + b.barE.phase % 2 ^ 32 * 2 ^ 32),
   put 0x30 8 (b.teller.length + b.tfl % 2 ^ 32 * 2 ^ 32), put 0x38 8 b.rmask.toNat] ++
  b.queues.mapIdx (fun q x => put (0x40 + 8 * q) 8 x.status) ++
  b.queues.mapIdx (fun q x => put (0x80 + 8 * q) 8 (x.ord % 2 ^ 24))

/-- Every field of a block's area that is not zero (R315). -/
def Block.puts (b : Block) (ret : Option Nat) : List Put :=
  b.headerPuts ++
  (b.teller.mapIdx (fun i e => e.puts (0x100 + 32 * i))).flatten ++
  (b.gangs.mapIdx (fun g x => x.puts (0x4100 + g * b.cfg.gr))).flatten ++
  (b.gangs.mapIdx (fun g x => (List.range b.cfg.slots).flatMap (fun n =>
    x.slotPuts ret (b.cfg.so + 9216 * (g * b.cfg.slots + n)) n))).flatten ++
  cellPuts b.cfg.dso b.ds ++
  cellPuts b.cfg.rso (b.rs.filter (fun p => some (p.1 / 256 % 8) != ret))

/-- Memory with a region cleared. -/
def clearRegion (m : Memory) (a n : Nat) : Memory := m.filter (fun p => decide (p.1 < a) || decide (a + n ≤ p.1))

/-- The engine writes a block's area whole (R313, R315): errors there are mended (R127). -/
def State.writeArea (s : State) (a : Nat) (b : Block) (ret : Option Nat) : State :=
  let n := b.cfg.areaSize
  { s with
    mem := (b.puts ret).foldl (fun m p => cellSetList m (a + p.1) p.2) (clearRegion s.mem a n)
    failing := s.failing.filter (fun g => !(decide (a ≤ 32 * g) && decide (32 * g + 32 ≤ a + n))) }

/-! ### What a resume reads -/

/-- The bytes of a region, moved to offset 0. -/
def regionOf (m : Memory) (a n : Nat) : Memory :=
  (m.filter (fun p => decide (a ≤ p.1) && decide (p.1 < a + n))).map (fun p => (p.1 - a, p.2))

/-- A lane record's checks (R318, R321). -/
def laneRecBad (m : Memory) (o : Nat) : Bool :=
  let w1 := memNat m (o + 8) 8
  bitsOf w1 63 55 != 0 || decide (5 ≤ bitsOf w1 54 51) || (decide (9 ≤ bitsOf w1 50 47) && bitsOf w1 50 47 != 0xF)
    || decide (65 ≤ bitsOf w1 46 40) || bitsOf (memNat m (o + 16) 8) 63 32 != 0

/-- A run of the area is zero. -/
def blankRun (m : Memory) (o n : Nat) : Bool := (regionOf m o n).isEmpty

/-- A gang record's checks (R305, R317, R320, R321). -/
def gangRecBad (m : Memory) (o : Nat) : Bool :=
  (List.range 32).any (fun l => laneRecBad m (o + 32 * l))
    || bitsOf (memNat m (o + 0x700) 8) 63 11 != 0 || bitsOf (memNat m (o + 0x710) 8) 63 37 != 0
    || bitsOf (memNat m (o + 0x738) 8) 7 6 != 0 || bitsOf (memNat m (o + 0x738) 8) 63 9 != 0 || !blankRun m (o + 0x740) 192
    || (List.range 12).any (fun f => decide (64 ≤ memNat m (o + 0x5F0 + f) 1))
    || (List.range 16).any (fun i =>
        bitsOf (memNat m (o + 0x600 + 16 * i) 8) 62 32 != 0 || bitsOf (memNat m (o + 0x608 + 16 * i) 8) 63 56 != 0)

/-- A progress entry's checks (R319, R321). -/
def progRecBad (m : Memory) (o : Nat) : Bool :=
  let w := memNat m o 8
  bitsOf w 63 28 != 0 || bitsOf w 23 17 != 0 || bitsOf w 7 4 != 0 || bitsOf w 3 0 == 0 || decide (4 ≤ bitsOf w 3 0)

/-- A slot record's checks (R319, R321). -/
def slotRecBad (m : Memory) (o : Nat) : Bool :=
  let w := memNat m (o + 8200) 8
  bitsOf w 7 1 != 0 || bitsOf w 63 13 != 0 || decide (16 < bitsOf w 12 8) || !blankRun m (o + 8272) 176 || !blankRun m (o + 8960) 256
    || (List.range (bitsOf w 12 8)).any (fun i => progRecBad m (o + 8448 + 32 * i))

/-- A Teller entry's checks (R320, R321). -/
def tellerRecBad (m : Memory) (o : Nat) : Bool :=
  decide (3 ≤ bitsOf (memNat m o 8) 63 60) || bitsOf (memNat m o 8) 59 58 != 0
    || bitsOf (memNat m (o + 16) 8) 31 11 != 0 || bitsOf (memNat m (o + 24) 8) 63 32 != 0

/-- The block header's checks (R316, R321): version, size, reserved fields, and the retired-channel mask. -/
def headerBad (m : Memory) (c : BlockCfg) (mask : Nat) : Bool :=
  memNat m 0 8 != 1 || memNat m 0x18 8 != c.areaSize || bitsOf (memNat m 8 8) 63 56 != 0 || bitsOf (memNat m 0x10 8) 63 42 != 0
    || bitsOf (memNat m 0x10 8) 41 38 != c.slots || bitsOf (memNat m 0x10 8) 37 32 + 1 != c.nGangs
    || [0x20, 0x28].any (fun o => bitsOf (memNat m o 8) 31 12 != 0 || decide (2048 < bitsOf (memNat m o 8) 11 0))
    || bitsOf (memNat m 0x30 8) 31 10 != 0 || decide (512 < bitsOf (memNat m 0x30 8) 9 0)
    || bitsOf (memNat m 0x38 8) 63 8 != 0 || (bitsOf (memNat m 0x38 8) 7 0 != 0 && bitsOf (memNat m 0x38 8) 7 0 != mask)
    || (List.range 8).any (fun q => bitsOf (memNat m (0x80 + 8 * q) 8) 63 24 != 0) || !blankRun m 0xC0 64

/-- The checks of R321 on an area. -/
def areaBad (m : Memory) (c : BlockCfg) (mask : Nat) : Bool :=
  headerBad m c mask
    || (List.range (bitsOf (memNat m 0x30 8) 9 0)).any (fun i => tellerRecBad m (0x100 + 32 * i))
    || (List.range c.nGangs).any (fun g => gangRecBad m (0x4100 + g * c.gr))
    || (List.range (c.nGangs * c.slots)).any (fun n => slotRecBad m (c.so + 9216 * n))

/-- The park of a code (R318). -/
def parkOf (n : Nat) : Option Park :=
  if n = 8 then some .loop else if h : n < 8 then some (.j ⟨n, h⟩) else none

/-- A lane from its record and its registers (R317, R318). -/
def restoreLane (m : Memory) (o lane allot : Nat) (base : Lane) : Lane :=
  let r := o + 32 * lane
  let w0 := memNat m r 8
  let w1 := memNat m (r + 8) 8
  { base with
    pc := BitVec.ofNat 56 w0
    cpos := bitsOf w0 61 56
    clause := if bitsOf w0 61 56 = 0 then none else base.clause
    exited := decide (bitsOf w0 62 62 = 1)
    hl := decide (bitsOf w0 63 63 = 1)
    x := [BitVec.ofNat 10 w1, BitVec.ofNat 10 (w1 / 2 ^ 10), BitVec.ofNat 10 (w1 / 2 ^ 20), BitVec.ofNat 10 (w1 / 2 ^ 30)]
    skip := bitsOf w1 46 40
    park := parkOf (bitsOf w1 50 47)
    wait := none
    req := none
    regs := (List.range allot).map (fun i => BitVec.ofNat 64 (memNat m (o + 0x800 + 256 * i + 8 * lane) 8)) }

/-- A lane's wait in its record (R318): code, phase, handle. -/
def restoreWait (m : Memory) (o lane : Nat) : Nat × Nat × Nat :=
  let r := o + 32 * lane
  (bitsOf (memNat m (r + 8) 8) 54 51, memNat m (r + 16) 4, memNat m (r + 24) 8)

/-- The held word of a wait (R318): for `mxgsum` the slot whose progress names its ordinal. -/
def heldOfWait (g : Gang) (w : Nat × Nat × Nat) : HeldKind :=
  match w.1 with
  | 1 => .barB w.2.1
  | 2 => .barE w.2.1
  | 3 => .nbar (BitVec.ofNat 64 w.2.2) w.2.1
  | _ => .mxgsum ((g.slots.findIdx? (fun x => x.prog.any (fun p => p.kind == .mxgsum w.2.1))).getD 0) w.2.1

/-- The groups of waiting lanes: by wait and program counter. -/
def waitGroups (ws : List (Nat × (Nat × Nat × Nat) × VAddr)) : List (LaneBits × (Nat × Nat × Nat) × VAddr) :=
  ws.foldl (fun acc x =>
    match acc.find? (fun y => y.2 == x.2) with
    | some _ => acc.map (fun y => if y.2 = x.2 then (y.1 ||| BitVec.ofNat 32 (2 ^ x.1), y.2) else y)
    | none => acc ++ [(BitVec.ofNat 32 (2 ^ x.1), x.2)]) []

/-- The waiting lanes of a restored gang are held again (R314, R318). -/
def Gang.rehold (g : Gang) (core gi : Nat) (m : Memory) (o : Nat) : Gang :=
  let ws := ((List.range 32).map (fun l => (l, restoreWait m o l, (g.lane l).pc))).filter (fun x => x.2.1.1 != 0)
  (waitGroups ws).foldl (fun (g : Gang) x =>
    g.hold { core := core, gang := gi, addr := x.2.2, taddr := x.2.2, active := x.1 } x.1 (heldOfWait g x.2.1)) g

/-- What a gang in its handler keeps for the return (R317). -/
def restoreResume (m : Memory) (o : Nat) : Option Resume :=
  let w := memNat m (o + 0x738) 8
  let tc := memNat m (o + 0x700) 8
  if bitsOf w 8 8 = 1 then
    some ⟨BitVec.ofNat 56 (memNat m (o + 0x708) 8), if bitsOf tc 9 9 = 1 then 2 else 1, bitsOf w 5 0,
      decide (bitsOf tc 10 10 = 1) || decide (bitsOf w 5 0 = 0), bitsOf tc 7 0⟩
  else none

/-- A progress entry (R319); what the area does not hold comes from the entry saved. -/
def restoreProg (m : Memory) (o : Nat) (base : Prog) : Prog :=
  let w := memNat m o 8
  let rd := fun i => BitVec.ofNat 64 (memNat m (o + 8 * i) 8)
  { base with
    ksteps := bitsOf w 16 8
    mark := 0
    kind := match bitsOf w 3 0 with
      | 1 => .mxm (rd 1) (rd 2) (rd 3)
      | 2 => .mxclr
      | _ => .mxgsum (memNat m (o + 8) 8) }

/-- A slot (R319); a retired channel's bytes are ignored (R105). -/
def restoreSlot (m : Memory) (o : Nat) (ret : Option Nat) (g : Gang) (n : Nat) : Slot :=
  let w := memNat m (o + 8200) 8
  let ps := g.progOf n
  let bytes := fun k => cellGetList m (o + k) 32
  { g.slot n with
    res := (regionOf m o 8192).filter (fun p => some (p.1 / 1024) != ret)
    bound := BitVec.ofNat 64 (memNat m (o + 8192) 8)
    scales := if bitsOf w 0 0 = 1 then some (bytes 8208, bytes 8240) else none
    prog := (List.range (bitsOf w 12 8)).map (fun i => restoreProg m (o + 8448 + 32 * i) (ps.getD i { kind := .mxclr, clauses := [] })) }

/-- A flag by its code in a progress entry (R319). -/
def flagNo (n : Nat) : Option (Fin 12) := if h : n < 12 then some ⟨n, h⟩ else none

/-- An entry whose flag field was edited counts in that flag, in a clause instance of its own (R319, R321). -/
def Gang.reflag (g : Gang) (m : Memory) (o n i : Nat) : Gang :=
  let x := g.slot n
  match x.prog[i]? with
  | none => g
  | some p =>
    let f := bitsOf (memNat m (o + 8448 + 32 * i) 8) 27 24
    if g.flagOf p.clauses = f || (match p.kind with | .mxgsum _ => true | _ => false) then g
    else match flagNo f with
      | none => g.setSlot n { x with prog := x.prog.set i { p with clauses := [] } }
      | some f =>
        let g1 : Gang := { g with clauses := g.clauses ++ [{ id := g.nextId, flagA := none, flagB := some f }], nextId := g.nextId + 1 }
        g1.setSlot n { x with prog := x.prog.set i { p with clauses := [g.nextId] } }

/-- An `mxgsum` entry whose flag field was edited: its word is held again, and the clause instance that its lanes stand in counts in that
flag (R319, R321). -/
def Gang.reflagSum (g : Gang) (m : Memory) (o n i : Nat) : Gang :=
  match (g.slot n).prog[i]? with
  | none => g
  | some p =>
    match p.kind with
    | .mxgsum q =>
      let f := bitsOf (memNat m (o + 8448 + 32 * i) 8) 27 24
      let ids := (g.held.filter (fun h => h.kind == .mxgsum n q)).flatMap (fun h => g.clausesOf h.lanes)
      if g.flagOf ids = f then g
      else { g with clauses := g.clauses.map (fun c => if ids.contains c.id then { c with flagB := flagNo f } else c) }
    | _ => g

/-- The flags of every progress entry of a restored gang: the held words' first. -/
def Gang.reflagAll (g : Gang) (m : Memory) (so : Nat) : Gang :=
  let each := fun (f : Gang → Memory → Nat → Nat → Nat → Gang) (g : Gang) =>
    (List.range (16 * g.slots.length)).foldl (fun g k => f g m (so + 9216 * (k / 16)) (k / 16) (k % 16)) g
  each Gang.reflag (each Gang.reflagSum g)

/-- The `mxgsum` entries leave the progress of a restored gang: their lanes are held (R231). -/
def Gang.dropSums (g : Gang) : Gang :=
  { g with slots := g.slots.map (fun x => { x with prog := x.prog.filter (fun p => match p.kind with | .mxgsum _ => false | _ => true) }) }

/-- The commit stage (R320). -/
def restoreCommit (m : Memory) (o : Nat) : List Commit :=
  (List.range 16).filterMap (fun i =>
    let w := memNat m (o + 16 * i) 8
    if bitsOf w 63 63 = 1 then some ⟨bitsOf w 31 24, bitsOf w 23 0, BitVec.ofNat 64 (memNat m (o + 16 * i + 8) 8)⟩ else none)

/-- A gang (R317). -/
def restoreGang (m : Memory) (c : BlockCfg) (ret : Option Nat) (core gi : Nat) (base : Gang) : Gang :=
  let o := 0x4100 + gi * c.gr
  let w64 := fun k => BitVec.ofNat 64 (memNat m (o + k) 8)
  let am := memNat m (o + 0x5FC) 4
  let g : Gang := { base with
    lanes := base.lanes.mapIdx (fun l x => restoreLane m o l c.allot x)
    m := (List.range 8).map (fun i => BitVec.ofNat 256 (memNat m (o + 0x400 + 32 * i) 32))
    k := (List.range 24).map (fun i => w64 (0x500 + 8 * i))
    j := (List.range 8).map (fun i => BitVec.ofNat 32 (memNat m (o + 0x5C0 + 4 * i) 4))
    lm := BitVec.ofNat 32 (memNat m (o + 0x5E0) 4)
    wb := memNat m (o + 0x5E4) 2
    depth := memNat m (o + 0x5E6) 2
    entryGen := w64 0x5E8
    flags := (List.range 12).map (fun i => memNat m (o + 0x5F0 + i) 1)
    amax := BitVec.ofNat 31 am
    amaxNan := decide (2 ^ 31 ≤ am)
    commit := restoreCommit m (o + 0x600)
    tcause := w64 0x700
    taddr := w64 0x708
    tlane := w64 0x710
    tinfo := w64 0x718
    tkeep0 := w64 0x720
    tkeep1 := w64 0x728
    tlast := BitVec.ofNat 32 (memNat m (o + 0x730) 4)
    flush := memNat m (o + 0x734) 4
    inHandler := (restoreResume m o).isSome
    resume := restoreResume m o
    slots := (List.range c.slots).map (fun n => restoreSlot m (c.so + 9216 * (gi * c.slots + n)) ret base n)
    held := []
    pending := []
    ops := []
    rsMark := 0
    dsMark := 0
    ready := none
    yielded := none }
  ((g.rehold core gi m o).reflagAll m (c.so + 9216 * (gi * c.slots))).dropSums

/-- A Teller entry (R320). -/
def restoreEntry (m : Memory) (o : Nat) : TellerEntry :=
  let w := memNat m o 8
  let x := memNat m (o + 16) 8
  ⟨match bitsOf w 63 60 with | 0 => .store | 1 => .fadda | _ => .amaxm, 2 ^ bitsOf w 57 56, BitVec.ofNat 56 w,
    BitVec.ofNat 64 (memNat m (o + 8) 8), bitsOf x 63 32, bitsOf x 10 6, bitsOf x 5 0, memNat m (o + 24) 4⟩

/-- A command queue's status (R316): it has failed if its cause is not 0 (R259, R260). -/
def restoreQueue (m : Memory) (q : Nat) : CmdQueue :=
  let w := memNat m (0x40 + 8 * q) 8
  { cause := bitsOf w 7 0, failOrd := bitsOf w 31 8, satMask := BitVec.ofNat 32 (w / 2 ^ 32), ord := memNat m (0x80 + 8 * q) 8,
    failed := bitsOf w 7 0 != 0 }

/-- A barrier's record (R316). -/
def restoreBar (m : Memory) (o : Nat) : Barrier := ⟨bitsOf (memNat m o 8) 63 32, bitsOf (memNat m o 8) 11 0⟩

/-- A block from its area (R314 to R320), onto a core. -/
def restoreBlock (m : Memory) (core : Nat) (ret : Option Nat) (since : Nat) (cfg : BlockCfg) (base : Block) : Block :=
  { base with
    cfg := { cfg with lrec := BitVec.ofNat 56 (memNat m 8 8), index := memNat m 0x10 4 }
    gangs := base.gangs.mapIdx (fun gi g => restoreGang m cfg ret core gi g)
    ds := regionOf m cfg.dso (1024 * cfg.dsp)
    dsFail := []
    rs := (regionOf m cfg.rso (2048 * cfg.rsp)).filter (fun p => some (p.1 / 256 % 8) != ret)
    rsLog := []
    dsLog := []
    barB := restoreBar m 0x20
    barE := restoreBar m 0x28
    teller := (List.range (bitsOf (memNat m 0x30 8) 9 0)).map (fun i => restoreEntry m (0x100 + 32 * i))
    tfl := bitsOf (memNat m 0x30 8) 63 32
    tellerStall := false
    queues := (List.range 8).map (restoreQueue m)
    lease := {}
    since := since
    quantumPassed := false
    rmask := match ret with | some c => BitVec.ofNat 8 (2 ^ c) | none => 0 }

end Sys2Proof.Machine
end

