-- ==== Sys2Proof/Machine/Placement.lean ====
section
/-! DEFINITION. Plovaeben's policy (R327, R334, R335, R371): which core goes to which launch, in what order ensembles start, resume
and are saved, and what a reconfiguration of a partition refuses and waits for. -/
namespace Sys2Proof.Machine

/-! ### Partitions and their reconfiguration (R325, R327, R371, R373) -/

/-- The quad of a core (R16). -/
def quadOf (c : Nat) : Nat := c / 4

/-- The cores of a partition in the quad of a core. -/
def Partition.inQuad (p : Partition) (c : Nat) : List Nat := p.cores.filter (fun d => quadOf d == quadOf c)

/-- The cores of a partition in the fullest quad (R27, reason 0x08). -/
def Partition.fullestQuad (p : Partition) : Nat := (p.cores.map (fun c => (p.inQuad c).length)).foldl max 0

/-- The cores that a mask names (R373). -/
def maskCores (w : List Nat) : List Nat :=
  (List.range 256).filter (fun c => (wordOf w (2 + c / 64)).testBit (c % 64))

/-- Some core of another partition is named (R325). -/
def State.coresTaken (s : State) (p : Nat) (cores : List Nat) : Bool :=
  (s.parts.mapIdx (fun i x => i != p && (x.map (fun q => q.cores.any cores.contains)).getD false)).any (fun b => b)

/-- The argument is bad (R373). -/
def partBad (w : List Nat) (s : State) (p : Nat) (cores : List Nat) : Bool :=
  let e := bitsOf (wordOf w 6) 4 0
  let q := bitsOf (wordOf w 6) 12 8
  cores.any (fun c => decide (32 * s.part.towers ≤ c)) || s.coresTaken p cores
    || decide (e < 10) || decide (24 < e) || decide (q < 4) || decide (16 < q)

/-- The blocks of a partition, resident or saved (R327). -/
def State.blocksOf (s : State) (p : Nat) : List Block :=
  (s.cores.filterMap (·.block) ++ s.saved.map (·.block)).filter (fun b => b.cfg.part.val == p)

/-- The tower of the intake streams of a block, if it has any (R273). -/
def State.streamTower (s : State) (b : Block) : Option Nat :=
  s.towerNums.find? (fun t => (s.tower t).streams.any (fun x => x.lid == b.cfg.lid && x.block == b.cfg.index))

/-- The masks of the blocks of a partition that are saved, or are to be saved because their cores depart (R316, R327). -/
def State.savedMasks (s : State) (p : Nat) (cores : List Nat) : List (BitVec 8) :=
  (s.saved.filter (fun x => x.block.cfg.part.val == p)).map (·.block.rmask)
    ++ (List.range s.cores.length).filterMap (fun c =>
      match s.block? c with
      | some b => if b.cfg.part.val == p && !cores.contains c then some (s.maskOf c) else none
      | none => none)

/-- The new core set may not be taken (R327, R371). -/
def State.refusesCores (s : State) (p : Nat) (cores : List Nat) : Bool :=
  let new : Partition := { cores := cores }
  (s.mailbox.reduced && !s.entered && (match s.serviceTower with
    | some t => cores.any (fun c => towerOf c != t)
    | none => !cores.isEmpty))
  || s.launches.any (fun l => l.part.val == p && l.phase != .ended && decide (new.fullestQuad < recEns l.words))
  || (s.blocksOf p).any (fun b => match s.streamTower b with
      | some t => !cores.any (fun c => towerOf c == t)
      | none => false)
  || (s.savedMasks p cores).any (fun m => m != 0 && !cores.any (fun k => s.maskOf k == m))

/-- A core leaves its partition in the reconfiguration under way (R327). -/
def State.departs (s : State) (c : Nat) : Bool :=
  s.parts.any (fun p => match p with
    | some x => x.cores.contains c && x.leaving.any (fun cores => !cores.contains c)
    | none => false)

/-- The reconfiguration that the device has come to and has not begun (R327): the next message changes the core set of a partition that
exists, and is not turned away. -/
def State.reconfig (s : State) : Option (Nat × List Nat) :=
  match s.nextEntry with
  | none => none
  | some (q, e) =>
    let w := e.map (·.toNat)
    let p := bitsOf (wordOf w 1) 11 8
    let cores := maskCores w
    if e.getD 0 0 = q ∧ bitsOf (wordOf w 1) 7 0 = 6 ∧ bitsOf (wordOf w 1) 16 16 = 1 ∧ (s.partition? p).isSome
        ∧ (s.partition? p).all (·.leaving.isNone) ∧ !partBad w s p cores ∧ !s.refusesCores p cores then some (p, cores)
    else none

/-! ### Work (R334) -/

/-- The saved blocks of a launch. -/
def State.savedOf (s : State) (l : Launch) : List Saved := s.saved.filter (fun x => x.block.cfg.lid == l.id)

/-- The ensemble of a saved block. -/
def Saved.ens (x : Saved) : Nat := x.block.cfg.index / x.block.cfg.ens

/-- A save under R42 has freed the core: it goes to the ensembles that waited, each in its turn, and not back to the one that was saved
(R42, R293, R334; log entry 67). -/
def State.turning (s : State) (c : Nat) : Bool := (s.core c).freed

/-- The present members of a block's ensemble (R30). -/
def ensembleBlocks (l : Launch) (index : Nat) : List Nat :=
  let e := recEns l.words
  (List.range e).filterMap (fun r => let i := index / e * e + r; if i < l.grid then some i else none)

/-- The cores whose records name members of a launch's next ensemble: at start, or restored and waiting for partners. -/
def State.placed? (s : State) (l : Launch) : List Nat :=
  (List.range s.cores.length).filter (fun c =>
    let k := s.core c
    match k.bind with
    | .start => k.lid == l.id
    | .resume => k.block.any (fun b => b.cfg.lid == l.id)
    | _ => false)

/-- The ensemble of a launch that is to resume next, if one is (R334): the one being resumed; else, none while another is being started;
else the lowest of those saved. Where a save under R42 has freed the core, those saved for R327 or R369 come first, then unstarted blocks,
then the one saved longest ago. -/
def State.nextSaved (s : State) (turn : Bool) (l : Launch) : Option Nat :=
  let half := (s.placed? l).filterMap (fun c => (s.block? c).map (fun b => b.cfg.index / b.cfg.ens))
  let xs := s.savedOf l
  match half.find? (fun e => xs.any (·.ens == e)) with
  | some e => some e
  | none =>
    if !(s.placed? l).isEmpty then none
    else if turn then
      match minBy? id ((xs.filter (·.moved)).map Saved.ens) with
      | some e => some e
      | none => if l.started.length < l.grid then none else (minBy? (·.seq) xs).map Saved.ens
    else minBy? id (xs.map Saved.ens)

/-- The members of a launch's next ensemble that no core has yet (R31, R334): saved ones; or, since blocks start in increasing order,
those from the number of blocks started on. -/
def State.wanted (s : State) (turn : Bool) (l : Launch) : List Nat :=
  match s.nextSaved turn l with
  | some e => ((s.savedOf l).filter (·.ens == e)).map (·.block.cfg.index)
  | none =>
    let bound := (s.placed? l).map (fun c => (s.core c).bindRec.block.toNat)
    (ensembleBlocks l l.started.length).filter (fun i => !bound.contains i)

/-- How long a launch's next ensemble has waited, where a save under R42 has freed the core: unstarted ones longest, and those saved for
R327 or R369, by their launches; then the others by their saves. -/
def State.waitKey (s : State) (l : Launch) : Nat × Nat :=
  match s.nextSaved true l with
  | none => (0, l.order)
  | some e =>
    let xs := (s.savedOf l).filter (·.ens == e)
    if xs.any (·.moved) then (0, l.order) else (1, (xs.map (·.seq)).foldl max 0)

/-- A launch comes before another: the higher priority, then the one that finished step 4 earlier (R334); where a save under R42
has freed the core, the one that has waited longer. -/
def State.comesFirst (s : State) (turn : Bool) (x y : Launch) : Bool :=
  if x.prio ≠ y.prio then decide (y.prio < x.prio)
  else if turn then
    let (a, i) := s.waitKey x
    let (b, j) := s.waitKey y
    if a ≠ b then decide (a < b) else decide (i ≤ j)
  else decide (x.order ≤ y.order)

/-- The launch runs and has a block to start or to resume. -/
def State.hasWork (s : State) (l : Launch) : Bool := l.phase == .running && l.kill.isNone && !(s.wanted false l).isEmpty

/-- A saved block may resume on a core (R273, R321, R334). -/
def State.admits (s : State) (x : Saved) (c : Nat) : Bool :=
  (match s.streamTower x.block with | some t => t == towerOf c | none => true)
    && (x.block.rmask == 0 || x.block.rmask == s.maskOf c)

/-- A core could serve a launch of its partition (R334). -/
def State.couldServe (s : State) (p : Partition) (l : Launch) (c : Nat) : Bool :=
  decide (recEns l.words ≤ (p.inQuad c).length) &&
  (match s.nextSaved (s.turning c) l with
   | none => true
   | some e => ((s.savedOf l).filter (·.ens == e)).all (fun x => s.admits x c))

/-- The launch whose ensemble has some of its cores in the quad of a core, and lacks others. -/
def State.halfPlaced (s : State) (p : Fin 16) (c : Nat) : Option Launch :=
  s.launches.find? (fun l => l.part == p && s.hasWork l && (s.placed? l).any (fun d => quadOf d == quadOf c))

/-- The launch that a free core of a partition goes to, or is held for (R334): first the one whose ensemble is being placed in its
quad; else the first in order that it could serve. -/
def State.servedBy (s : State) (p : Fin 16) (q : Partition) (c : Nat) : Option Launch :=
  match s.halfPlaced p c with
  | some l => some l
  | none =>
    (s.launches.filter (fun l => l.part == p && s.hasWork l && s.couldServe q l c)).foldl (fun (b : Option Launch) l =>
      match b with
      | none => some l
      | some x => if s.comesFirst (s.turning c) x l then b else some l) none

/-- The tower takes blocks: it is in service, is not the service tower of a module that has entered full service (R371), and has no
retirement that is due (R366). -/
def State.takesBlocks (s : State) (t : Nat) : Bool :=
  (s.tower t).inService && !(s.entered && s.serviceTower == some t) && !((s.tower t).retirePending && !s.towerRuns t)

/-- A free core of a partition that a launch may have (R325, R327, R369, R371): none that departs, or awaits its remap; and while a
reconfiguration waits to begin, only for an ensemble that already has some of its cores (log entry 67). -/
def State.bindable (s : State) (p : Fin 16) (q : Partition) (l : Launch) (c : Nat) : Bool :=
  (s.core c).bind == .idle && q.cores.contains c && decide (c < 32 * s.part.towers) && s.takesBlocks (towerOf c)
    && !s.departs c && !(s.core c).remap && (!s.reconfig.any (fun r => r.1 == p.val) || !(s.placed? l).isEmpty)
    && (s.servedBy p q c).any (fun x => x.id == l.id)

/-- The cores of the quad of a core that would take the same ensemble of a launch as it does. -/
def State.sameChoice (s : State) (p : Fin 16) (q : Partition) (l : Launch) (c : Nat) : List Nat :=
  (q.inQuad c).filter (fun d => s.bindable p q l d && s.nextSaved (s.turning d) l == s.nextSaved (s.turning c) l)

/-- The launch for which Plovaeben may write a record that starts (or resumes) a block on a core (R334): the core goes to the launch,
the block is one that its next ensemble still wants, the ensemble lies in the core's quad, and the quad has the cores it needs. -/
def State.mayPlace (s : State) (resume : Bool) (c : Nat) (b : BindFields) : Option Launch :=
  match s.partition? b.part.val with
  | none => none
  | some q =>
    match s.servedBy b.part q c with
    | none => none
    | some l =>
      if s.bindable b.part q l c && l.asid == b.asid && l.smode == b.smode && l.lrec == b.lrec && (s.nextSaved (s.turning c) l).isSome == resume
          && (s.wanted (s.turning c) l).contains b.block.toNat
          && (s.placed? l).all (fun d => quadOf d == quadOf c && (s.core d).bindRec.etag == b.etag)
          && decide ((s.wanted (s.turning c) l).length ≤ (s.sameChoice b.part q l c).length) then some l
      else none

/-! ### Saves (R42, R327, R334, R335, R369) -/

/-- The block of an ensemble may be saved because a core of it departs (R327): an ensemble is saved as a whole. -/
def State.mustLeave (s : State) (b : Block) : Bool := (s.membersOf b.ensemble).any s.departs

/-- The ensemble of a block may be saved because a core of it is to be remapped: a transfer of its elevator column arrived damaged (R367,
R369; log entry 67). -/
def State.mayRemap (s : State) (b : Block) : Bool := (s.membersOf b.ensemble).any (fun c => (s.core c).damaged)

/-- A block is being saved, or is to be, for R327 or R369. -/
def State.moves (s : State) (b : Block) : Bool := s.mustLeave b || (s.membersOf b.ensemble).any (fun c => (s.core c).remap)

/-- Every member of an ensemble runs and has passed its quantum (R42, R335). -/
def State.eligible (s : State) (b : Block) : Bool :=
  b.cfg.sliced && (s.membersOf b.ensemble).all (fun c =>
    (s.core c).bind == .running && (match s.block? c with | some x => x.quantumPassed | none => false))

/-- The cores of a quad of a partition that hold no block, or whose block is being saved. -/
def State.freeIn (s : State) (p : Partition) (c : Nat) : Nat :=
  ((p.inQuad c).filter (fun d => (s.block? d).isNone || (s.core d).bind == .saving)).length

/-- A launch of the sliced class waits for cores (R42): it has work, and no quad has the cores that its next ensemble wants. -/
def State.waits (s : State) (p : Partition) (l : Launch) : Bool :=
  s.hasWork l && recSliced l.words
    && !p.cores.any (fun c => s.couldServe p l c && decide ((s.wanted (s.turning c) l).length ≤ s.freeIn p c))

/-- The cores of the quad of a core that could be freed for a launch: their blocks are eligible, and of no higher priority (R42, R334). -/
def State.freeableIn (s : State) (p : Partition) (l : Launch) (c : Nat) : Nat :=
  ((p.inQuad c).filter (fun d => (s.block? d).any (fun b =>
    s.eligible b && (s.launch? b.cfg.lid).any (fun x => decide (x.prio ≤ l.prio))))).length

/-- Saving the ensemble of a block would help a launch that waits to start (R334): one of equal or higher priority that its cores could
serve, in a quad in which saves can free the cores that its next ensemble wants. -/
def State.helps (s : State) (p : Partition) (prio : Fin 8) (b : Block) : Bool :=
  s.launches.any (fun l => l.part == b.cfg.part && decide (prio ≤ l.prio) && s.waits p l
    && (s.membersOf b.ensemble).any (fun c => s.couldServe p l c
      && decide ((s.wanted (s.turning c) l).length ≤ s.freeIn p c + s.freeableIn p l c)))

/-- What orders the ensembles to be saved (R334): priority, latest start or resume, launch, ensemble. -/
structure Victim where
  prio : Nat
  seq : Nat
  order : Nat
  ens : Nat
  deriving DecidableEq, Repr

/-- The order of saves (R334). -/
def Victim.le (x y : Victim) : Bool :=
  if x.prio ≠ y.prio then decide (x.prio < y.prio)
  else if x.seq ≠ y.seq then decide (x.seq < y.seq)
  else if x.order ≠ y.order then decide (x.order < y.order)
  else decide (x.ens ≤ y.ens)

/-- An ensemble as a candidate for a save, if it is one (R334): its latest start or resume is that of its latest member. -/
def State.victim (s : State) (p : Partition) (b : Block) : Option Victim :=
  match s.launch? b.cfg.lid with
  | none => none
  | some l =>
    if s.eligible b && s.helps p l.prio b then
      some ⟨l.prio.val, ((s.membersOf b.ensemble).filterMap (fun c => (s.block? c).map (·.seq))).foldl max 0, l.order, b.ensemble.2⟩
    else none

/-- Plovaeben may save a block under R42 (R334): its ensemble is the first of the candidates, and no other one is being saved. -/
def State.maySlice (s : State) (b : Block) : Bool :=
  match s.partition? b.cfg.part.val with
  | none => false
  | some p =>
    let blocks := p.cores.filterMap (fun c => (s.block? c).map (fun x => (c, x)))
    match s.victim p b with
    | none => false
    | some v => blocks.all (fun x => (s.victim p x.2).all v.le && (x.2.ensemble == b.ensemble || (s.core x.1).bind != .saving
        || s.moves x.2))

/-- Plovaeben may write the save code to the record of a block (R41, R42, R327, R334, R369): a core of its ensemble departs or is to be
remapped, its ensemble is being saved already, or it is the one to be saved under R42. -/
def State.maySave (s : State) (b : Block) : Bool :=
  s.mustLeave b || (s.membersOf b.ensemble).any (fun c => (s.core c).bind == .saving) || s.maySlice b || s.mayRemap b

end Sys2Proof.Machine
end

