-- ==== Sys2Proof/Machine/Scheduling.lean ====
section
/-! DEFINITION. Dispatch and the slot table: submission (R26, R27, R328, R329), dequeue (R28, R29), the start of an ensemble
(R30, R31), bind records (R332, R333), the exit of a block (R46, R324), saves and resumes (R313, R314, R321). -/
namespace Sys2Proof.Machine

/-! ### Submission (R26, R27, R328, R329) -/

/-- Some reserved bit of the record is set (R26, reason 0x01). -/
def recReserved (w : List Word) : Bool :=
  let r := recWord w
  bitsOf (r 0) 63 56 != 0 || bitsOf (r 1) 32 32 != 0 || bitsOf (r 1) 63 54 != 0 || bitsOf (r 2) 63 56 != 0
    || bitsOf (r 3) 31 19 != 0 || bitsOf (r 4) 31 29 != 0 || bitsOf (r 4) 15 10 != 0 || bitsOf (r 5) 63 56 != 0
    || bitsOf (r 6) 63 16 != 0 || bitsOf (r 7) 63 56 != 0 || bitsOf (r 9) 63 56 != 0 || bitsOf (r 10) 63 56 != 0
    || bitsOf (r 11) 63 61 != 0 || bitsOf (r 12) 63 61 != 0 || [13, 14, 15].any (fun i => r i != 0)

/-- Some address of the record is misaligned (R26, reason 0x02). -/
def recMisaligned (w : List Word) : Bool :=
  let a := recAddr w
  a 0 % 4 != 0 || bitsOf (recWord w 1) 31 0 % 4 != 0 || a 2 % 4 != 0 || a 5 % 8 != 0 || a 7 % 8 != 0 || a 9 % 8 != 0
    || a 10 % 4 != 0 || a 11 % 8 != 0 || a 12 % 8 != 0

/-- The geometry is out of range, or the block does not fit a core (R14, R26, reason 0x03). -/
def recGeometry (w : List Word) : Bool :=
  decide (8 < recSlots w) || decide (4096 < recRsp w) || decide (512 < recDsp w)
    || decide (1024 < (recGangs w + 3) / 4 * recAllot w) || decide (16 < recGangs w * recSlots w)

/-- The lowest reason for which the record is rejected (R27). -/
def recReason (w : List Word) (p : Partition) : Option Nat :=
  if recReserved w then some 1
  else if recMisaligned w then some 2
  else if recGeometry w then some 3
  else if (List.range 4).any (fun i => bitsOf (recWord w 4) (8 * i + 39) (8 * i + 32) == 0) then some 4
  else if bitsOf (recWord w 3) 63 32 = 0 ∧ recAddr w 10 = 0 then some 5
  else if decide (22 < bitsOf (recWord w 11) 60 56) || decide (22 < bitsOf (recWord w 12) 60 56) then some 6
  else if p.fullestQuad < recEns w then some 8
  else none

/-- The words in a run of bytes. -/
def wordList (n : Nat) (bs : List Byte) : List Word := (wordsOf n bs).map (BitVec.ofNat 64)

/-- Why a queue entry is rejected of itself (R27, R328): its reserved bits, then its addresses. -/
def entryReason (e0 e1 : Nat) : Option Nat :=
  if bitsOf e0 63 56 ≠ 0 ∨ bitsOf e1 63 56 ≠ 0 then some 1
  else if bitsOf e0 55 0 % 64 ≠ 0 ∨ bitsOf e1 55 0 % 8 ≠ 0 then some 2
  else none

/-- The lower of two reasons. -/
def lowerReason : Option Nat → Option Nat → Option Nat
  | some x, some y => some (min x y)
  | some x, none => some x
  | none, y => y

/-- A read of a failing granule by dispatch, of data or of a table entry, is logged (R364). -/
def State.logRun (s : State) : RunFail → State
  | .uncorrectable _ pa => s.log (pa / Config.towerBytes) { kind := 1, addr := pa }
  | .fault f _ => s.logWalk f
  | _ => s

/-- The submission of a queue entry (R27, R328, R329): the state, the launch, and the reason if it is rejected. A record is read
wherever its address is aligned, so that the lowest reason is found, and the object is known for R331 (log entry 66). -/
def State.submission (s : State) (part : Fin 16) (prio : Fin 8) (asid : BitVec 16) (smode : Bool) (p : Partition) (e0 e1 : Nat) :
    State × Launch × Option Nat :=
  let l : Launch := { id := s.nextLaunch, part := part, prio := prio, asid := asid, smode := smode, lrec := BitVec.ofNat 56 e0,
                      fateAddr := BitVec.ofNat 56 e1, words := [] }
  if bitsOf e0 55 0 % 64 ≠ 0 then (s, l, entryReason e0 e1)
  else match s.readRun [] asid smode (bitsOf e0 55 0) 128 with
    | .error f => (s.logRun f, l, lowerReason (entryReason e0 e1) (some 7))
    | .ok bs => (s, { l with words := wordList 16 bs }, lowerReason (entryReason e0 e1) (recReason (wordList 16 bs) p))

/-- What becomes of an entry when dispatch reads it (R27, R330, R331): a fate and a reason if it ends at once. One that was cancelled
before has that fate. -/
def State.fateAt (s : State) (p : Partition) (prio pos : Nat) (l : Launch) (bad : Option Nat) : Option (Nat × Nat) :=
  if (p.queues.getD prio {}).cancelled.contains pos || p.waitsLost prio pos (s.nameOf l (recAddr l.words 7)) then some (4, 0)
  else bad.map (fun r => (2, r))

/-- `LAUNCH_SUBMISSION`, if it can happen (R27, R328, R329): dispatch reads the next entry of a queue, though not while the partition's core
set changes (R327; log entry 67); a rejected launch leaves it at once. -/
def tryLaunchSubmission (part : Fin 16) (prio : Fin 8) (asid : BitVec 16) (smode : Bool) (s : State) : Option State :=
  match s.partition? part.val with
  | none => none
  | some p =>
    let q := p.queues.getD prio.val {}
    if q.head = q.tail ∨ p.leaving.isSome then none
    else
      let at_ := q.base + 16 * (q.head % 2 ^ q.log2)
      let (s1, l, bad) := s.submission part prio asid smode p (memNat s.mem at_ 8) (memNat s.mem (at_ + 8) 8)
      let p1 := { p with queues := p.queues.set prio.val { q with head := q.head + 1, cancelled := q.cancelled.filter (· != q.head) } }
      let s2 := { s1.setPartition part.val p1 with launches := s1.launches ++ [l], nextLaunch := s1.nextLaunch + 1 }
      match s.fateAt p prio.val q.head l bad with
      | some f => some (s2.endLaunch l.id f.1 f.2)
      | none => some s2

/-- `LAUNCH_SUBMISSION` (R27, R328, R329). -/
def execLaunchSubmission (part : Fin 16) (prio : Fin 8) (asid : BitVec 16) (smode : Bool) (s : State) : Out := happens s (tryLaunchSubmission part prio asid smode s)

/-! ### Dequeue (R28, R29, R329) -/

/-- The launches of the same queue before this one have completed step 4, and the limits of R329 and R338 leave room. -/
def State.mayDequeue (s : State) (l : Launch) : Bool :=
  !(s.launches.any (fun x => x.part = l.part && x.prio = l.prio && decide (x.id < l.id) && x.phase == .queued))
    && decide ((s.runningLaunches l.part).length < 64)
    && (!recDet l.words || decide (((s.runningLaunches l.part).filter (fun x => recDet x.words)).length < 8))

/-- A number of `n` bytes read for dispatch (R27, R28): none, with the state after the failure, if it cannot be read. -/
def State.dispatchRead (s : State) (l : Launch) (a n : Nat) : Except State Nat :=
  match s.readRun [] l.asid l.smode a n with
  | .ok bs => .ok (ofLeBytes bs)
  | .error f => .error (s.logRun f)

/-- An optional word of the record: none when its address is 0. -/
def State.boundWord (s : State) (l : Launch) (i n : Nat) : Except State (Option Nat) :=
  if recAddr l.words i = 0 then .ok none else (s.dispatchRead l (recAddr l.words i) n).map some

/-- Uniform table words, from an address on (R28 step 3). -/
def State.tableWords (s : State) (l : Launch) : Nat → Nat → Except State (List Nat)
  | 0, _ => .ok []
  | n + 1, a =>
    match s.dispatchRead l a 8 with
    | .error e => .error e
    | .ok v => (s.tableWords l n (a + 8)).map (v :: ·)

/-- The words that dispatch reads at dequeue (R28 steps 2 and 3): the grid bound, the uniform bounds, the table. -/
def State.dequeueWords (s : State) (l : Launch) : Except State (Option Nat × Option Nat × Option Nat × List Nat) :=
  match s.boundWord l 10 4 with
  | .error e => .error e
  | .ok g =>
    match s.boundWord l 11 8 with
    | .error e => .error e
    | .ok a =>
      match s.boundWord l 12 8 with
      | .error e => .error e
      | .ok b => (s.tableWords l (min (bitsOf (recWord l.words 6) 15 0) 23) (recAddr l.words 5)).map (fun t => (g, a, b, t))

/-- k0 to k23 (R29). -/
def uniforms (w : List Word) (table : List Nat) (b11 b12 : Option Nat) : List Word :=
  let t := (List.range 23).map (fun i => BitVec.ofNat 64 (table.getD i 0))
  let setK := fun (t : List Word) (i : Nat) (v : Option Nat) =>
    match v with
    | some x => t.set (bitsOf (recWord w i) 60 56) (BitVec.ofNat 64 x)
    | none => t
  setK (setK t 11 b11) 12 b12 ++ [BitVec.ofNat 64 (recWord w 4 / 2 ^ 32)]

/-- Steps 2 to 5 of R28 once the semaphore is satisfied. -/
def State.dequeue (s : State) (l : Launch) : State :=
  match s.dequeueWords l with
  | .error s1 => s1.endLaunch l.id 2 7
  | .ok (g, a, b, t) =>
    let w3 := bitsOf (recWord l.words 3) 63 32
    let grid := match g with
      | some v => min v w3
      | none => w3
    let s1 := ({ s with dequeues := s.dequeues + 1 } : State).setLaunch
      { l with phase := .running, homeMark := s.homeLog.length, order := s.dequeues, grid := grid, k := uniforms l.words t a b }
    if grid = 0 then s1.endLaunch l.id 1 0 else s1

/-- `LAUNCH_DEQUEUE`, if it can happen (R28): not while the semaphore is not satisfied. -/
def tryLaunchDequeue (lid : Nat) (s : State) : Option State :=
  match s.launch? lid with
  | none => none
  | some l =>
    if l.phase ≠ .queued ∨ !s.mayDequeue l then none
    else if recAddr l.words 7 = 0 then some (s.dequeue l)
    else match s.dispatchRead l (recAddr l.words 7) 8 with
      | .error s1 => some (s1.endLaunch l.id 2 7)
      | .ok v => if recWord l.words 8 ≤ v then some (s.dequeue l) else none

/-- `LAUNCH_DEQUEUE` (R28). -/
def execLaunchDequeue (lid : Nat) (s : State) : Out := happens s (tryLaunchDequeue lid s)

/-! ### Starting an ensemble (R30, R31, R333) -/

/-- The launch whose block a record at start names, with a block of that index still to start (R331). -/
def State.launchOf (s : State) (k : Core) : Option Launch :=
  (s.launch? k.lid).filter (fun l => l.phase == .running && l.kill.isNone && decide (k.bindRec.block.toNat < l.grid)
    && !l.started.contains k.bindRec.block.toNat)

/-- The fixed data of a block (R14, R26, R31). -/
def cfgOf (l : Launch) (b : BindFields) : BlockCfg :=
  let w := l.words
  { lid := l.id, lrec := l.lrec, etag := b.etag, index := b.block.toNat, grid := l.grid, ens := recEns w, nGangs := recGangs w,
    allot := recAllot w, slots := recSlots w, dsp := recDsp w, rsp := recRsp w, det := recDet w, sliced := recSliced w,
    smode := l.smode, part := l.part, asid := l.asid, code := BitVec.ofNat 56 (recWord w 0), handler := BitVec.ofNat 56 (recWord w 2),
    accept := BitVec.ofNat 32 (recWord w 1 / 2 ^ 32), utab := BitVec.ofNat 56 (recWord w 5), ucount := bitsOf (recWord w 6) 15 0,
    save := 4096 * b.save.toNat }

/-- A gang at its block's start (R31). -/
def startGang (entry : VAddr) (k : List Word) (slots : Nat) : Gang :=
  { lanes := List.replicate 32 { pc := entry }, k := k, slots := List.replicate slots {} }

/-- A block at its start (R31). -/
def State.startBlock (s : State) (l : Launch) (c : Nat) : Block :=
  let cfg := cfgOf l (s.core c).bindRec
  let entry := cfg.code + BitVec.ofNat 56 (bitsOf (recWord l.words 1) 31 0)
  { cfg := cfg, gangs := List.replicate cfg.nGangs (startGang entry l.k cfg.slots), since := (s.core c).cycles,
    seq := s.starts, rmask := s.maskOf c }

/-- The cores whose records carry the start code with the same tag and launch record (R333). -/
def State.startCores (s : State) (b : Core) : List Nat :=
  (List.range s.cores.length).filter (fun c =>
    let k := s.core c
    k.bind == .start && k.lid == b.lid && k.bindRec.etag == b.bindRec.etag && k.bindRec.lrec == b.bindRec.lrec
      && k.bindRec.asid == b.bindRec.asid && k.bindRec.part == b.bindRec.part)

/-- Blocks start on their cores (R31), with caches that hold nothing of before. -/
def State.startAll (s : State) (l : Launch) (cs : List Nat) : State :=
  let s1 := cs.foldl (fun (s : State) c => s.setCore c { s.core c with bind := .running, block := some (s.startBlock l c), l1 := [] }) s
  (({ s1 with starts := s1.starts + 1 } : State).setLaunch
    { l with started := l.started ++ cs.map (fun c => (s.core c).bindRec.block.toNat) }).settleTower (towerOf (cs.headD 0))

/-- The cores of an ensemble lie in one quad, on a tower that takes blocks (R16, R31, R366, R371). -/
def State.goodPlace (s : State) (cs : List Nat) : Bool :=
  cs.all (fun c => quadOf c == quadOf (cs.headD 0)) && s.takesBlocks (towerOf (cs.headD 0))

/-- `ENSEMBLE_START`, if it can happen (R31, R333): every present member's record reads start; they start together, in increasing order of ensembles. -/
def tryEnsembleStart (core : Nat) (s : State) : Option State :=
  let k := s.core core
  if k.bind ≠ .start then none
  else match s.launchOf k with
    | none => none
    | some l =>
      let want := ensembleBlocks l k.bindRec.block.toNat
      let cs := (s.startCores k).filter (fun c => want.contains (s.core c).bindRec.block.toNat)
      if cs.length = want.length ∧ (cs.map (fun c => (s.core c).bindRec.block.toNat)).eraseDups.length = want.length
          ∧ want.headD 0 = l.started.length ∧ s.goodPlace cs then
        some (s.startAll l cs)
      else none

/-- `ENSEMBLE_START` (R31, R333). -/
def execEnsembleStart (core : Nat) (s : State) : Out := happens s (tryEnsembleStart core s)

/-! ### Bind records (R332, R333) -/

/-- The code of a record's state (R333). -/
def BindState.code : BindState → Nat
  | .idle => 0x0 | .start => 0x1 | .resume => 0x2 | .saving => 0x3 | .running => 0x8 | .saved => 0x9 | .exited => 0xA | .killed => 0xB

/-- The write of a record takes effect (R332, R333): the core is idle, and no reserved bit is set. -/
def Core.takes (k : Core) (b : BindFields) : Bool := k.bind == .idle && b.reserved == 0

/-- `BIND_START` (R332, R333, R334): ignored in any state but idle; Plovaeben writes it for a block that its policy places there. -/
def execBindStart (core : Nat) (b : BindFields) (s : State) : Out :=
  let k := s.core core
  .next (if k.takes b then
    match s.mayPlace false core b with
    | some l => s.setCore core { k with bind := .start, bindRec := b, lid := l.id, freed := false }
    | none => s
  else s)

/-- `BIND_IDLE`: the core is free (R333). -/
def execBindIdle (core : Nat) (s : State) : Out :=
  let k := s.core core
  if k.bind = .saved ∨ k.bind = .exited ∨ k.bind = .killed then .next (s.setCore core { k with bind := .idle }) else .next s

/-- `BIND_KILL`: a running block, or one being saved, is killed (R323, R324, R333). -/
def execBindKill (core : Nat) (s : State) : Out :=
  let k := s.core core
  match k.block with
  | none => .next s
  | some b =>
    if k.bind = .running ∨ k.bind = .saving then
      let (s1, ns) := s.killBlock core ⟨b.cfg.index, [], 2⟩
      .next (State.deliver deliverFuel ns s1)
    else .next s

/-! ### Exit of a block (R46, R324) -/

/-- Nothing of the block is outstanding, and its Teller entries have been applied (R46, R150). -/
def Block.finished (b : Block) : Bool :=
  b.gangs.all (fun g => g.allExited && g.ops.isEmpty && g.slots.all (fun x => x.prog.isEmpty)) && b.teller.isEmpty

/-- The command names a scratchpad of its block (R261, R263, R265). -/
def Command.namesScratch (c : Command) : Bool :=
  let w := (c.regs.getD 2 0).toNat
  match c.kind with
  | .cpy | .cpyrd => bitsOf w 43 42 != 0
  | .cpycv => bitsOf w 18 18 == 0
  | .coll => false

/-- The commands of a block that name its scratchpads and are not done (R265). -/
def State.scratchCommands (s : State) (b : Block) : List Command :=
  s.commands.filter (fun c => c.lid == b.cfg.lid && c.block == b.cfg.index && c.namesScratch && !c.finished && c.failure.isNone)

/-- What a command that the exit of its block cuts short leaves (R259, R265): a part of its transfer, if it could have begun. -/
def State.cutShort (s : State) (c : Command) : State :=
  if !c.skipped && (c.started || s.mayStart c) then c.leaveFree s else s

/-- The commands of an exited block that name its scratchpads fail with cause 0x03 (R265). -/
def State.failScratch (s : State) (cs : List Command) : State :=
  cs.foldl (fun (s : State) c =>
    ({ s with towers := s.towers.map (·.withdraw (· == .command c.id)) } : State).failCommand c 3) s

/-- `BLOCK_EXIT`, if it can happen (R46, R324, R333): the core is free of the block, and what the block held is released. -/
def tryBlockExit (core : Nat) (s : State) : Option State :=
  let k := s.core core
  match k.block with
  | none => none
  | some b =>
    if (k.bind = .running ∨ k.bind = .saving) ∧ b.finished then
      let cs := s.scratchCommands b
      let s1 := cs.foldl State.cutShort (s.readLeaves core)
      let s2 := s1.setCore core { s1.core core with block := none, bind := .exited }
      let (s3, ns) := s2.releaseBlock (some core) b
      let s4 := s3.failScratch cs
      let s5 := match s4.launch? b.cfg.lid with
        | none => s4
        | some l => s4.setLaunch { l with exited := l.exited ++ [b.cfg.index] }
      some (State.deliver deliverFuel ns (s5.checkLaunch b.cfg.lid))
    else none

/-- `BLOCK_EXIT` (R46, R324, R333). -/
def execBlockExit (core : Nat) (s : State) : Out := happens s (tryBlockExit core s)

/-! ### Saving (R313, R333) -/

/-- A held word that a save leaves to issue again (R313). -/
def HeldKind.reissues : HeldKind → Bool
  | .barB _ | .barE _ | .nbar _ _ | .mxgsum _ _ | .drain _ | .peer _ _ => false
  | _ => true

/-- A gang during the wait of a save (R313): words that issue again are left, pending traps are dropped. -/
def Gang.quiet (g : Gang) : Gang :=
  let again := g.held.filter (fun h => h.kind.reissues || g.trapPends h)
  let g1 := again.foldl (fun (g : Gang) h => g.unhold h.id h.lanes) g
  { g1 with pending := [], lanes := g1.lanes.map (fun l => { l with req := none }) }

/-- The block during the wait of a save (R45, R313): the lease is released. -/
def Block.quiet (b : Block) : Block := ({ b with gangs := b.gangs.map Gang.quiet, lease := {} } : Block).countE

/-- The output of the Toss words that a save abandons (R251). -/
def State.leaveWords (s : State) (core : Nat) (b : Block) : State :=
  b.gangs.zipIdx.foldl (fun s g => g.1.held.foldl (fun s h => match h.kind with
    | .toss j => s.maybeToss (core, g.2, h.lanes) b.cfg.det j
    | _ => s) s) s

/-- The save of a block is requested (R313): no lane of it issues a further word. -/
def State.requestSave (s : State) (core : Nat) (b : Block) : State :=
  let s1 := s.leaveWords core b
  let s2 := s1.setCore core { s1.core core with bind := .saving, block := some b.quiet }
  s2.modTower (towerOf core) (fun t =>
    { t.withdraw (fun r => match r with | .teller _ => false | _ => r.ofCore core) with
      toss := t.toss.filter (fun q => q.1 != core)
      streams := t.streams.map (fun x => if x.lid = b.cfg.lid ∧ x.block = b.cfg.index then { x with stopped := true } else x) })

/-- The core is to be remapped once its block is saved, where nothing else asks for the save (R369). -/
def State.noteRemap (s : State) (core : Nat) (b : Block) : State :=
  if (s.core core).damaged && !s.mustLeave b && !s.maySlice b then s.setCore core { s.core core with remap := true } else s

/-- `BIND_SAVE` (R313, R333, R334, R369): a running block, which Plovaeben's policy allows to be saved. -/
def execBindSave (core : Nat) (s : State) : Out :=
  let k := s.core core
  .next (match k.block with
    | none => s
    | some b => if k.bind == .running && s.maySave b then (s.noteRemap core b).requestSave core b else s)

/-- The block has reached the point of R313 and R231. -/
def State.quiesced (s : State) (b : Block) : Bool :=
  b.gangs.all (fun g => g.ops.isEmpty && g.held.all (fun h => match h.kind with | .drain _ | .peer _ _ => false | _ => true))
    && !s.commands.any (fun c => c.lid == b.cfg.lid && c.block == b.cfg.index && c.namesScratch)

/-- The K-steps at which an `mxm` of `k` columns may be suspended once `done` of them have completed (R231): there, and each later
multiple of 64 before its end. -/
def tileBoundaries (done k : Nat) : List Nat :=
  done :: ((List.range 8).map (64 * ·)).filter (fun e => decide (done < e) && decide (8 * e < k))

/-- The first `mxm` of a slot's order may have run to any tile boundary when its block is saved (R231): which, is free (log
entry 51). `view` is the residue scratchpad as the word reads it (R146). -/
def Slot.suspend (view : Nat → Memory) (ret : Option Nat) (pick : Nat) (x : Slot) : Slot :=
  match x.prog with
  | [] => x
  | p :: r =>
    match p.kind with
    | .mxm f a b =>
      let es := tileBoundaries p.ksteps (bitsOf f.toNat 47 32)
      let e := es.getD (pick % es.length) p.ksteps
      { x with
        res := if p.live && e != p.ksteps then
            accumulateSlot x.res (view p.mark) ret (bitsOf a.toNat 23 0 + 256 * p.ksteps) (bitsOf b.toNat 23 0 + 256 * p.ksteps)
              (8 * (e - p.ksteps))
          else x.res
        prog := { p with ksteps := e } :: r }
    | _ => x

/-- The slots of a block as its save finds them (R231). -/
def Block.suspend (b : Block) (ret : Option Nat) (fresh : Nat) : Block :=
  { b with gangs := b.gangs.mapIdx (fun gi g => { g with slots := g.slots.mapIdx (fun n x =>
      x.suspend (fun m => b.rsView m fresh) ret (Config.freeCount (fresh + 16 * gi + n))) }) }

/-- A save under R42 has freed a core for an ensemble that waits, and with it those of its quad that stand free (R42, R334; log entry 67). -/
def State.freeFor (s : State) (core : Nat) (b : Block) : State :=
  match s.partition? b.cfg.part.val with
  | none => s
  | some p =>
    { s with cores := s.cores.mapIdx (fun d (k : Core) =>
        if d == core || ((p.inQuad core).contains d && k.bind == .idle) then { k with freed := true } else k) }

/-- A block is saved: its area is written, and its core is free (R313); `moved`: for R327 or R369. -/
def State.saveBlock (s : State) (moved : Bool) (core : Nat) (b : Block) : State :=
  let b1 := { b.quiet.suspend (retiredChannel s core) s.freshCount with rmask := s.maskOf core, rsLog := [], dsLog := [] }
  let s1 := { s with freshCount := s.freshCount + 2 ^ 25 }.writeArea b.cfg.save b1 (retiredChannel s core)
  let s2 := s1.setCore core { s1.core core with block := none, bind := .saved }
  let s3 := s2.modTower (towerOf core) (fun t => t.withdraw (Requester.ofCore core))
  let s4 := if moved then s3 else s3.freeFor core b
  { s4 with saved := s4.saved ++ [⟨b.cfg.save, b1, s4.starts, moved⟩] }

/-- A launch has a killed block: every other started block of it is killed (R331). -/
def State.launchKilled (s : State) (lid : Nat) : Bool := (s.launch? lid).any (·.kill.isSome)

/-- A member whose state the engine cannot read is killed (R321), and so is one of a launch that has a killed block (R331); the others are
saved. -/
def State.saveOne (s : State) (moved : Bool) (core : Nat) : State :=
  match s.block? core with
  | none => s
  | some b =>
    if b.dsFail.isEmpty && !s.launchKilled b.cfg.lid then s.saveBlock moved core b
    else
      let (s1, ns) := s.killBlock core ⟨b.cfg.index, [], if s.launchKilled b.cfg.lid then 2 else 1⟩
      State.deliver deliverFuel ns s1

/-- `CONTEXT_SAVE_COMPLETE`, if it can happen (R313, R333): the members of the ensemble that have not exited all read the save code and are
quiet; the ensemble is saved as a whole. -/
def tryContextSaveComplete (core : Nat) (s : State) : Option State :=
  match s.block? core with
  | none => none
  | some b =>
    let ms := s.membersOf b.ensemble
    if (s.core core).bind = .saving ∧ ms.all (fun c => (s.core c).bind == .saving &&
        (match s.block? c with | some x => s.quiesced x.quiet && !x.finished | none => false)) then
      some (ms.foldl (fun x c => x.saveOne (s.moves b) c) { s with starts := s.starts + 1 })
    else none

/-- `CONTEXT_SAVE_COMPLETE` (R313, R333). -/
def execContextSaveComplete (core : Nat) (s : State) : Out := happens s (tryContextSaveComplete core s)

/-! ### Resuming (R314, R321, R333) -/

/-- The saved block of a launch that a bind record names. -/
def State.savedFor (s : State) (l : Launch) (b : BindFields) : Option Saved :=
  (s.savedOf l).find? (fun x => x.block.cfg.index == b.block.toNat)

/-- Once no member of an ensemble is left in a save area, all that have been restored run (R314, R333). -/
def State.wakeRestored (s : State) : State :=
  let (s1, ns) := s.wakeCores s.restored
  State.deliver deliverFuel ns s1

/-- The block of an area is left no more. -/
def State.unsave (s : State) (x : Saved) : State :=
  { s with saved := s.saved.filter (fun y => y.block.cfg.lid != x.block.cfg.lid || y.block.cfg.index != x.block.cfg.index) }

/-- An area that fails R321 kills the block. -/
def State.killSaved (s : State) (core : Nat) (x : Saved) : State :=
  let blank : Block := { x.block with gangs := x.block.gangs.map (fun g => { g with held := [], ops := [] }) }
  let s1 := s.unsave x
  let (s2, ns) := (s1.setCore core { s1.core core with bind := .resume, block := some blank }).killBlock core ⟨x.block.cfg.index, [], 1⟩
  State.deliver deliverFuel ns s2

/-- The first failing granule of a run of package memory. -/
def State.badGranule (s : State) (a n : Nat) : Option Nat :=
  minBy? id (s.failing.filter (fun g => decide (a < 32 * g + 32) && decide (32 * g < a + n)))

/-- A saved block is read back onto a core (R314, R321); a failing granule of its area is logged (R364). -/
def State.resumeBlock (s : State) (core : Nat) (b : BindFields) (x : Saved) : State :=
  let cfg := { x.block.cfg with etag := b.etag, smode := b.smode, save := 4096 * b.save.toNat }
  let s1 := s.setCore core { s.core core with bindRec := b, freed := false }
  match s.badGranule cfg.save cfg.areaSize with
  | some g => (s1.log (32 * g / Config.towerBytes) { kind := 1, addr := max cfg.save (32 * g) }).killSaved core x
  | none =>
    let m := regionOf s.mem cfg.save cfg.areaSize
    if areaBad m cfg (s.maskOf core).toNat then s1.killSaved core x
    else
      let blk := restoreBlock m core (retiredChannel s core) (s.core core).cycles cfg x.block
      ((s1.setCore core { s1.core core with bind := .resume, block := some blk, lifting := true }).unsave x).wakeRestored

/-- `BIND_RESUME` (R314, R332, R333, R334): ignored in any state but idle; Plovaeben writes it for a saved block that its policy places
there. -/
def execBindResume (core : Nat) (b : BindFields) (s : State) : Out :=
  .next (if (s.core core).takes b then
    match (s.mayPlace true core b).bind (fun l => s.savedFor l b) with
    | some x => s.resumeBlock core b x
    | none => s
  else s)

end Sys2Proof.Machine
end

