-- ==== Sys2Proof/Machine/Mailbox.lean ====
section
/-! DEFINITION. The host link and the mailbox (R356 to R360), the host messages (R360, R373 to R376), and management stores. -/
namespace Sys2Proof.Machine

/-! ### Launches (R328, R330, R360) -/

/-- Kind 0x01: a launch-queue entry is appended. -/
def submitEffect (w : List Nat) (s : State) : State × Nat × List Nat :=
  let p := bitsOf (wordOf w 1) 11 8
  let k := bitsOf (wordOf w 1) 18 16
  match s.partition? p with
  | none => (s, 2, [])
  | some x =>
    let q := x.queues.getD k {}
    if 2 ^ q.log2 ≤ q.tail - q.head then (s, 3, [])
    else
      let at_ := q.base + 16 * (q.tail % 2 ^ q.log2)
      let s1 := s.writeLoc (.pkg at_) (leBytes 8 (wordOf w 2) ++ leBytes 8 (wordOf w 3))
      (s1.setPartition p { x with queues := x.queues.set k { q with tail := q.tail + 1 } }, 0, [])

/-- `SUBMIT_LAUNCH` (R328, R360). -/
def execSubmitLaunch (s : State) : Out := happens s (hostMessage 1 submitEffect s)

/-- The places of a queue whose entries dispatch has not read and that name a fate record (R328, R360). -/
def State.unread (s : State) (q : LaunchQueue) (fate : Nat) : List Nat :=
  ((List.range (q.tail - q.head)).map (q.head + ·)).filter (fun i =>
    !q.cancelled.contains i && bitsOf (memNat s.mem (q.base + 16 * (i % 2 ^ q.log2) + 8) 8) 55 0 == fate)

/-- The first entry of a partition's queues that names a fate record: queue and place. -/
def State.unreadIn (s : State) (x : Partition) (fate : Nat) : Option (Nat × Nat) :=
  (x.queues.zipIdx).findSome? (fun q => ((s.unread q.1 fate).head?).map (fun i => (q.2, i)))

/-- The first entry of all partitions that names a fate record is cancelled: it ends with fate 4 when dispatch comes to it (R330,
R360). -/
def State.cancelUnread (s : State) (fate : Nat) : Option State :=
  (s.parts.zipIdx).findSome? (fun p => p.1.bind (fun x => (s.unreadIn x fate).map (fun k =>
    s.setPartition p.2 { x with queues := modAt x.queues k.1 (fun q => { q with cancelled := k.2 :: q.cancelled }) })))

/-- Kind 0x02: the launch that names a fate record is killed, or cancelled while it is queued, read by dispatch or not. -/
def abortEffect (w : List Nat) (s : State) : State × Nat × List Nat :=
  match s.launches.find? (fun l => l.phase != .ended && l.fateAddr != 0 && l.fateAddr.toNat == wordOf w 2) with
  | some l => if l.phase = .queued then (s.endLaunch l.id 4 0, 0, []) else (s.killLaunch l.id, 0, [])
  | none =>
    match if wordOf w 2 = 0 then none else s.cancelUnread (wordOf w 2) with
    | some s1 => (s1, 0, [])
    | none => (s, 2, [])

/-- `ABORT_LAUNCH` (R330, R360). -/
def execAbortLaunch (s : State) : Out := happens s (hostMessage 2 abortEffect s)

/-! ### Channels, elevators, the Assay (R360, R365, R366, R369) -/

/-- A retirement request on a tower: false if it is ignored (R366). -/
def State.requestRetire (s : State) (t : Nat) (c : Fin 8) : State × Bool :=
  let x := s.tower t
  if x.retired || x.retirePending then (s, false)
  else (s.modTower t (fun x => { x with retirePending := true, channel := c }), true)

/-- Kind 0x03. -/
def retireEffect (w : List Nat) (s : State) : State × Nat × List Nat :=
  let t := bitsOf (wordOf w 1) 10 8
  if s.part.towers ≤ t then (s, 2, [])
  else
    let (s1, ok) := s.requestRetire t (Fin.ofNat 8 (bitsOf (wordOf w 1) 18 16))
    (s1, if ok then 0 else 4, [])

/-- `RETIREMENT_REQUEST` (R360, R366). -/
def execRetirementRequest (s : State) : Out := happens s (hostMessage 3 retireEffect s)

/-- A write to ELVMAP: false if it is ignored (R368, R369). -/
def State.writeElvmap (s : State) (c : Nat) (spare : Bool) (grp : BitVec 6) : State × Bool :=
  let k := s.core c
  if k.bind = .idle then
    (s.setCore c { k with spare := spare, grp := grp, keptMap := (spare, grp), damaged := false, remap := false }, true)
  else (s, false)

/-- Kind 0x04. -/
def remapEffect (w : List Nat) (s : State) : State × Nat × List Nat :=
  let t := bitsOf (wordOf w 1) 10 8
  if s.part.towers ≤ t then (s, 2, [])
  else
    let (s1, ok) := s.writeElvmap (32 * t + bitsOf (wordOf w 1) 20 16) true (BitVec.ofNat 6 (bitsOf (wordOf w 1) 29 24))
    (s1, if ok then 0 else 4, [])

/-- `ELEVATOR_REMAP_REQUEST` (R360, R369). -/
def execElevatorRemapRequest (s : State) : Out := happens s (hostMessage 4 remapEffect s)

/-- Kind 0x05: the Assay registers of a tower, two counters a word. -/
def assayEffect (w : List Nat) (s : State) : State × Nat × List Nat :=
  let t := bitsOf (wordOf w 1) 10 8
  if s.part.towers ≤ t then (s, 2, [])
  else
    let x := s.tower t
    let c := fun (i : Nat) => (x.asycnt.getD i 0).toNat
    (s, 0, (List.range 4).map (fun i => c (2 * i) + c (2 * i + 1) * 2 ^ 32) ++ [x.asylast.toNat])

/-- `ASSAY_READ` (R360, R365). -/
def execAssayRead (s : State) : Out := happens s (hostMessage 5 assayEffect s)

/-! ### Partitions (R325 to R328, R371, R373) -/

/-- Launch queues of a new partition, at the bases given (R328). -/
def newQueues (bases : List Nat) (log2 : Nat) : List LaunchQueue := bases.map (fun b => { base := b, log2 := log2 })

/-- Rings that Plovaeben may lay out: aligned, and inside package memory (R322, R328). -/
def State.ringsOk (s : State) (esc : Nat) (bases : List Nat) (e q : Nat) : Bool :=
  bases.length == 8 && (esc :: bases).all (fun b => b % 4096 == 0) && decide (esc + 16 * 2 ^ e ≤ s.packageBytes)
    && bases.all (fun b => decide (b + 16 * 2 ^ q ≤ s.packageBytes))

/-- A partition is destroyed (R326): refused while a block of it is live or a launch of it is queued, read by dispatch or not. -/
def destroyEffect (p : Nat) (s : State) : State × Nat × List Nat :=
  match s.partition? p with
  | none => (s, 2, [])
  | some x =>
    if !(s.blocksOf p).isEmpty || s.launches.any (fun l => l.part.val == p && l.phase != .ended)
        || x.queues.any (fun q => q.head != q.tail) then (s, 4, [])
    else ({ s with parts := s.parts.set p none }, 0, [])

/-- The Escrow ring of a partition moves while it is empty (R322). -/
def Partition.moveRing (x : Partition) (escBase e : Nat) : Partition :=
  if x.ring.isEmpty then { x with escBase := escBase, escLog2 := e } else x

/-- Kind 0x06 (R373): `escBase` and `bases` are where Plovaeben lays out the rings of a new partition. On a partition that
exists the core set changes, and the Escrow ring while it is empty (R322). -/
def partEffect (escBase : Nat) (bases : List Nat) (w : List Nat) (s : State) : State × Nat × List Nat :=
  let p := bitsOf (wordOf w 1) 11 8
  let cores := maskCores w
  let e := bitsOf (wordOf w 6) 4 0
  if bitsOf (wordOf w 1) 16 16 = 0 then destroyEffect p s
  else if partBad w s p cores then (s, 2, [])
  else if s.refusesCores p cores then (s, 4, [])
  else
    match s.partition? p with
    | none =>
      (s.setPartition p { cores := cores, escBase := escBase, escLog2 := e, queues := newQueues bases (bitsOf (wordOf w 6) 12 8) }, 0, [])
    | some x => (s.setPartition p { x.moveRing escBase e with cores := cores }, 0, [])

/-- The reconfiguration under way: its partition and its new core set. -/
def State.underWay (s : State) : Option (Nat × List Nat) :=
  s.parts.zipIdx.findSome? (fun p => p.1.bind (fun x => x.leaving.map (fun cores => (p.2, cores))))

/-- A departing core still has its block (R327 steps 1 to 3). -/
def State.departing (s : State) : Bool := (List.range s.cores.length).any (fun c => s.departs c && (s.core c).block.isSome)

/-- Some ensemble of a partition has some of its bind records, at start or at resume: it is completed before the core set changes (R31,
R327; log entry 67). -/
def State.placing (s : State) (p : Nat) : Bool :=
  s.launches.any (fun l => l.part.val == p && l.phase == .running && l.kill.isNone && !(s.placed? l).isEmpty)

/-- The cores that a reconfiguration under way leaves out are removed, their blocks saved (R327 step 3). -/
def removeEffect (p : Nat) (cores : List Nat) (escBase : Nat) (w : List Nat) (s : State) : State × Nat × List Nat :=
  match s.partition? p with
  | none => (s, 2, [])
  | some x => (s.setPartition p { x.moveRing escBase (bitsOf (wordOf w 6) 4 0) with cores := cores, leaving := none }, 0, [])

/-- A reconfiguration that is not turned away begins (R327): it waits for the ensembles that are being placed; and, where departing cores
hold blocks, until these are saved, however the launches and blocks stand meanwhile. -/
def State.reconfigure (s : State) (p : Nat) (cores : List Nat) (effect : List Nat → State → State × Nat × List Nat) : Option State :=
  let leaving := (s.partition? p).map (fun x => { x with leaving := some cores })
  if s.placing p then none
  else match leaving with
    | none => none
    | some x => if (s.setPartition p x).departing then some (s.setPartition p x) else hostMessage 6 effect s

/-- `PARTITION_CONFIG`, if it can happen (R373): a reconfiguration waits until the blocks on departing cores are saved (R327), unless it is
turned away. -/
def tryPartitionConfig (escBase : Nat) (queueBases : List Nat) (s : State) : Option State :=
  match s.nextEntry with
  | none => none
  | some (_, e) =>
    let w := e.map (·.toNat)
    let p := bitsOf (wordOf w 1) 11 8
    let good := bitsOf (wordOf w 1) 16 16 == 1 && !partBad w s p (maskCores w) && !s.refusesCores p (maskCores w)
    match s.underWay, s.reconfig with
    | some (p, cores), _ => if s.departing then none else hostMessage 6 (removeEffect p cores escBase) s
    | none, r =>
      if good && !s.ringsOk escBase queueBases (bitsOf (wordOf w 6) 4 0) (bitsOf (wordOf w 6) 12 8) then none
      else match r with
        | some (p, cores) => s.reconfigure p cores (partEffect escBase queueBases)
        | none => hostMessage 6 (partEffect escBase queueBases) s

/-- `PARTITION_CONFIG` (R373). -/
def execPartitionConfig (escBase : Nat) (queueBases : List Nat) (s : State) : Out := happens s (tryPartitionConfig escBase queueBases s)

/-! ### Firmware and attestation (R373 to R376) -/

/-- The retired-channel masks of the towers, a byte each (R376). -/
def State.retiredMasks (s : State) : List Byte :=
  (List.range 8).map (fun t => if (s.tower t).retired then BitVec.ofNat 8 (2 ^ (s.tower t).channel.val) else 0)

/-- The image of the active bank (R373, R376). -/
def State.activeImage (s : State) : List Byte := s.security.banks.getD s.security.active []

/-- The 256 signed bytes of a report (R376). -/
def State.report (s : State) (nonce : List Byte) (index : Nat) : List Byte :=
  nonce ++ imageDigest s.activeImage ++ leBytes 4 (imageSvn s.activeImage) ++ [BitVec.ofNat 8 s.part.code, 0, 0, 0]
    ++ s.retiredMasks ++ leBytes 8 s.mailbox.epoch.toNat ++ leBytes 4 index ++ List.replicate 164 0

/-- Kind 0x07: the index is advanced, then the report is signed and written (R376). -/
def attestEffect (w : List Nat) (s : State) : State × Nat × List Nat :=
  let i := s.security.attestIndex
  if wordOf w 6 % 4096 ≠ 0 then (s, 2, [])
  else if 65536 ≤ i then (s, 4, [])
  else
    let body := s.report ((List.range 4).flatMap (fun k => leBytes 8 (wordOf w (2 + k)))) i
    let bytes := body ++ attestSign i body
    ({ s with security := { s.security with attestIndex := i + 1 }, hostMem := cellsPut s.hostMem (wordOf w 6) bytes }, 0, [])

/-- `ATTESTATION_REQUEST` (R373, R376). -/
def execAttestationRequest (s : State) : Out := happens s (hostMessage 7 attestEffect s)

/-- Kind 0x08: an image that passes is written to the inactive bank (R373). -/
def firmwareEffect (w : List Nat) (s : State) : State × Nat × List Nat :=
  let img := cellsToList s.hostMem (wordOf w 2) (bitsOf (wordOf w 3) 31 0)
  if imagePasses img s.security.fusedSvn then
    ({ s with security := { s.security with banks := s.security.banks.set (1 - s.security.active) img, staged := true } }, 0, [])
  else (s, 4, [])

/-- `FIRMWARE_UPDATE` (R373 to R375). -/
def execFirmwareUpdate (s : State) : Out := happens s (hostMessage 8 firmwareEffect s)

/-- `NEW_BRINGUP`, if it can happen (R372, R373): every bring-up record is cleared, and the module starts as after a reset; its rings start
anew, so that no response is written. -/
def tryNewBringup (s : State) : Option State :=
  match s.nextEntry with
  | none => none
  | some (q, w) =>
    if w.getD 0 0 ≠ q ∨ bitsOf (w.getD 1 0).toNat 7 0 ≠ 9 then none
    else
      let s1 := { s with towers := s.towers.map (fun (t : Tower) => { t with bringUp := {}, barred := [] }) }
      some s1.resetModule

/-- `NEW_BRINGUP` (R372, R373). -/
def execNewBringup (s : State) : Out := happens s (tryNewBringup s)

/-! ### Mailbox registers (R357 to R359) -/

/-- `H2DTAIL_WRITE` (R358): the device reads on. -/
def execH2dtailWrite (v : Word) (s : State) : Out :=
  .next (({ s with mailbox := { s.mailbox with h2dtail := v, stopped := false } } : State).skimRing)

/-- Every entry from D2HACK + 1 to D2HSEQ is written again (R359): `es` are the entries from sequence number `q` on. -/
def State.rewrite (s : State) : Nat → List (List Word) → State
  | _, [] => s
  | q, e :: r => (if s.mailbox.d2hack.toNat < q then s.putEntry (BitVec.ofNat 64 q) e else s).rewrite (q + 1) r

/-- `D2HBASE_WRITE` (R357, R359). -/
def execD2hbaseWrite (v : Word) (s : State) : Out :=
  let s1 := { s with mailbox := { s.mailbox with d2hbase := BitVec.ofNat 64 (v.toNat / 2 ^ 12 * 2 ^ 12) } }
  .next (s1.rewrite 1 s1.mailbox.written)

/-- `D2HACK_WRITE` (R358): held entries may be written. -/
def execD2hackWrite (v : Word) (s : State) : Out :=
  .next (({ s with mailbox := { s.mailbox with d2hack := v } } : State).pump)

/-- The place of a ring's size register after a write (R357). -/
def ringSize (old : Nat) (v : Word) : Nat :=
  let n := bitsOf v.toNat 3 0
  if 4 ≤ n ∧ n ≤ 12 then n else old

/-- Bits [hi:lo] of a word, in place. -/
def keepBits (v : Word) (hi lo : Nat) : Word := BitVec.ofNat 64 (bitsOf v.toNat hi lo * 2 ^ lo)

/-- `REGISTER_WRITE` (R6, R351, R356, R357, R365, R377): the writable fields of a register. -/
def execRegisterWrite (r : MgmtReg) (v : Word) (s : State) : Out :=
  let m := s.mailbox
  .next (match r with
    | .ctxbase => { s with ctxbase := keepBits v 51 19 }
    | .flogged t => s.modTower t (fun x => { x with flogged := v })
    | .fdropped t => s.modTower t (fun x => { x with fdropped := v })
    | .asythr t => s.modTower t (fun x => { x with asythr := v.setWidth 32 })
    | .apbase => { s with mailbox := { m with apbase := keepBits v 51 36 } }
    | .h2dbase => { s with mailbox := { m with h2dbase := keepBits v 63 12 } }
    | .h2dsize => { s with mailbox := { m with h2dsize := ringSize m.h2dsize v } }
    | .d2hsize => { s with mailbox := { m with d2hsize := ringSize m.d2hsize v } }
    | .pwrlim => { s with pwrlim := min 5500 (max 1000 (bitsOf v.toNat 15 0)) }
    | .tlim => { s with tlim := min 100 (max 70 (bitsOf v.toNat 7 0)) }
    | .bar0Other => s)

/-! ### The aperture and management stores (R351, R356) -/

/-- A run of package memory by physical address, which the part must have (R344). -/
def withRun (s : State) (a n : Nat) (k : Out) : Out := if a + n ≤ s.packageBytes then k else .fault .noSuchMemory

/-- A read of a failing granule is logged as kind 1 (R364), at the granule's tower. -/
def State.noteFailing (s : State) (a n : Nat) : State :=
  match s.failing.find? (fun g => decide (a < 32 * g + 32) && decide (32 * g < a + n)) with
  | some g => s.log (32 * g / Config.towerBytes) { kind := 1, addr := max a (32 * g) }
  | none => s

/-- `HOST_APERTURE_READ` (R356): byte o of BAR2 is physical address APBASE + o; past its 64 GiB there is no such access. -/
def execHostApertureRead (off n : Nat) (s : State) : Out :=
  if 2 ^ 36 < off + n then .next s
  else
    let a := s.mailbox.apbase.toNat + off
    withRun s a n (let s1 := s.noteFailing a n
      .next { s1 with hostReply := .data (cellGetList s.mem a n) })

/-- `HOST_APERTURE_WRITE` (R356). -/
def execHostApertureWrite (off : Nat) (bytes : List Byte) (s : State) : Out :=
  if 2 ^ 36 < off + bytes.length then .next s
  else
    let a := s.mailbox.apbase.toNat + off
    withRun s a bytes.length (.next (s.writeLoc (.pkg a) bytes))

/-- `HOST_ATOMICOP_REJECT` (R356). -/
def execHostAtomicopReject (s : State) : Out := .next { s with hostReply := .unsupportedRequest }

/-- `MANAGEMENT_CORE_STORE` (R351). -/
def execManagementCoreStore (addr : Nat) (bytes : List Byte) (s : State) : Out :=
  withRun s addr bytes.length (.next (s.writeLoc (.pkg addr) bytes))

end Sys2Proof.Machine
end

