-- ==== Sys2Proof/Machine/Peers.lean ====
section
/-! DEFINITION. The scale-up fabric (R361, R362), containment and spare groups (R365 to R369), and bits that change of themselves
(R110, R126). -/
namespace Sys2Proof.Machine

/-! ### Incoming transactions (R361) -/

/-- A write with byte enables, granule by granule (R126, R361): into a failing granule that it does not fill it is discarded, as one
event (R127). -/
def State.peerWrite (s : State) (a : Nat) (bs : List (Option Byte)) : State :=
  (blockPieces 32 (bs.length / 32 + 2) a bs.length).foldl (fun s p =>
    let runs := enabledRuns p.1 ((bs.drop (p.1 - a)).take p.2)
    let runs := if s.granulesFail p.1 p.2 then runs.take 1 else runs
    runs.foldl (fun s r => s.writeLoc (.pkg r.1) r.2) s) s

/-- An atomic of a peer at its home here (R131, R195). -/
def State.peerAtomic (s : State) (op : AtomOp) (w : Width) (a : Nat) (v c : Word) : State :=
  s.writeLoc (.pkg a) (leBytes w.bytes (atomNew op w.bits (memNat s.mem a w.bytes) (v.toNat % 2 ^ w.bits) (c.toNat % 2 ^ w.bits)))

/-- `PEER_REQUEST` (R361): performed at the home here, every atomic of R195 among them (R119); one that is misaligned is none that a
module sends, and changes nothing (R195); messages are for management cores only. -/
def execPeerRequest (r : PeerReq) (s : State) : Out :=
  match r with
  | .read a n => withRun s a n (.next (s.noteFailing a n))
  | .write a bs => withRun s a bs.length (.next (s.peerWrite a bs))
  | .atomic op wide a v c =>
    let w := if wide then Width.b64 else Width.b32
    if a % w.bytes ≠ 0 then .next s
    else withRun s a w.bytes (
      .next (if s.granulesFail a w.bytes then s.noteFailing a w.bytes else s.peerAtomic op w a v c))
  | .message => .next s

/-! ### Outgoing transactions that fail (R362) -/

/-- The first place on a peer module among those of a range, with its virtual address, at a byte for which `p` holds (by offset). -/
def TossRange.peerPlace (q : TossRange) (p : Nat → Bool) : Option (Nat × Nat) :=
  (q.locs.foldl (fun (acc : Nat × Option (Nat × Nat)) x =>
    (acc.1 + x.2.1, acc.2.or (if x.1.isPeer then
      ((List.range x.2.1).find? (fun i => p (acc.1 + i))).map (fun i => (q.va + acc.1 + i, x.1.addr + i)) else none))) (0, none)).2

/-- The first place on a peer module that a Toss word reads: of its record, or of what the unit has still to read of its ranges (R246). -/
def TossJob.peerRead (j : TossJob) : Option (Nat × Nat) :=
  (j.record :: j.ins).findSome? (fun q => q.peerPlace (fun i => !inRuns (q.got.map (fun x => (x.1, x.2.length))) i))

/-- Where a held word reads peer memory for a lane: the lane named by the trap, the virtual address and the peer's address. A Toss
word reads for its lowest lane; an armed condition reads its own word (R108, R202, R246). -/
def State.peerRead (s : State) (c : Nat) (b : Block) (h : Held) (lane : Nat) : Option (Nat × Nat × Nat) :=
  match h.kind with
  | .peer o vas => (o.todo.find? (fun x => x.lane == lane && x.spot.isPeer && x.reads)).bind (fun x =>
      match x.spot with
      | .vm loc => some (lane, ((vas.find? (fun p => p.1 == lane)).map (·.2)).getD 0, loc.addr)
      | _ => none)
  | .toss j => j.peerRead.map (fun p => (lowLane h.lanes, p.1, p.2))
  | .monw _ _ es => (es.find? (·.lane == lane)).bind (fun e =>
      match walk s (s.coreTlb c) b.cfg.asid e.va with
      | .ok (.peer _ a) _ => some (lane, e.va, a)
      | _ => none)
  | _ => none

/-- The word has been held since it issued, and a trap of it says so (R305): a Toss word. -/
def HeldKind.isToss : HeldKind → Bool
  | .toss _ => true
  | _ => false

/-- A word's peer read or atomic fails: *uncorrectable-data* at step 6 of R108, logged as kind 5 (R305, R362, R364). -/
def State.failPeerWord (s : State) (c gi lane : Nat) : Option State :=
  (s.block? c).bind (fun b => (b.gangs[gi]?).bind (fun g =>
    (g.held.find? (fun h => h.lanes.getLsbD lane && !g.pending.any (fun p => p.heldId == h.id))).bind (fun h =>
      (s.peerRead c b h lane).map (fun r =>
        ((s.log (towerOf c) { kind := 5, addr := r.2.2 }).trapAt c gi h.iss h.lanes (some h.id)
          { cause := Cause.uncorrectableData, lane := r.1, info := spaceInfo r.2.1 0, held := h.kind.isToss }).leaveToss (c, gi, h.id)))))

/-- A store as stores of one byte each (R362). -/
def Access.bytes (x : Access) : List Access :=
  (List.range x.n).map (fun i => { x with spot := x.spot.plus i, n := 1, act := (x.act.part false i).part true 1 })

/-- An issued store to a peer fails: no trap, its bytes old or new (log entry 9), logged as kind 4; a release that waited on it goes
on (R362). -/
def State.failPeerOp (s : State) (c gi : Nat) (o : Op) : Option State :=
  (s.gang? c gi).bind (fun g =>
    let xs := o.todo.filter (fun x => x.spot.isPeer && x.writes && !s.mustWait c gi g o.id x)
    match xs with
    | [] => none
    | x :: _ =>
      let a := match x.spot with
        | .vm loc => loc.addr
        | _ => 0
      let s1 := xs.foldl (·.unpost c gi o.id) (s.maybePerform c gi { o with todo := xs.flatMap Access.bytes })
      let todo := o.todo.filter (fun x => !xs.contains x)
      let o1 := { o with todo := todo, peer := todo.any (fun x => x.spot.isPeer) }
      some (((s1.modGang c gi (·.setOp o1)).log (towerOf c) { kind := 4, addr := a }).wakeGang c gi))

/-- A byte of a range, by offset, lies on a peer module. -/
def TossRange.onPeer (q : TossRange) (i : Nat) : Bool :=
  (q.locs.foldl (fun (acc : Nat × Bool) x =>
    (acc.1 + x.2.1, acc.2 || (x.1.isPeer && decide (acc.1 ≤ i) && decide (i < acc.1 + x.2.1)))) (0, false)).2

/-- The output of the Toss word that a unit is to complete fails at a peer (R246, R362): the word completes, and each byte there that is
not yet written is old or new. -/
def State.failPeerToss (s : State) (c gi id : Nat) : Option State :=
  (s.tossHeld (c, gi, id)).bind (fun q =>
    match q.2.2.2.outs with
    | [] => none
    | x :: _ =>
      if q.1.cfg.det then none
      else (x.peerPlace (fun i => !inRuns x.did i)).bind (fun p =>
        let s1 : State := { s with freshCount := s.freshCount + x.n }
        (s1.serveEntry (fun i => !x.onPeer i || Config.freeChoice (s.freshCount + i)) (c, gi, id)).map
          (·.log (towerOf c) { kind := 4, addr := p.2 })))

/-- The first entry of a flush that the Teller applies lies on a peer module, and its transaction fails (R150, R362): each byte of a store
is old or new, an atomic is made or not; later entries go on (log entry 79). -/
def State.failPeerEntry (s : State) (c : Nat) (b : Block) (e : TellerEntry) : Option State :=
  match walk s (s.coreTlb c) b.cfg.asid e.addr.toNat with
  | .ok (.peer m a) leaf =>
    if !leaf.allows b.cfg.smode e.kind.access then none
    else
      let s1 : State := { s with freshCount := s.freshCount + 8 }
      let t := towerOf c
      let new := e.value (ofLeBytes (s.readLoc (.peer m a) e.size))
      let s2 := if e.kind = .store then
          (List.range e.size).foldl (fun x i => if Config.freeChoice (s.freshCount + i) then
            x.towerWrite t (some (c, e.gang, oneLane e.lane)) { rel := true, scope := .dev } (.peer m (a + i)) [BitVec.ofNat 8 (new / 2 ^ (8 * i))]
          else x) s1
        else if Config.freeChoice s.freshCount then s1.performEntry c e (.peer m a) else s1
      some ((s2.dropEntry c e).log t { kind := if e.kind = .store then 4 else 5, addr := a })
  | _ => none

/-- A store of the Teller to a peer fails: that of the gang, and with the number, given (R362). -/
def State.failPeerTeller (s : State) (c gi seq : Nat) : Option State :=
  (s.block? c).bind (fun b =>
    match b.nextFlush with
    | [] => none
    | e :: _ =>
      if e.gang = gi ∧ e.seq = seq ∧ s.flushReady b then
        let s1 := s.performExited c b
        (s1.block? c).bind (fun b1 => s1.failPeerEntry c b1 e)
      else none)

/-- A store to a peer fails (R362): of an operation, of a Toss word, or of the Teller. -/
def State.failPeerStore (s : State) (c gi op : Nat) : Option State :=
  match (s.gang? c gi).bind (fun g => g.ops.find? (·.id == op)) with
  | some o => s.failPeerOp c gi o
  | none => (s.failPeerToss c gi op).or (s.failPeerTeller c gi op)

/-- The runs of virtual memory that a command accesses, as far as it has come: those of its transfer or of its program's step. -/
def Command.runs (c : Command) (s : State) : List (Nat × Nat) :=
  let n := bitsOf (c.reg 2) 39 0
  let side := fun (x : Side) => match x with
    | .virt va => [(va, n)]
    | .scratch _ => []
  match c.kind with
  | .cpy | .cpyrd => c.readRuns ++ side c.sides.1
  | .cpycv => c.readRuns ++ (if c.cvArgs.plane then [(c.cvArgs.dst, 256 * c.cvArgs.k + 32)] else [])
  | .coll =>
    match c.coll with
    | none => c.programRuns s
    | some k =>
      let w := k.step
      k.stepRuns ++ (match stepSop w with
        | 1 => [(readyAt (k.peer k.rank).2 (stepTag w), 8)]
        | 2 | 3 | 4 | 5 => [(k.at k.rank (stepDb w) (k.p w), k.size (stepDb w))]
        | _ => [])

/-- The peer address that some runs of a command meet first, if they meet one. -/
def Command.peerAddr (c : Command) (s : State) (runs : List (Nat × Nat)) : Option Nat :=
  runs.findSome? (fun r => (piecesOf r.1 r.2).findSome? (fun p =>
    match walk s (c.tlb s) c.asid p.1 with
    | .ok (.peer _ a) _ => some a
    | _ => none))

/-- The update of a command's completion object in peer memory fails: cause 0x09 (R258, R362). -/
def State.failPeerObject (s : State) (c : Command) : Option State :=
  if !s.firstOfQueue c || c.reg 3 = 0 then none
  else (c.peerAddr s [(c.reg 3, 8)]).map (fun a =>
    let c1 := { c with failure := some 9 }
    (((s.log (towerOf c.core) { kind := 5, addr := a }).setCommand c1).failQueue c1 9).retireCommand c1)

/-- A command's peer access fails: the command fails with cause 0x05, logged as kind 5 (R258, R362); one that fails an earlier check makes
none. -/
def State.failPeerCommand (s : State) (id : Nat) : Option State :=
  match s.command? id with
  | none => none
  | some c =>
    if c.stalled || c.stopped then none
    else if c.finished then s.failPeerObject c
    else if c.skipped || c.failure.isSome || !(c.started || (s.mayStart c && (c.startBad s).isNone)) then none
    else (c.peerAddr s (c.runs s)).map (fun a =>
      let s1 := s.log (towerOf c.core) { kind := 5, addr := a }
      let c1 := { c with started := true }
      if c.kind = .coll then
        if c.coll.isSome then (c.stepFree s1).failColl c1 5 else s1.failColl { c1 with coll := c.partColl s } 5
      else (c.leaveFree s1).failCommand c1 5)

/-- A peer transaction fails (R362). -/
def failPeer (t : PeerTx) (s : State) : Out :=
  happens s (match t with
    | .word c g l => s.failPeerWord c g l
    | .store c g o => s.failPeerStore c g o
    | .command i => s.failPeerCommand i)

/-- `PEER_TRANSACTION_TIMEOUT` (R362). -/
def execPeerTransactionTimeout (t : PeerTx) (s : State) : Out := failPeer t s

/-- `PEER_ERROR_RESPONSE` (R362). -/
def execPeerErrorResponse (t : PeerTx) (s : State) : Out := failPeer t s

/-! ### The Assay and containment (R365, R366) -/

/-- `ASYCNT_CLEAR` (R365): the counter clears, and the channel may log its event again. -/
def execAsycntClear (tower channel : Nat) (s : State) : Out :=
  .next (s.modTower tower (fun x => { x with
    asycnt := x.asycnt.set channel 0
    asyLogged := x.asyLogged &&& ~~~ (BitVec.ofNat 8 (2 ^ channel)) }))

/-- `CONTAIN_RETIRE_REQUEST` (R366): a write with bit 8 clear has no effect. -/
def execContainRetireRequest (tower : Nat) (v : Word) (s : State) : Out :=
  if v.getLsbD 8 then .next (s.requestRetire tower (Fin.ofNat 8 (bitsOf v.toNat 2 0))).1 else .next s

/-- `CHANNEL_RETIREMENT`, if it can happen (R366): with no record of the tower running, the pending channel is retired, and recorded. -/
def tryChannelRetirement (tower : Nat) (s : State) : Option State :=
  if (s.tower tower).retirePending && !s.towerRuns tower then
    some (s.modTower tower (fun x => { x with retirePending := false, retired := true, keptChannel := some x.channel }))
  else none

/-- `CHANNEL_RETIREMENT` (R366). -/
def execChannelRetirement (tower : Nat) (s : State) : Out := happens s (tryChannelRetirement tower s)

/-! ### Elevators (R367 to R369) -/

/-- `ELVMAP_WRITE` (R368, R369). -/
def execElvmapWrite (core : Nat) (v : Word) (s : State) : Out :=
  .next (s.writeElvmap core (v.getLsbD 63) (v.setWidth 6)).1

/-- The place of element `i` of the eight that a group carries in a beat (R367): its channel, and the element. -/
def groupElem (group beat i : Nat) : Nat × Nat := (group / 8, 64 * beat + 8 * (group % 8) + i)

/-- The eight elements of a group in a beat, as received, with their plane offsets (R94, R367). -/
def damagedPlanes (group beat : Nat) (vs : List Byte) : List (Nat × Byte) :=
  vs.mapIdx (fun i v =>
    let (ch, e) := groupElem group beat i
    (2048 * (e / 256) + 256 * ch + e % 256, v))

/-- Bytes received in place of those of a run of a residue scratchpad, as far as the block's grant goes (R94, R367). -/
def Block.damageRs (b : Block) (o n group beat : Nat) (vs : List Byte) : Block :=
  { b with rs := ((damagedPlanes group beat vs).filter (fun p =>
      decide (o ≤ p.1) && decide (p.1 < o + n) && decide (p.1 < 2048 * b.cfg.rsp))).foldl (fun m p => cellSet m p.1 p.2) b.rs }

/-- Bytes received in place of a slot's (R319, R367). -/
def Slot.damage (x : Slot) (group beat : Nat) (vs : List Byte) : Slot :=
  { x with res := (vs.mapIdx (fun i v => (groupElem group beat i, v))).foldl (fun m p =>
      if p.1.2 < 1024 then cellSet m (1024 * p.1.1 + p.1.2) p.2 else m) x.res }

/-- Bytes received in place of those that a staged `rpst` has read (R148, R367): `first`, `count`, `o` and `va` say which entries of the
gang hold them. -/
def TellerEntry.damage (e : TellerEntry) (gi first count o va group beat : Nat) (vs : List Byte) : TellerEntry :=
  if e.gang = gi ∧ first ≤ e.seq ∧ e.seq < first + count then
    { e with data := BitVec.ofNat 64 (ofLeBytes ((damagedPlanes group beat vs).foldl (fun bs p =>
        if decide (o ≤ p.1) && decide (e.addr.toNat ≤ va + (p.1 - o)) && decide (va + (p.1 - o) < e.addr.toNat + e.size) then
          bs.set (va + (p.1 - o) - e.addr.toNat) p.2
        else bs) (leBytes 8 e.data.toNat))) }
  else e

/-- An access of an operation of a gang, by its place, that can be performed now (R132). -/
def State.liftable (s : State) (c gi op k : Nat) : Option (Op × Access) :=
  (s.gang? c gi).bind (fun g => (g.openOps.find? (·.id == op)).bind (fun o => (o.todo[k]?).bind (fun x =>
    if (o.groupOf x).any (s.mustWait c gi g op) then none else some (o, x))))

/-- An access that brings residues is performed, and a beat of them arrives damaged (R367): of an `enc`, or of an `rpld`. -/
def State.liftUp (s : State) (c gi op k group beat : Nat) (vs : List Byte) : Option State :=
  (s.liftable c gi op k).bind (fun p =>
    let run := match p.2.act, p.2.spot with
      | .fill o, _ => some o
      | .store _, .rs o => some o
      | _, _ => none
    run.map (fun o =>
      (((s.performIn c gi p.1 (p.1.groupOf p.2)).modBlock c (fun b => b.damageRs o p.2.n group beat vs)).wakeGang c gi)))

/-- Units of a `cpycv` that bring residues are performed, and a beat of them arrives damaged (R263, R367). -/
def State.liftCopy (s : State) (c cmd off n group beat : Nat) (vs : List Byte) : Option State :=
  (s.command? cmd).bind (fun x =>
    let s1 := s.engineWriteTurn cmd 0 off n
    if x.core = c ∧ x.kind = .cpycv ∧ !x.cvArgs.plane ∧ (s1.command? cmd).any (fun y => y.did.length != x.did.length) then
      some (s1.modBlock c (fun b => b.damageRs (8 * x.cvArgs.res + off) n group beat vs))
    else none)

/-- An access of an `rpst` is performed with a damaged beat: the residue scratchpad itself stays as it is (R367). -/
def State.liftDown (s : State) (c gi op k group beat : Nat) (vs : List Byte) : Option State :=
  (s.block? c).bind (fun b => (s.liftable c gi op k).bind (fun p =>
    match p.2.act with
    | .spill o | .reduce o =>
      some ((((s.setBlock c (b.damageRs o p.2.n group beat vs)).performIn c gi p.1 (p.1.groupOf p.2)).modBlock c
        (fun y => { y with rs := b.rs })).wakeGang c gi)
    | _ => none))

/-- An `rpst` that has been staged, and is not complete, read a damaged beat (R148, R367). -/
def State.liftStaged (s : State) (c gi op group beat : Nat) (vs : List Byte) : Option State :=
  ((s.gang? c gi).bind (fun g => g.ops.find? (·.id == op))).bind (fun o => o.staged.map (fun p =>
    s.modBlock c (fun b => { b with teller := b.teller.map (·.damage gi p.1 p.2.1 p.2.2.1 p.2.2.2 group beat vs) })))

/-- A held drain is decided on a damaged beat: the slot itself stays as it is (R101, R367). -/
def State.liftDrain (s : State) (c gi op group beat : Nat) (vs : List Byte) : Option State :=
  (s.gang? c gi).bind (fun g => (g.heldOf op).bind (fun h =>
    match h.kind with
    | .drain j =>
      let x := g.slot j.slot
      (tryDrainDecision c gi op (s.setGang c gi (g.setSlot j.slot (x.damage group beat vs)))).map (fun s1 =>
        s1.modGang c gi (fun y => y.setSlot j.slot { y.slot j.slot with res := x.res }))
    | _ => none))

/-- The residues of a block are on their way to its save area, or have just come back from it (R313, R314, R367). -/
def State.inTransit (s : State) (c : Nat) (b : Block) : Bool :=
  (s.core c).lifting || ((s.core c).bind == .saving && s.quiesced b.quiet && !b.finished)

/-- A beat of what a save takes, or a resume has brought back, arrives damaged (R367): of the residue scratchpad, or (gang and number) of a
slot. -/
def State.liftArea (s : State) (c : Nat) (slot : Option (Nat × Nat)) (group beat : Nat) (vs : List Byte) : Option State :=
  (s.block? c).bind (fun b =>
    if !s.inTransit c b then none
    else match slot with
      | none => some (s.setBlock c (b.damageRs 0 (2048 * b.cfg.rsp) group beat vs))
      | some (gi, n) => (b.gangs[gi]?).bind (fun g =>
          if g.slots.length ≤ n then none else some (s.setGang c gi (g.setSlot n ((g.slot n).damage group beat vs)))))

/-- What a transfer that completes with a damaged beat comes to (R12, R367). -/
def State.lift (s : State) (c group gi : Nat) (l : Lift) (op beat : Nat) (vs : List Byte) : Option State :=
  match l with
  | .up k => s.liftUp c gi op k group beat vs
  | .copy off n => s.liftCopy c op off n group beat vs
  | .drain => s.liftDrain c gi op group beat vs
  | .down k => s.liftDown c gi op k group beat vs
  | .staged => s.liftStaged c gi op group beat vs
  | .area => s.liftArea c none group beat vs
  | .areaSlot => s.liftArea c (some (gi, op)) group beat vs

/-- `ELEVATOR_GROUP_ERROR`, if it can happen (R367): of one beat, the eight elements of the group arrive as received; an event of
kind 8. The core may be remapped (R369). -/
def tryElevatorGroupError (core group gi : Nat) (l : Lift) (op beat : Nat) (vs : List Byte) (s : State) : Option State :=
  if 64 ≤ group ∨ vs.length ≠ 8 then none
  else (s.lift core group gi l op beat vs).map (fun s1 => (s1.setCore core { s1.core core with damaged := true }).log (towerOf core) { kind := 8, loc := core % 32 + group * 2 ^ 8 })

/-- `ELEVATOR_GROUP_ERROR` (R367): the core and the elevator group; the gang, the transfer and its word or operation; the beat of 64
elements, and what is received. -/
def execElevatorGroupError (core group gi : Nat) (l : Lift) (op beat : Nat) (vs : List Byte) (s : State) : Out :=
  happens s (tryElevatorGroupError core group gi l op beat vs s)

/-! ### Upsets (R110, R126) -/

/-- `SOFT_ERROR`, if the place exists (R110, R126): a corrected error is never seen. -/
def trySoftError (u : Upset) (s : State) : Option State :=
  match u with
  | .corrected _ => some s
  | .uncorrectable g =>
    if s.packageBytes < 32 * g + 32 then none
    else some (if s.failing.contains g then s else { s with failing := s.failing ++ [g] })
  | .scratchGroup c g => (s.block? c).bind (fun b =>
      if 1024 * b.cfg.dsp < 8 * g + 8 then none
      else some (if b.dsFail.contains g then s else s.setBlock c { b with dsFail := b.dsFail ++ [g] }))
  | .residue c ch e v => (s.block? c).bind (fun b =>
      if 256 * b.cfg.rsp ≤ e ∨ 8 ≤ ch then none
      else some (s.setBlock c { b with rs := cellSet b.rs (2048 * (e / 256) + 256 * ch + e % 256) v }))
  | .slot c gi sl ch i j v => (s.gang? c gi).bind (fun g =>
      if g.slots.length ≤ sl ∨ 8 ≤ ch ∨ 32 ≤ i ∨ 32 ≤ j then none
      else
        let x := g.slot sl
        some (s.setGang c gi (g.setSlot sl { x with res := cellSet x.res (1024 * ch + 32 * i + j) v })))

/-- `SOFT_ERROR` (R110, R126). -/
def execSoftError (u : Upset) (s : State) : Out := happens s (trySoftError u s)

end Sys2Proof.Machine
end

