-- ==== Sys2Proof/Machine/Dispatch.lean ====
section
/-! DEFINITION. The dispatch of exec: one arm per constructor of Instr, each one call of that instruction's meaning. -/
namespace Sys2Proof.Machine

def exec (i : Instr) (s : State) : Host.Outcome State Fault Refusal :=
  match i with
  | .br m inv rejoin disp => Sys2Proof.Machine.execBr m inv rejoin disp s
  | .jmp rejoin disp => Sys2Proof.Machine.execJmp rejoin disp s
  | .call rejoin disp => Sys2Proof.Machine.execCall rejoin disp s
  | .jr a => Sys2Proof.Machine.execJr a s
  | .calr a => Sys2Proof.Machine.execCalr a s
  | .ret => Sys2Proof.Machine.execRet s
  | .exit => Sys2Proof.Machine.execExit s
  | .nop => Sys2Proof.Machine.execNop s
  | .yield => Sys2Proof.Machine.execYield s
  | .trap imm => Sys2Proof.Machine.execTrap imm s
  | .brk imm => Sys2Proof.Machine.execBrk imm s
  | .loopt c disp => Sys2Proof.Machine.execLoopt c disp s
  | .looptB c disp => Sys2Proof.Machine.execLooptB c disp s
  | .split n => Sys2Proof.Machine.execSplit n s
  | .join n => Sys2Proof.Machine.execJoin n s
  | .waitj n => Sys2Proof.Machine.execWaitj n s
  | .jget d n => Sys2Proof.Machine.execJget d n s
  | .jset n a => Sys2Proof.Machine.execJset n a s
  | .add w d a b => Sys2Proof.Machine.execAdd w d a b s
  | .sub w d a b => Sys2Proof.Machine.execSub w d a b s
  | .addsI w d a b => Sys2Proof.Machine.execAddsI w d a b s
  | .addsN w d a b => Sys2Proof.Machine.execAddsN w d a b s
  | .subsI w d a b => Sys2Proof.Machine.execSubsI w d a b s
  | .subsN w d a b => Sys2Proof.Machine.execSubsN w d a b s
  | .absdI w d a b => Sys2Proof.Machine.execAbsdI w d a b s
  | .absdN w d a b => Sys2Proof.Machine.execAbsdN w d a b s
  | .mul w d a b => Sys2Proof.Machine.execMul w d a b s
  | .mulhI w d a b => Sys2Proof.Machine.execMulhI w d a b s
  | .mulhN w d a b => Sys2Proof.Machine.execMulhN w d a b s
  | .mulsI w d a b => Sys2Proof.Machine.execMulsI w d a b s
  | .mad w d a b => Sys2Proof.Machine.execMad w d a b s
  | .mulsN w d a b => Sys2Proof.Machine.execMulsN w d a b s
  | .minI w d a b => Sys2Proof.Machine.execMinI w d a b s
  | .minN w d a b => Sys2Proof.Machine.execMinN w d a b s
  | .maxI w d a b => Sys2Proof.Machine.execMaxI w d a b s
  | .maxN w d a b => Sys2Proof.Machine.execMaxN w d a b s
  | .absI w d a => Sys2Proof.Machine.execAbsI w d a s
  | .abss w d a => Sys2Proof.Machine.execAbss w d a s
  | .neg w d a => Sys2Proof.Machine.execNeg w d a s
  | .negs w d a => Sys2Proof.Machine.execNegs w d a s
  | .divI w d a b => Sys2Proof.Machine.execDivI w d a b s
  | .divN w d a b => Sys2Proof.Machine.execDivN w d a b s
  | .remI w d a b => Sys2Proof.Machine.execRemI w d a b s
  | .remN w d a b => Sys2Proof.Machine.execRemN w d a b s
  | .and w d a b => Sys2Proof.Machine.execAnd w d a b s
  | .or w d a b => Sys2Proof.Machine.execOr w d a b s
  | .xor w d a b => Sys2Proof.Machine.execXor w d a b s
  | .andn w d a b => Sys2Proof.Machine.execAndn w d a b s
  | .orn w d a b => Sys2Proof.Machine.execOrn w d a b s
  | .xnor w d a b => Sys2Proof.Machine.execXnor w d a b s
  | .not w d a => Sys2Proof.Machine.execNot w d a s
  | .bsel w d a b => Sys2Proof.Machine.execBsel w d a b s
  | .shl w d a b => Sys2Proof.Machine.execShl w d a b s
  | .shrN w d a b => Sys2Proof.Machine.execShrN w d a b s
  | .shrI w d a b => Sys2Proof.Machine.execShrI w d a b s
  | .rol w d a b => Sys2Proof.Machine.execRol w d a b s
  | .ror w d a b => Sys2Proof.Machine.execRor w d a b s
  | .shli w d a imm => Sys2Proof.Machine.execShli w d a imm s
  | .shriN w d a imm => Sys2Proof.Machine.execShriN w d a imm s
  | .shriI w d a imm => Sys2Proof.Machine.execShriI w d a imm s
  | .rori w d a imm => Sys2Proof.Machine.execRori w d a imm s
  | .popc w d a => Sys2Proof.Machine.execPopc w d a s
  | .clz w d a => Sys2Proof.Machine.execClz w d a s
  | .ctz w d a => Sys2Proof.Machine.execCtz w d a s
  | .brev w d a => Sys2Proof.Machine.execBrev w d a s
  | .bfxN w d a b => Sys2Proof.Machine.execBfxN w d a b s
  | .bfxI w d a b => Sys2Proof.Machine.execBfxI w d a b s
  | .bfi w d a b => Sys2Proof.Machine.execBfi w d a b s
  | .ceq w d a b => Sys2Proof.Machine.execCeq w d a b s
  | .cne w d a b => Sys2Proof.Machine.execCne w d a b s
  | .cltI w d a b => Sys2Proof.Machine.execCltI w d a b s
  | .cgeI w d a b => Sys2Proof.Machine.execCgeI w d a b s
  | .cltN w d a b => Sys2Proof.Machine.execCltN w d a b s
  | .cgeN w d a b => Sys2Proof.Machine.execCgeN w d a b s
  | .ctst w d a b => Sys2Proof.Machine.execCtst w d a b s
  | .sel w m d a b => Sys2Proof.Machine.execSel w m d a b s
  | .addi w d a imm => Sys2Proof.Machine.execAddi w d a imm s
  | .andi w d a imm => Sys2Proof.Machine.execAndi w d a imm s
  | .ori w d a imm => Sys2Proof.Machine.execOri w d a imm s
  | .movi w d imm => Sys2Proof.Machine.execMovi w d imm s
  | .lea x d a b => Sys2Proof.Machine.execLea x d a b s
  | .leai x d a imm => Sys2Proof.Machine.execLeai x d a imm s
  | .mov d a => Sys2Proof.Machine.execMov d a s
  | .addF t d a b => Sys2Proof.Machine.execAddF t d a b s
  | .subF t d a b => Sys2Proof.Machine.execSubF t d a b s
  | .mulF t d a b => Sys2Proof.Machine.execMulF t d a b s
  | .minF t d a b => Sys2Proof.Machine.execMinF t d a b s
  | .maxF t d a b => Sys2Proof.Machine.execMaxF t d a b s
  | .fmaF t d a b => Sys2Proof.Machine.execFmaF t d a b s
  | .fmsF t d a b => Sys2Proof.Machine.execFmsF t d a b s
  | .fnmaF t d a b => Sys2Proof.Machine.execFnmaF t d a b s
  | .absF t d a => Sys2Proof.Machine.execAbsF t d a s
  | .negF t d a => Sys2Proof.Machine.execNegF t d a s
  | .csgn t d a b => Sys2Proof.Machine.execCsgn t d a b s
  | .rint t d a => Sys2Proof.Machine.execRint t d a s
  | .ceqF t d a b => Sys2Proof.Machine.execCeqF t d a b s
  | .cneF t d a b => Sys2Proof.Machine.execCneF t d a b s
  | .cltF t d a b => Sys2Proof.Machine.execCltF t d a b s
  | .cleF t d a b => Sys2Proof.Machine.execCleF t d a b s
  | .cun t d a b => Sys2Proof.Machine.execCun t d a b s
  | .rcp d a => Sys2Proof.Machine.execRcp d a s
  | .rsq d a => Sys2Proof.Machine.execRsq d a s
  | .sqrt d a => Sys2Proof.Machine.execSqrt d a s
  | .exp2 d a => Sys2Proof.Machine.execExp2 d a s
  | .log2 d a => Sys2Proof.Machine.execLog2 d a s
  | .sin2pi d a => Sys2Proof.Machine.execSin2pi d a s
  | .cos2pi d a => Sys2Proof.Machine.execCos2pi d a s
  | .tanh d a => Sys2Proof.Machine.execTanh d a s
  | .sigm d a => Sys2Proof.Machine.execSigm d a s
  | .cvt p d a t f => Sys2Proof.Machine.execCvt p d a t f s
  | .cvto p d a t f => Sys2Proof.Machine.execCvto p d a t f s
  | .cvtt p d a t f => Sys2Proof.Machine.execCvtt p d a t f s
  | .qbx8 d a => Sys2Proof.Machine.execQbx8 d a s
  | .qbx8H d a => Sys2Proof.Machine.execQbx8H d a s
  | .qbx16 d a => Sys2Proof.Machine.execQbx16 d a s
  | .qbx16H d a => Sys2Proof.Machine.execQbx16H d a s
  | .dqbx8 d a => Sys2Proof.Machine.execDqbx8 d a s
  | .dqbx16 d a => Sys2Proof.Machine.execDqbx16 d a s
  | .amxr d => Sys2Proof.Machine.execAmxr d s
  | .amxrc d => Sys2Proof.Machine.execAmxrc d s
  | .amxc => Sys2Proof.Machine.execAmxc s
  | .amxw a => Sys2Proof.Machine.execAmxw a s
  | .shfl w d a b => Sys2Proof.Machine.execShfl w d a b s
  | .shfx w d a imm => Sys2Proof.Machine.execShfx w d a imm s
  | .shup w d a imm => Sys2Proof.Machine.execShup w d a imm s
  | .shdn w d a imm => Sys2Proof.Machine.execShdn w d a imm s
  | .ballot d a => Sys2Proof.Machine.execBallot d a s
  | .vany d a => Sys2Proof.Machine.execVany d a s
  | .vall d a => Sys2Proof.Machine.execVall d a s
  | .veq d a => Sys2Proof.Machine.execVeq d a s
  | .nact d => Sys2Proof.Machine.execNact d s
  | .lfirst d => Sys2Proof.Machine.execLfirst d s
  | .gaddF32 d a => Sys2Proof.Machine.execGaddF32 d a s
  | .gmaxF32 d a => Sys2Proof.Machine.execGmaxF32 d a s
  | .gminF32 d a => Sys2Proof.Machine.execGminF32 d a s
  | .gamaxF32 d a => Sys2Proof.Machine.execGamaxF32 d a s
  | .gaddI32 d a => Sys2Proof.Machine.execGaddI32 d a s
  | .gaddI64 d a => Sys2Proof.Machine.execGaddI64 d a s
  | .mand d a b => Sys2Proof.Machine.execMand d a b s
  | .mor d a b => Sys2Proof.Machine.execMor d a b s
  | .mxor d a b => Sys2Proof.Machine.execMxor d a b s
  | .mandn d a b => Sys2Proof.Machine.execMandn d a b s
  | .mnot d a => Sys2Proof.Machine.execMnot d a s
  | .mmov d a => Sys2Proof.Machine.execMmov d a s
  | .mone d => Sys2Proof.Machine.execMone d s
  | .mzero d => Sys2Proof.Machine.execMzero d s
  | .mget d a => Sys2Proof.Machine.execMget d a s
  | .mlet d a => Sys2Proof.Machine.execMlet d a s
  | .qry d x => Sys2Proof.Machine.execQry d x s
  | .qryX d a => Sys2Proof.Machine.execQryX d a s
  | .winb imm => Sys2Proof.Machine.execWinb imm s
  | .winbRel imm => Sys2Proof.Machine.execWinbRel imm s
  | .xset n a imm => Sys2Proof.Machine.execXset n a imm s
  | .xget d n => Sys2Proof.Machine.execXget d n s
  | .ldN w d a imm => Sys2Proof.Machine.execLdN w d a imm s
  | .ldI w d a imm => Sys2Proof.Machine.execLdI w d a imm s
  | .st w d a imm => Sys2Proof.Machine.execSt w d a imm s
  | .ldsN w d a imm => Sys2Proof.Machine.execLdsN w d a imm s
  | .ldsI w d a imm => Sys2Proof.Machine.execLdsI w d a imm s
  | .sts w d a imm => Sys2Proof.Machine.execSts w d a imm s
  | .lda w sc d a => Sys2Proof.Machine.execLda w sc d a s
  | .stl w sc a b => Sys2Proof.Machine.execStl w sc a b s
  | .ldk d imm => Sys2Proof.Machine.execLdk d imm s
  | .ldkX d a => Sys2Proof.Machine.execLdkX d a s
  | .ldgAddF32 d a => Sys2Proof.Machine.execLdgAddF32 d a s
  | .ldgAddI32 d a => Sys2Proof.Machine.execLdgAddI32 d a s
  | .ldgAddI64 d a => Sys2Proof.Machine.execLdgAddI64 d a s
  | .ldgMaxF32 d a => Sys2Proof.Machine.execLdgMaxF32 d a s
  | .ldgMinF32 d a => Sys2Proof.Machine.execLdgMinF32 d a s
  | .ldgAmaxF32 d a => Sys2Proof.Machine.execLdgAmaxF32 d a s
  | .rpld d a n => Sys2Proof.Machine.execRpld d a n s
  | .rpst d a n => Sys2Proof.Machine.execRpst d a n s
  | .rpstAdd d a n => Sys2Proof.Machine.execRpstAdd d a n s
  | .aadd wide sem d a b => Sys2Proof.Machine.execAadd wide sem d a b s
  | .aand wide sem d a b => Sys2Proof.Machine.execAand wide sem d a b s
  | .aor wide sem d a b => Sys2Proof.Machine.execAor wide sem d a b s
  | .axor wide sem d a b => Sys2Proof.Machine.execAxor wide sem d a b s
  | .axch wide sem d a b => Sys2Proof.Machine.execAxch wide sem d a b s
  | .acas wide sem d a b => Sys2Proof.Machine.execAcas wide sem d a b s
  | .aminI wide sem d a b => Sys2Proof.Machine.execAminI wide sem d a b s
  | .amaxI wide sem d a b => Sys2Proof.Machine.execAmaxI wide sem d a b s
  | .aminN wide sem d a b => Sys2Proof.Machine.execAminN wide sem d a b s
  | .amaxN wide sem d a b => Sys2Proof.Machine.execAmaxN wide sem d a b s
  | .aincw wide sem d a b => Sys2Proof.Machine.execAincw wide sem d a b s
  | .adecw wide sem d a b => Sys2Proof.Machine.execAdecw wide sem d a b s
  | .aaddb wide sem d a b => Sys2Proof.Machine.execAaddb wide sem d a b s
  | .fadda sem d a b => Sys2Proof.Machine.execFadda sem d a b s
  | .amaxm sem d a b => Sys2Proof.Machine.execAmaxm sem d a b s
  | .amaxrs sem d a => Sys2Proof.Machine.execAmaxrs sem d a s
  | .fence sc sem => Sys2Proof.Machine.execFence sc sem s
  | .barB => Sys2Proof.Machine.execBarB s
  | .barE => Sys2Proof.Machine.execBarE s
  | .nbar a => Sys2Proof.Machine.execNbar a s
  | .nbnew d a => Sys2Proof.Machine.execNbnew d a s
  | .nbfree a => Sys2Proof.Machine.execNbfree a s
  | .monw wide c d a b => Sys2Proof.Machine.execMonw wide c d a b s
  | .secin => Sys2Proof.Machine.execSecin s
  | .secout => Sys2Proof.Machine.execSecout s
  | .clreq d => Sys2Proof.Machine.execClreq d s
  | .clwait a => Sys2Proof.Machine.execClwait a s
  | .escrow a b => Sys2Proof.Machine.execEscrow a b s
  | .escpop d => Sys2Proof.Machine.execEscpop d s
  | .dflush => Sys2Proof.Machine.execDflush s
  | .tcommit a => Sys2Proof.Machine.execTcommit a s
  | .mxm n d a b => Sys2Proof.Machine.execMxm n d a b s
  | .mxclr n => Sys2Proof.Machine.execMxclr n s
  | .mxdrn n d p o ren rm => Sys2Proof.Machine.execMxdrn n d p o ren rm s
  | .mxdrs n d a b => Sys2Proof.Machine.execMxdrs n d a b s
  | .mxgsum n => Sys2Proof.Machine.execMxgsum n s
  | .enc t cls d a b => Sys2Proof.Machine.execEnc t cls d a b s
  | .mxfence => Sys2Proof.Machine.execMxfence s
  | .mxwait => Sys2Proof.Machine.execMxwait s
  | .mxrel => Sys2Proof.Machine.execMxrel s
  | .asyr d c => Sys2Proof.Machine.execAsyr d c s
  | .cpy q d rel => Sys2Proof.Machine.execCpy q d rel s
  | .cpycv q d rel => Sys2Proof.Machine.execCpycv q d rel s
  | .cpyrd q d rel => Sys2Proof.Machine.execCpyrd q d rel s
  | .coll q d rel => Sys2Proof.Machine.execColl q d rel s
  | .qbind d a n => Sys2Proof.Machine.execQbind d a n s
  | .qpop d n => Sys2Proof.Machine.execQpop d n s
  | .qpush a n => Sys2Proof.Machine.execQpush a n s
  | .qlen d n => Sys2Proof.Machine.execQlen d n s
  | .cqstat d q => Sys2Proof.Machine.execCqstat d q s
  | .cqclr q => Sys2Proof.Machine.execCqclr q s
  | .tossmax t d a => Sys2Proof.Machine.execTossmax t d a s
  | .tosscand t d a => Sys2Proof.Machine.execTosscand t d a s
  | .tossmerge d a => Sys2Proof.Machine.execTossmerge d a s
  | .tossdraw d a => Sys2Proof.Machine.execTossdraw d a s
  | .tossgenHi d a => Sys2Proof.Machine.execTossgenHi d a s
  | .tossgenLo d a => Sys2Proof.Machine.execTossgenLo d a s
  | .csrr d n => Sys2Proof.Machine.execCsrr d n s
  | .csrw a n => Sys2Proof.Machine.execCsrw a n s
  | .tret => Sys2Proof.Machine.execTret s
  | .tretNext => Sys2Proof.Machine.execTretNext s
  | .tretTo a => Sys2Proof.Machine.execTretTo a s
  | .launchSubmission part prio asid smode => Sys2Proof.Machine.execLaunchSubmission part prio asid smode s
  | .launchDequeue lid => Sys2Proof.Machine.execLaunchDequeue lid s
  | .ensembleStart core => Sys2Proof.Machine.execEnsembleStart core s
  | .blockExit core => Sys2Proof.Machine.execBlockExit core s
  | .memoryOperationComplete core gang op => Sys2Proof.Machine.execMemoryOperationComplete core gang op s
  | .specialFunctionComplete core gang op => Sys2Proof.Machine.execSpecialFunctionComplete core gang op s
  | .mxmAccumulate core gang slot => Sys2Proof.Machine.execMxmAccumulate core gang slot s
  | .encWriteComplete core gang op => Sys2Proof.Machine.execEncWriteComplete core gang op s
  | .drainDecision core gang op => Sys2Proof.Machine.execDrainDecision core gang op s
  | .drainWriteComplete core gang op => Sys2Proof.Machine.execDrainWriteComplete core gang op s
  | .mxgsumSum core gang slot => Sys2Proof.Machine.execMxgsumSum core gang slot s
  | .leaseGrant core => Sys2Proof.Machine.execLeaseGrant core s
  | .leasePass core => Sys2Proof.Machine.execLeasePass core s
  | .tossWordComplete tower => Sys2Proof.Machine.execTossWordComplete tower s
  | .monwSatisfied core gang lane => Sys2Proof.Machine.execMonwSatisfied core gang lane s
  | .queueWaitRelease core gang lane => Sys2Proof.Machine.execQueueWaitRelease core gang lane s
  | .tellerFlushApply core => Sys2Proof.Machine.execTellerFlushApply core s
  | .remoteUpdateApply src dst clock => Sys2Proof.Machine.execRemoteUpdateApply src dst clock s
  | .quantumExpiry core => Sys2Proof.Machine.execQuantumExpiry core s
  | .yieldSuppressionEnd core gang => Sys2Proof.Machine.execYieldSuppressionEnd core gang s
  | .bindStart core b => Sys2Proof.Machine.execBindStart core b s
  | .bindResume core b => Sys2Proof.Machine.execBindResume core b s
  | .bindSave core => Sys2Proof.Machine.execBindSave core s
  | .contextSaveComplete core => Sys2Proof.Machine.execContextSaveComplete core s
  | .bindKill core => Sys2Proof.Machine.execBindKill core s
  | .bindIdle core => Sys2Proof.Machine.execBindIdle core s
  | .commandStart cmd => Sys2Proof.Machine.execCommandStart cmd s
  | .commandComplete cmd => Sys2Proof.Machine.execCommandComplete cmd s
  | .collSend cmd => Sys2Proof.Machine.execCollSend cmd s
  | .collRecv cmd => Sys2Proof.Machine.execCollRecv cmd s
  | .collRr cmd => Sys2Proof.Machine.execCollRr cmd s
  | .collRrs cmd => Sys2Proof.Machine.execCollRrs cmd s
  | .collCopy cmd => Sys2Proof.Machine.execCollCopy cmd s
  | .collWait cmd => Sys2Proof.Machine.execCollWait cmd s
  | .collLoop cmd => Sys2Proof.Machine.execCollLoop cmd s
  | .collNext cmd => Sys2Proof.Machine.execCollNext cmd s
  | .collEnd cmd => Sys2Proof.Machine.execCollEnd cmd s
  | .intakeMessageStart tower stream => Sys2Proof.Machine.execIntakeMessageStart tower stream s
  | .chunkDecodeComplete tower stream => Sys2Proof.Machine.execChunkDecodeComplete tower stream s
  | .intakeMessageEnd tower stream => Sys2Proof.Machine.execIntakeMessageEnd tower stream s
  | .messageQuarantine tower stream => Sys2Proof.Machine.execMessageQuarantine tower stream s
  | .fbdoneRetry tower entry => Sys2Proof.Machine.execFbdoneRetry tower entry s
  | .fbdoneFail tower entry => Sys2Proof.Machine.execFbdoneFail tower entry s
  | .replay tower => Sys2Proof.Machine.execReplay tower s
  | .tlbinvAll => Sys2Proof.Machine.execTlbinvAll s
  | .tlbinvAsid asid => Sys2Proof.Machine.execTlbinvAsid asid s
  | .tlbinvPage asid page => Sys2Proof.Machine.execTlbinvPage asid page s
  | .invalidationComplete => Sys2Proof.Machine.execInvalidationComplete s
  | .h2dtailWrite v => Sys2Proof.Machine.execH2dtailWrite v s
  | .submitLaunch => Sys2Proof.Machine.execSubmitLaunch s
  | .abortLaunch => Sys2Proof.Machine.execAbortLaunch s
  | .retirementRequest => Sys2Proof.Machine.execRetirementRequest s
  | .elevatorRemapRequest => Sys2Proof.Machine.execElevatorRemapRequest s
  | .assayRead => Sys2Proof.Machine.execAssayRead s
  | .partitionConfig escBase queueBases => Sys2Proof.Machine.execPartitionConfig escBase queueBases s
  | .attestationRequest => Sys2Proof.Machine.execAttestationRequest s
  | .firmwareUpdate => Sys2Proof.Machine.execFirmwareUpdate s
  | .newBringup => Sys2Proof.Machine.execNewBringup s
  | .d2hbaseWrite v => Sys2Proof.Machine.execD2hbaseWrite v s
  | .moduleReset => Sys2Proof.Machine.execModuleReset s
  | .bringupStageComplete tower passed detail => Sys2Proof.Machine.execBringupStageComplete tower passed detail s
  | .serviceClockRise => Sys2Proof.Machine.execServiceClockRise s
  | .hostApertureRead off n => Sys2Proof.Machine.execHostApertureRead off n s
  | .hostApertureWrite off bytes => Sys2Proof.Machine.execHostApertureWrite off bytes s
  | .hostAtomicopReject => Sys2Proof.Machine.execHostAtomicopReject s
  | .peerRequest r => Sys2Proof.Machine.execPeerRequest r s
  | .peerTransactionTimeout t => Sys2Proof.Machine.execPeerTransactionTimeout t s
  | .peerErrorResponse t => Sys2Proof.Machine.execPeerErrorResponse t s
  | .flitCrcRetry tower => Sys2Proof.Machine.execFlitCrcRetry tower s
  | .laneRepair tower peer => Sys2Proof.Machine.execLaneRepair tower peer s
  | .linkDown tower peer => Sys2Proof.Machine.execLinkDown tower peer s
  | .asycntClear tower channel => Sys2Proof.Machine.execAsycntClear tower channel s
  | .containRetireRequest tower v => Sys2Proof.Machine.execContainRetireRequest tower v s
  | .channelRetirement tower => Sys2Proof.Machine.execChannelRetirement tower s
  | .elvmapWrite core v => Sys2Proof.Machine.execElvmapWrite core v s
  | .elevatorGroupError core group gang lift op beat received => Sys2Proof.Machine.execElevatorGroupError core group gang lift op beat received s
  | .dutyTick power tj => Sys2Proof.Machine.execDutyTick power tj s
  | .thrcntClear => Sys2Proof.Machine.execThrcntClear s
  | .thermalTrip tower => Sys2Proof.Machine.execThermalTrip tower s
  | .registerWrite r v => Sys2Proof.Machine.execRegisterWrite r v s
  | .unassignedEncodingIssue w => Sys2Proof.Machine.execUnassignedEncodingIssue w s
  | .softError u => Sys2Proof.Machine.execSoftError u s
  | .d2hackWrite v => Sys2Proof.Machine.execD2hackWrite v s
  | .intakePieceTokenised tower stream => Sys2Proof.Machine.execIntakePieceTokenised tower stream s
  | .managementCoreStore addr bytes => Sys2Proof.Machine.execManagementCoreStore addr bytes s

end Sys2Proof.Machine
end

