-- ==== Sys2Proof/Machine/Issue.lean ====
section
/-! DEFINITION. Issue: the arbiter of a sub-core (R336), one issue opportunity of at most two words (R32, R33), a core's
cycle (R335), and one step by turns (log entry 4). -/
namespace Sys2Proof.Machine

/-- The gang is suppressed after a yield: 8 cycles (R336). -/
def Gang.suppressed (g : Gang) (cycle : Nat) : Bool :=
  match g.yielded with
  | none => false
  | some t => decide (cycle ≤ t + 8)

/-- The gangs of a sub-core with an eligible lane, and their paths (R13, R32). -/
def readyGangs (s : State) (c : Nat) (b : Block) (sub : Nat) : List (Nat × List Path) :=
  ((List.range b.gangs.length).filter (fun i => i % 4 == sub)).filterMap (fun i =>
    match b.gangs[i]? with
    | none => none
    | some g =>
      match pathsOf s c i b g with
      | [] => none
      | ps => some (i, ps))

/-- ready(g) recorded for the gangs that have an eligible lane (R336). -/
def Block.noteReady (b : Block) (gs : List (Nat × List Path)) (cycle : Nat) : Block :=
  { b with gangs := b.gangs.mapIdx (fun i g =>
      if gs.any (fun x => x.1 == i) then { g with ready := some (g.ready.getD cycle) } else g) }

/-- The grant of R336: the smallest ready, then the lowest number, a suppressed gang only if no other is ready. -/
def arbiter (b : Block) (cycle : Nat) (gs : List (Nat × List Path)) : Option (Nat × List Path) :=
  let key := fun (x : Nat × List Path) => ((b.gangs[x.1]?).bind (·.ready)).getD cycle
  match minBy? key (gs.filter (fun x => match b.gangs[x.1]? with | some g => !g.suppressed cycle | none => false)) with
  | some x => some x
  | none => minBy? key gs

/-- One word issues at a path, with its header and prefix if it has them. -/
def runPath (s : State) (c gi : Nat) (p : Path) : Out :=
  match fetchPath s c gi p with
  | .stop s1 => .next (s1.settleReqs c gi)
  | .exec i s1 =>
    match exec i s1 with
    | .next s2 => .next (s2.settleReqs c gi)
    | .fault f => .fault f
    | .refused r => .refused r

/-- The gang took a trap between two states (R33): it is gone, or has entered its handler. -/
def trappedIn (s0 s1 : State) (c gi : Nat) : Bool :=
  match s0.gang? c gi, s1.gang? c gi with
  | some g0, some g1 => !g0.inHandler && g1.inHandler
  | _, none => true
  | none, some _ => false

/-- The second path of the opportunity, as a cleared path of its gang (R32). -/
def State.clearSkips (s : State) (c gi : Nat) (lanes : LaneBits) : State :=
  s.modGang c gi (fun g => g.modLanes lanes (fun _ l => { l with skip := 0 }))

/-- The first word of an issue opportunity: if it traps, the second has no effect (R33). -/
def runFirst (s : State) (c gi : Nat) (p : Path) : Out :=
  match runPath s c gi p with
  | .next s1 => .next (match s.second with
    | some (_, _, q) => if trappedIn s s1 c gi then { s1.clearSkips c gi q.lanes with second := none } else s1
    | none => s1)
  | .fault f => .fault f
  | .refused r => .refused r

/-! ### Duty (R378) -/

/-- A core may grant in this cycle: it has granted already, or the duty leaves it one of these 16 cycles (R378). -/
def State.mayGrant (s : State) (c : Nat) : Bool :=
  let k := s.core c
  k.granted != 0 || decide (k.opened < (s.tower (towerOf c)).duty)

/-- A core may let this cycle pass without a grant though a gang is ready (R378). -/
def State.mayGate (s : State) (c : Nat) : Bool :=
  let k := s.core c
  k.granted == 0 && decide (k.gated + (s.tower (towerOf c)).duty < 16)

/-- A core runs words: its block is running and its clock is not stopped (R336, R379). -/
def State.issues (s : State) (c : Nat) : Bool := (s.core c).bind == .running && !(s.tower (towerOf c)).clockStopped

/-- A sub-core's grant in this cycle (R336), if it has one to give: the arbiter's gang issues at its first path; the second, if any, is
next. The second path's skip counts are cleared when its word issues (log entry 4). -/
def tryIssue (s : State) (c sub : Nat) : Option Out :=
  let k := s.core c
  k.block.bind (fun b0 =>
    if !s.issues c || decide (4 ≤ sub) || k.granted.getLsbD sub || !s.mayGrant c then none
    else
      let gs := readyGangs s c b0 sub
      let b := b0.noteReady gs k.cycles
      (arbiter b k.cycles gs).bind (fun x => (b.gangs[x.1]?).bind (fun g =>
        let chosen := choosePaths g x.2
        let first := chosen.take 1
        let b1 := b.setGang x.1 { g.skips (x.2.filter (fun p => !(chosen.drop 1).contains p)) first with ready := none }
        let k1 : Core := { k with
          block := some b1
          lifting := false
          granted := k.granted ||| BitVec.ofNat 4 (2 ^ sub)
          opened := if k.granted = 0 then k.opened + 1 else k.opened }
        first.head?.map (fun p =>
          runFirst { s.setCore c k1 with second := (chosen.drop 1).head?.map (fun q => (c, x.1, q)) } c x.1 p))))

/-- A sub-core's grant; with none to give, nothing happens. -/
def issueTurn (s : State) (c sub : Nat) : Out := (tryIssue s c sub).getD (.next s)

/-- The lanes of a chosen path that stand there still. -/
def Path.still (p : Path) (g : Gang) : LaneBits :=
  laneSet (fun l => p.lanes.getLsbD l && g.free (g.lane l) && (g.lane l).pc == p.pc && ((g.lane l).cpos == 0) == p.header)

/-- The second word of an issue opportunity, for the lanes chosen (R33); if the unit that it needs has become full, it cannot issue in this
cycle (R32). A header counts after what the first word did to the flags, as R33 orders flags and R39 forbids a count past 63: one whose
wait mask names a flag that the first header has just made busy waits as well (R60; log entry 80). -/
def secondTurn (s : State) (c gi : Nat) (p : Path) : Out :=
  let s := { s with second := none }
  match s.block? c with
  | none => .next s
  | some b =>
    match b.gangs[gi]? with
    | none => .next s
    | some g =>
      let p := { p with lanes := p.still g }
      if p.lanes = 0 ∨ (p.header && !headerOpen s c b g p.pc) ∨ (peekWord s c b p).any (fun w => wordFull s c gi b g p w) then .next s
      else runPath (s.clearSkips c gi p.lanes) c gi p

/-- Every sub-core that has a gang with an eligible lane has granted in this cycle (R336). -/
def allGranted (s : State) (c : Nat) : Bool :=
  match (s.core c).block with
  | none => true
  | some b => !s.issues c || (List.range 4).all (fun sub => (s.core c).granted.getLsbD sub || (readyGangs s c b sub).isEmpty)

/-- A core's arithmetic cycle ends (R335, R336): each sub-core that can has granted, or the duty holds the cycle back (R378). -/
def tryCycle (s : State) (c : Nat) : Option State :=
  let k := s.core c
  let all := allGranted s c
  if decide (s.cores.length ≤ c) || !(all || s.mayGate c) || (s.tower (towerOf c)).clockStopped then none
  else
    let wrap := (k.cycles + 1) % 16 = 0
    let k1 : Core := { k with
      cycles := k.cycles + 1, granted := 0, lifting := false
      opened := if wrap then 0 else k.opened
      gated := if wrap then 0 else if all then k.gated else k.gated + 1 }
    some (match k.block with
    | none => s.setCore c k1
    | some b => s.setCore c { k1 with block := some (b.noteReady ((List.range 4).flatMap (readyGangs s c b)) k1.cycles) })

/-- A core's cycle ends; if it cannot, nothing happens. -/
def cycleTurn (s : State) (c : Nat) : Out := happens s (tryCycle s c)

/-! ### Turns of the memory system (R111, R113, R115, R119, R141, R346) -/

/-- An update carries a write of a core's lanes. -/
def Update.ofCore (u : Update) (c : Nat) : Bool := u.writer.any (fun w => w.1 == c)

/-- The L1 of a core takes in the line of an address of package memory, as its tower sees it, with the writes of the core's own lanes (R111,
R113, R132 item 1). -/
def State.l1Fill (s : State) (c a : Nat) : State :=
  let line := a / l1Line * l1Line
  if s.packageBytes < line + l1Line ∨ s.granulesFail line l1Line ∨ s.cores.length ≤ c then s
  else
    let s0 := if (s.tower (towerOf c)).inbox.isEmpty then s
      else s.modTower (towerOf c) (·.catchThese (fun u => u.line == line / l2Line * l2Line && u.ofCore c))
    let (s1, bs) := s0.towerRun (towerOf c) none (.pkg line) l1Line
    let k := s1.core c
    s1.setCore c { k with l1 := (line, bs) :: k.l1.filter (fun x => x.1 != line) }

/-- The L1 of a core drops a line (R115). -/
def State.l1Drop (s : State) (c a : Nat) : State := s.dropL1 c (fun x => x == a / l1Line * l1Line)

/-- The L2 of a tower takes in a copy of a line homed elsewhere, as its home has it (R113, R119): the updates of that line that are on their
way count as applied (R141); with a line of peer or host memory it meets what releases have published there (R144). -/
def State.copyFill (s : State) (t : Nat) (loc : Loc) : State :=
  let line := loc.line
  let s1 := match line with
    | .pkg a => s.modTower t (·.catchThese (fun u => u.line == a))
    | _ => s.modTower t (fun x => { x with rumourFar := joinClock x.rumourFar s.farPub })
  let bad := match line with
    | .pkg a => homeOf a == t || decide (s.packageBytes < a + l2Line) || s.granulesFail a l2Line
    | _ => false
  if bad || decide (s.towers.length ≤ t) then s
  else s1.modTower t (fun x => { x with copies := (line, s.readLoc line l2Line) :: x.copies.filter (fun y => y.1 != line) })

/-- The L2 of a tower drops a copy (R115). -/
def State.copyDrop (s : State) (t : Nat) (loc : Loc) : State :=
  s.modTower t (fun x => { x with copies := x.copies.filter (fun y => y.1 != loc.line) })

/-- The TLB of a core, or of a tower, changed. -/
def State.modTlb (s : State) (t : Nat) (core : Option Nat) (f : List TlbEntry → List TlbEntry) : State :=
  match core with
  | some c => s.setCore c { s.core c with tlb := f (s.core c).tlb }
  | none => s.modTower t (fun x => { x with tlb := f x.tlb })

/-- The entries that the TLB of a core, or of a tower, holds at most (R346). -/
def tlbPlaces (core : Option Nat) : Nat := if core.isSome then 64 else 8192

/-- A TLB takes in an entry that a walk reads now (R346); of a full one, the entry taken in first leaves. -/
def State.tlbFill (s : State) (t : Nat) (core : Option Nat) (asid : BitVec 16) (va lv : Nat) : State :=
  match fillEntry s asid va lv with
  | none => s
  | some e => s.modTlb t core (fun l => (e :: l.filter (fun x => !(x.asid == e.asid && x.level == e.level && x.page == e.page))).take (tlbPlaces core))

/-- The first sub-core that can issue, if any: core and sub-core. -/
def firstIssue (s : State) : List Nat → Option (Nat × Nat)
  | [] => none
  | c :: r =>
    match (s.core c).block with
    | none => firstIssue s r
    | some b =>
      if !s.issues c || !s.mayGrant c then firstIssue s r
      else match (List.range 4).find? (fun sub => !(s.core c).granted.getLsbD sub && !(readyGangs s c b sub).isEmpty) with
        | some sub => some (c, sub)
        | none => firstIssue s r

/-! ### The default policy (log entry 4) -/

/-- The first act of a list that can happen. -/
def firstEnabled (s : State) : List (State → Option State) → Option State
  | [] => none
  | f :: r =>
    match f s with
    | some t => some t
    | none => firstEnabled s r

/-- The acts that end what gang `gi` of core `c` has under way: operations, drains, armed conditions, ports, slots. -/
def gangActs (c gi : Nat) (g : Gang) : List (State → Option State) :=
  g.ops.map (fun o => match o.kind with
    | .memory => tryMemoryOperationComplete c gi o.id
    | .command => tryMemoryOperationComplete c gi o.id
    | k => fun s => completeOp s c gi o.id k)
  ++ (List.range g.slots.length).flatMap (fun n => [tryMxmAccumulate c gi n, tryMxgsumSum c gi n])
  ++ g.held.flatMap (fun h => match h.kind with
    | .drain _ => [tryDrainDecision c gi h.id]
    | .peer _ _ => [tryMemoryOperationComplete c gi h.id]
    | .monw _ _ _ => (laneList h.lanes).map (tryMonwSatisfied c gi)
    | .qpop _ _ => [tryQueueWaitRelease c gi (lowLane h.lanes)]
    | .qpush _ _ => [tryQueueWaitRelease c gi (lowLane h.lanes)]
    | _ => [])

/-- The acts of a core and its block. -/
def coreActs (c : Nat) (k : Core) : List (State → Option State) :=
  match k.block with
  | none => if k.bind == .start then [tryEnsembleStart c] else []
  | some b =>
    (b.gangs.mapIdx (gangActs c)).flatten
      ++ [tryLeaseGrant c, tryLeasePass c, tryTellerFlushApply c, tryBlockExit c, tryContextSaveComplete c]

/-- The acts of a tower's Toss unit and intake engine. -/
def towerActs (t : Nat) (x : Tower) : List (State → Option State) :=
  (if x.toss.isEmpty then [] else [fun s => s.tossComplete t])
  ++ x.streams.flatMap (fun y => [tryIntakePieceTokenised t y.handle, tryIntakeMessageEnd t y.handle,
      tryMessageQuarantine t y.handle, tryChunkDecodeComplete t y.handle, tryIntakeMessageStart t y.handle])

/-- The acts of a copy engine on a command. -/
def commandActs (c : Command) : List (State → Option State) :=
  [tryCommandComplete c.id, tryCommandStart c.id, tryCollSend c.id, tryCollRecv c.id, tryCollRr c.id, tryCollRrs c.id,
    tryCollCopy c.id, tryCollWait c.id, tryCollLoop c.id, tryCollNext c.id, tryCollEnd c.id]

/-- What takes effect at the first instant at which it can: a pending retirement (R366), and the rise of the service tower's clock
(R371). -/
def atOnce (s : State) : Option State :=
  firstEnabled s (tryServiceClockRise :: s.towers.mapIdx (fun t _ => tryChannelRetirement t))

/-- The acts of other agents that are due, in the order in which the default policy takes them (log entry 4). -/
def dueActs (s : State) : List (State → Option State) :=
  (s.towers.mapIdx towerActs).flatten ++ (s.cores.mapIdx coreActs).flatten ++ s.commands.flatMap commandActs
    ++ s.launches.flatMap (fun l => if l.phase == .queued then [tryLaunchDequeue l.id] else [])

/-- A running core with an eligible gang. -/
def busyCore (s : State) : Option Nat :=
  (List.range s.cores.length).find? (fun c =>
    match (s.core c).block with
    | none => false
    | some b => s.issues c && (List.range 4).any (fun sub => !(readyGangs s c b sub).isEmpty))

/-- What happens when no turn is given (log entry 4): issue, else an act that is due, else a cycle, else nothing. -/
def defaultTurn (s : State) : Out :=
  match firstIssue s (List.range s.cores.length) with
  | some (c, sub) => issueTurn s c sub
  | none =>
    match firstEnabled s (dueActs s) with
    | some t => .next t
    | none =>
      match busyCore s with
      | some c => cycleTurn s c
      | none => .next s

/-- The instruction is a step of another agent (it has no encoding). -/
def isEvent (i : Instr) : Bool := (encode i).isNone

/-- A given turn; one that cannot be taken changes nothing (log entry 4). -/
def runTurn (s : State) : Turn → Out
  | .event i => if isEvent i then exec i s else .next s
  | .cycle c => cycleTurn s c
  | .issue c sub => issueTurn s c sub
  | .perform c g o k => .next (s.performTurn c g o k)
  | .post c g o k => .next (s.postTurn c g o k)
  | .split c g o k n => .next (s.splitTurn c g o k n)
  | .tossRead c g h r o n => .next (s.tossReadTurn c g h r o n)
  | .tossWrite c g h o n => .next (s.tossWriteTurn c g h o n)
  | .tellerApply c => .next (s.tellerTurn c)
  | .engineRead i x n => .next (s.engineReadTurn i x n)
  | .engineWrite i p o n => .next (s.engineWriteTurn i p o n)
  | .l1In c a => .next (s.l1Fill c a)
  | .l1Out c a => .next (s.l1Drop c a)
  | .copyIn t l => .next (s.copyFill t l)
  | .copyOut t l => .next (s.copyDrop t l)
  | .tlbIn t c asid va lv => .next (s.tlbFill t c asid va lv)
  | .tlbOut t c e => .next (s.modTlb t c (fun l => l.filter (fun x => x != e)))

/-- One step (log entries 3, 4): the second word of an issue opportunity, else what takes effect at once, else the next turn, else the
default. -/
def stepBody (s : State) : Out :=
  match s.second with
  | some (c, gi, p) => secondTurn s c gi p
  | none =>
    match atOnce s with
    | some t => .next t
    | none =>
      match s.turns with
      | [] => defaultTurn s
      | t :: r => runTurn { s with turns := r } t

end Sys2Proof.Machine
end

