-- ==== Sys2Proof/Machine/Step.lean ====
section
/-! DEFINITION. One step of the module, and the placing of one instruction where step fetches (log entries 4, 27). -/
namespace Sys2Proof.Machine

/-- One step (R33, R336; log entry 4). -/
def step (s : State) : Host.Outcome State Fault Refusal := stepBody s

/-! ### A program in place (log entry 27) -/

/-- The tables of context 0: its context entry at 0x80000 names the root at 0x100000 (R339); root entry 0 names the level 2
table at 0x200000 (R341); level 2 entry 0 is a leaf, read, write and execute, that maps the first 1 GiB to itself (R342). -/
def loadTables (m : Memory) : Memory :=
  memSetNat (memSetNat (memSetNat m 0x80000 8 0x100001) 0x100000 8 0x200003) 0x200000 8 0x1D

/-- Where the program starts. -/
def loadAddr : Nat := 0x10000

/-- A clause header of one word, with no flags, no waits and no yield (R59). -/
def oneWordHeader : Nat := 0xFF040

/-- The clause at the entry: its header, then the word (R57, R59). -/
def loadCode (m : Memory) (w : Nat) : Memory := memSetNat (memSetNat m loadAddr 4 oneWordHeader) (loadAddr + 4) 4 (w % 2 ^ 32)

/-- The one gang of the block at its start (R31). -/
def loadGang : Gang := startGang (BitVec.ofNat 56 loadAddr) (List.replicate 24 0) 8

/-- The block in place: one gang, every register and slot an allotment can have, both scratchpads (R14, R26, R31). -/
def loadBlock : Block :=
  { cfg := { nGangs := 1, allot := 512, slots := 8, dsp := 512, rsp := 4096, code := BitVec.ofNat 56 loadAddr }, gangs := [loadGang] }

/-- The launch of the block: past its dequeue, its one block started. -/
def loadLaunch : Launch :=
  { id := 0, part := 0, prio := 0, asid := 0, smode := false, lrec := 0, fateAddr := 0, words := List.replicate 16 0,
    phase := .running, grid := 1, k := List.replicate 24 0, started := [0] }

/-- The state in which the next step fetches and runs the instruction with the bits `w` (log entry 27): tower 0 in service, its
context tables and the clause in memory, and a block that has just started on core 0. -/
def State.withFetchWord (s : State) (_nbits w : Nat) : State :=
  { s with
    mem := loadCode (loadTables s.mem) w
    ctxbase := 0x80000
    towers := modAt s.towers 0 (fun t => { t with inService := true })
    cores := modAt s.cores 0 (fun c => { c with bind := .running, block := some loadBlock, granted := 0 })
    parts := s.parts.set 0 (some { cores := [0] })
    launches := [loadLaunch]
    nextLaunch := 1
    second := none
    turns := [] }

end Sys2Proof.Machine
end

