-- ==== Sys2Proof/Safety.lean ====
section
/-! DEFINITION. What holds of every state a run can meet, and what a safe run is. -/
namespace Sys2Proof.Machine

/-- The invariant of the module: each memory is in its canonical form, so that equal contents are equal data, and the module
has the cores, the towers and the partition registers it was built with (R1, R2, R325). -/
def State.Inv (s : State) : Prop :=
  s.mem.wf = true ∧ s.hostMem.wf = true ∧ s.peerMem.wf = true ∧ s.cores.length = 256 ∧ s.towers.length = 8 ∧ s.parts.length = 16

/-- An outcome keeps the invariant: the state it answers, if it answers one, has it. -/
def Out.Keeps (o : Out) : Prop := ∀ t, o = .next t → t.Inv

/-- A run of `n` steps is safe: it meets no fault and no refusal, and every state on the way has the invariant. -/
def SafeRun : Nat → State → Prop
  | 0, s => s.Inv
  | n + 1, s => s.Inv ∧ ∃ t, step s = .next t ∧ SafeRun n t

end Sys2Proof.Machine
end

