-- ==== Sys2Proof/Claims.lean ====
section
/-! DEFINITION. The words in which the statements are put: operands inside the allotment, elements as bit vectors, and what a
word leaves as it was. Nothing here is part of the machine. -/
namespace Sys2Proof.Machine

/-! ### Operands -/

/-- A source operand lies inside the allotment: a window register (R51), and an indirect operand in every active lane (R54). -/
def Ctx.SrcOk (c : Ctx) : Src → Prop
  | .v i => c.g.wb + i.val < c.blk.cfg.allot
  | .ix n => ∀ l ∈ c.lanes, ((c.g.lane l).x.getD n.val 0).toNat < c.blk.cfg.allot
  | .k _ | .z | .lid | .gnid => True

/-- Every operand of a list lies inside the allotment. -/
def Ctx.Ok (c : Ctx) (rs : List Src) : Prop := ∀ r ∈ rs, c.SrcOk r

/-- Sub-element `e` of a source in a lane, as bits (R50, R155). -/
def Ctx.bv (c : Ctx) (w : Width) (r : Src) (l e : Nat) : BitVec w.bits := BitVec.ofNat w.bits (c.elem w r l e)

/-- sat_i of R155: the nearest signed value of the width. -/
def satSigned (n : Nat) (x : Int) : BitVec n :=
  BitVec.ofInt n (max (-(2 ^ (n - 1) : Nat)) (min ((2 ^ (n - 1) : Nat) - 1) x))

/-- sat_n of R155: the nearest unsigned value of the width. -/
def satUnsigned (n : Nat) (x : Int) : BitVec n := BitVec.ofInt n (max 0 (min ((2 ^ n : Nat) - 1) x))

/-! ### Issue -/

/-- An outcome with its next state changed by `f`. -/
def Out.andThen (o : Out) (f : State → State) : Out :=
  match o with
  | .next s => .next (f s)
  | .fault x => .fault x
  | .refused x => .refused x

/-- The state in which the word described by `iss` executes: its issue data in place, and the yield hint of its clause noted
in its gang (R161, R336). -/
def State.issuing (s : State) (g : Gang) (iss : Issue) : State :=
  ({ s with cur := iss } : State).setGang iss.core iss.gang (g.noteYield iss (s.core iss.core).cycles)

/-! ### Results -/

/-- The word completes, and gives each enabled sub-element of its destination in each active lane the value `f` (R155). -/
def Ctx.Gives (c : Ctx) (s : State) (i : Instr) (w : Width) (d : Dst) (f : Nat → Nat → BitVec w.bits) : Prop :=
  exec i s = .next (s.retire (c.writeElems w d (fun l e => (f l e).toNat)))

/-- The word completes, and each active lane's destination takes the value `f` (R180, R302). -/
def Ctx.GivesLane (c : Ctx) (s : State) (i : Instr) (d : Dst) (f : Nat → Word) : Prop :=
  exec i s = .next (s.retire (c.g.writeDst c.iss.active d f))

/-- The word completes, and mask `m` takes the relation `p` in the bits of each enabled sub-element of each active lane (R155,
R169). -/
def Ctx.Compares (c : Ctx) (s : State) (i : Instr) (w : Width) (m : MaskNo) (p : Nat → Nat → Bool) : Prop :=
  exec i s = .next (s.retire (c.g.setMask m (c.compared w (c.g.mask m) p)))

/-- The word completes with its gang in state `g`, its lanes at the next word. -/
def GoesOn (s : State) (i : Instr) (g : Gang) : Prop := exec i s = .next (s.retire g)

/-- The word raises the trap `t` (R66, R305): it changes nothing before the trap is taken. -/
def Traps (s : State) (i : Instr) (t : Trap) : Prop := exec i s = .next (s.trap t)

/-- The bit field that `b` names in a value of width `w` (R168): its position and the bits it covers. -/
def fieldAt (w : Width) (b : BitVec w.bits) : Nat × Nat :=
  let n := match w with | .b8 => 3 | .b16 => 4 | .b32 => 5 | .b64 => 6
  let pos := b.toNat % 2 ^ n
  (pos, min (b.toNat / 2 ^ n % 2 ^ n + 1) (w.bits - pos))

/-! ### Accesses to memory -/

/-- A store of some of the lanes, issued before and still to be performed, covers a granule of package memory whole (R126, R132 item
1). -/
def Ctx.Mended (c : Ctx) (lanes : LaneBits) (granule : Nat) : Prop :=
  ∃ o ∈ c.g.ops, ∃ y ∈ o.todo, y.writes = true ∧ y.lanes &&& lanes ≠ 0 ∧
    ∃ a, y.spot = .vm (.pkg a) ∧ a ≤ 32 * granule ∧ 32 * granule + 32 ≤ a + y.n

/-- A store of some of the lanes, issued before and still to be performed, covers an 8-byte group of a core's data scratchpad whole (R126,
R143). -/
def Ctx.DsMended (c : Ctx) (lanes : LaneBits) (core group : Nat) : Prop :=
  ∃ o ∈ c.g.ops, ∃ y ∈ o.todo, y.writes = true ∧ y.lanes &&& lanes ≠ 0 ∧
    ∃ a, y.spot = .ds core a ∧ a ≤ 8 * group ∧ 8 * group + 8 ≤ a + y.n

/-- Byte `i` of a read of `lanes` lies in a failing granule, which no earlier store of theirs will have mended (R126, R132 item 1). -/
def Ctx.Fails (c : Ctx) (s : State) (lanes : LaneBits) (loc : Loc) (i : Nat) : Prop :=
  ∃ a, loc = .pkg a ∧ (a + i) / 32 ∈ s.failing ∧ ¬ c.Mended lanes ((a + i) / 32)

/-- Every access of a list reaches memory (R108): its address is in range and a multiple of `n`, its walk gives its location and
whether that is a memory-side line (R116), the leaf and the home admit it, and, where it reads, no byte that it consumes fails (R126):
`own` says which bytes it takes from staged entries of its lane's own instead (R151), `lanes` the lanes in whose program order it stands
(R133). -/
def Ctx.Reaches (c : Ctx) (s : State) (k : AccKind) (home : Loc → Bool) (reads : Bool) (n : Nat) (ls : List Nat) (ea : Nat → Nat)
    (loc : Nat → Loc × Bool) (own : Nat → Nat → Bool := fun _ _ => false) (lanes : Nat → LaneBits := oneLane) : Prop :=
  ∀ l ∈ ls, ea l < 2 ^ 56 ∧ ea l % n = 0 ∧
    (∃ leaf, walk s (s.coreTlb c.iss.core) c.blk.cfg.asid (ea l) = .ok (loc l).1 leaf ∧ leaf.allows c.blk.cfg.smode k = true ∧
      leaf.ms = (loc l).2) ∧
    home (loc l).1 = true ∧ (reads = true → ∀ i, i < n → own l i = false → ¬ c.Fails s (lanes l) (loc l).1 i)

/-- The access of a lane at its place in virtual memory: an access of its own in that lane's program order (R130, R186). -/
def laneAccess (l : Nat) (p : Loc × Bool) (n : Nat) (ord : MemOrder) (act : AccAct) : Access :=
  { lane := l, lanes := BitVec.ofNat 32 (2 ^ l), spot := .vm p.1, n := n, act := act, ord := ord, direct := p.2 }

/-- The access of a whole word to a block of 2 048 bytes: every byte is an access of its own, and the scratchpad side is outside the
scratchpads' order (R130, R133, R143, R193). -/
def planeAccess (l : Nat) (lanes : LaneBits) (p : Loc × Bool) (act : AccAct) : Access :=
  { lane := l, lanes := lanes, spot := .vm p.1, n := 2048, act := act, direct := p.2, async := true, grain := 1 }

/-- The memory operation that the word leaves outstanding: it counts in flag A (R39, R185), and has its accesses still to perform
and the register results `rs` to write when it completes. -/
def Ctx.outstanding (c : Ctx) (xs : List Access) (rs : List RegWrite) : Op :=
  { id := c.g.nextId, cls := .a, kind := .memory, clauses := c.g.clausesOf c.iss.active, lanes := c.iss.active
    isRead := xs.any Access.reads, isWrite := xs.any Access.writes, todo := xs, peer := xs.any (·.spot.isPeer)
    asid := some c.blk.cfg.asid, regs := rs }

/-- Accesses to virtual memory, each noting the topmost entry that the translation of its address used (R346, R347): what an
invalidation that removes the entry waits for. -/
def Ctx.via (c : Ctx) (s : State) (xs : List Access) (vas : List (Nat × Nat)) : List Access :=
  xs.mapIdx (fun i x => match vas[i]? with
    | some p => { x with via := topEntry (s.coreTlb c.iss.core) c.blk.cfg.asid p.2 }
    | none => x)

/-- Accesses that have taken their places among the requests of a tower to peer memory, which has made `n` before (R361): the i-th of them
that is one has the number n + i. -/
def Numbered (n : Nat) (xs ys : List Access) : Prop :=
  ys = xs.mapIdx (fun i x => if x.spot.isPeer then { x with turn := n + ((xs.take (i + 1)).filter (·.spot.isPeer)).length } else x)

/-- The word issues its accesses `xs`, to be performed later (R185), with the rest of the module in state `t`: its lanes go on, and
nothing else is changed but the number of requests that its tower has made to peer memory (R361). Where one of them reads a peer's memory,
its lanes are held until the word has completed (R119, R362). `vas` gives the lane and the virtual address of each access. -/
def Ctx.Issues (c : Ctx) (s t : State) (i : Instr) (xs : List Access) (rs : List RegWrite) (vas : List (Nat × Nat)) : Prop :=
  let n := (t.tower (towerOf c.iss.core)).requests
  let k := (xs.filter (·.spot.isPeer)).length
  let u := if k = 0 then t else t.modTower (towerOf c.iss.core) (fun x => { x with requests := n + k })
  ∃ ys, Numbered n (c.via s xs vas) ys ∧ exec i s = .next (
    if xs.any (fun x => x.spot.isPeer && x.reads) then
      u.setGang c.iss.core c.iss.gang (c.g.hold c.iss c.iss.active (.peer (c.outstanding ys rs) vas))
    else u.retire (c.g.addOp (c.outstanding ys rs)))

/-- The results of lanes that a zeroing prefix disables (R63, R184): zero, in the register that `d` names. -/
def Ctx.zeroed (c : Ctx) (d : Dst) : List RegWrite :=
  ((c.lanes.filter (fun l => c.zeroing && !c.en l 0)).filterMap (fun l =>
    (c.g.dstIndex l d).map (fun r => { lane := l, reg := r, value := 0 })))

/-- Ranges that a Toss word reads or writes are in order (R246, checks 5.3 and 5.4): inside the address space, aligned, every page
reached with its access admitted, and, where read, no byte failing but those that the lane's own staged entries supply (R250). -/
def Ctx.RangesOk (c : Ctx) (s : State) (rs : List RangeReq) : Prop :=
  ∀ q ∈ rs, q.va + q.n ≤ 2 ^ 56 ∧ q.va % q.align = 0 ∧ ∀ p ∈ piecesOf q.va q.n, ∃ loc leaf,
    walk s (c.unitTlb s) c.blk.cfg.asid p.1 = .ok loc leaf ∧ leaf.allows c.blk.cfg.smode q.kind = true ∧
      (q.wr = false → ∀ i, i < p.2 → (c.blk.ownAt c.iss.gang c.low s.freshCount p.1 i).isSome = true ∨ ¬ c.Fails s c.iss.active loc i)

/-- The lowest lane of a list for which `p` holds is `l`. -/
def FirstLane (ls : List Nat) (p : Nat → Prop) (l : Nat) : Prop := l ∈ ls ∧ p l ∧ ∀ m ∈ ls, m < l → ¬ p m

/-! ### What a word leaves as it was -/

/-- The gang of the word is `g` in `t`, and the rest of the module is as in `s`: every other gang, block, core, memory and
register. -/
def Ctx.Only (c : Ctx) (s t : State) (g : Gang) : Prop := t = s.setGang c.iss.core c.iss.gang g

/-- A lane that was active has gone on by the word, at the next address (R49); but for its place and its registers it is
as it was. -/
def Ctx.WentOn (c : Ctx) (x y : Lane) : Prop := y = { x.next c.iss.addr c.iss.words with regs := y.regs, x := y.x }

/-- What a word that writes at most one register `r?` of each active lane leaves as it was: the gang but for its lanes, the
counts of its flags and its clause instances (which settle as classes of work are done, R39); lanes that are not active; every
other register of an active lane, and its index registers. -/
def Ctx.RegFrame (c : Ctx) (s t : State) (r? : Nat → Option Nat) : Prop :=
  ∃ g, c.Only s t g ∧ g = { c.g with lanes := g.lanes, flags := g.flags, clauses := g.clauses } ∧
    ∀ l, (c.iss.active.getLsbD l = false → g.lane l = c.g.lane l) ∧
      (c.iss.active.getLsbD l = true → l < c.g.lanes.length → c.WentOn (c.g.lane l) (g.lane l) ∧ (g.lane l).x = (c.g.lane l).x ∧
        ∀ r, r? l ≠ some r → regGet (g.lane l).regs r = regGet (c.g.lane l).regs r)

/-- Every byte of every memory, and of the scratchpads of every resident block, reads in `t` as in `s`. -/
def SameBytes (s t : State) : Prop :=
  (∀ a, cellGet t.mem a = cellGet s.mem a) ∧ (∀ a, cellGet t.hostMem a = cellGet s.hostMem a) ∧
  (∀ a, cellGet t.peerMem a = cellGet s.peerMem a) ∧
  ∀ n b b', s.block? n = some b → t.block? n = some b' →
    (∀ a, cellGet b'.ds a = cellGet b.ds a) ∧ (∀ a, cellGet b'.rs a = cellGet b.rs a)

/-! ### The register words -/

/-- The words whose one effect, once their operands are inside the allotment, is on one register of each active lane: the
destination, and the sources that are checked beside it. -/
def regWord : Instr → Option (Dst × (Ctx → List Src))
  | .add _ d a b | .sub _ d a b | .addsI _ d a b | .addsN _ d a b | .subsI _ d a b | .subsN _ d a b | .absdI _ d a b | .absdN _ d a b
  | .mul _ d a b | .mulhI _ d a b | .mulhN _ d a b | .mulsI _ d a b | .mulsN _ d a b
  | .minI _ d a b | .minN _ d a b | .maxI _ d a b | .maxN _ d a b
  | .divI _ d a b | .divN _ d a b | .remI _ d a b | .remN _ d a b
  | .and _ d a b | .or _ d a b | .xor _ d a b | .andn _ d a b | .orn _ d a b | .xnor _ d a b
  | .shl _ d a b | .shrN _ d a b | .shrI _ d a b | .rol _ d a b | .ror _ d a b
  | .bfxN _ d a b | .bfxI _ d a b | .bfi _ d a b | .sel _ _ d a b | .lea _ d a b
  | .addF _ d a b | .subF _ d a b | .mulF _ d a b | .minF _ d a b | .maxF _ d a b | .csgn _ d a b | .shfl _ d a b => some (d, fun _ => [a, b])
  | .mad _ d a b | .bsel _ d a b | .fmaF _ d a b | .fmsF _ d a b | .fnmaF _ d a b => some (d, fun c => [a, b, c.fourth d])
  | .absI _ d a | .abss _ d a | .neg _ d a | .negs _ d a | .not _ d a | .popc _ d a | .clz _ d a | .ctz _ d a | .brev _ d a
  | .shli _ d a _ | .shriN _ d a _ | .shriI _ d a _ | .rori _ d a _ | .addi _ d a _ | .andi _ d a _ | .ori _ d a _
  | .leai _ d a _ | .mov d a | .absF _ d a | .negF _ d a | .rint _ d a | .dqbx8 d a | .dqbx16 d a
  | .shfx _ d a _ | .shup _ d a _ | .shdn _ d a _
  | .gaddF32 d a | .gmaxF32 d a | .gminF32 d a | .gamaxF32 d a | .gaddI32 d a | .gaddI64 d a | .qryX d a => some (d, fun _ => [a])
  | .movi _ d _ | .amxr d | .ballot d _ | .nact d | .lfirst d | .mget d _ | .xget d _ | .cqstat d _ | .asyr d _ =>
    some (d, fun _ => [])
  | _ => none

end Sys2Proof.Machine
end

