-- ==== Sys2Proof/Certificates/Slice0/Obligations.lean ====
section
/-! DEFINITION. The statements for the provers. Each says what a rule of the spec gives an instruction or the machine; each
names the rules in its docstring. -/
open Sys2Proof Sys2Proof.Machine

/-- For every well-formed instruction that has an encoding, with every operand at every value its field admits, the word the encoder writes is 32 bits long and decodes to exactly that instruction: no bit of an encoding is dropped, and no two instructions share a word. -/
def Obligations.DecodeOfEncodeIsTheInstruction : Prop :=
  ∀ (i : Instr) (w : Nat), i.wf = true → encode i = some w → w < 2 ^ 32 ∧ decodes w = some i

/-- From every state that satisfies the invariant (package, host and peer memory in canonical form, 256 cores, 8 towers, 16 partition registers), whatever step comes next, of a sub-core, a clock, an engine, the management core, the host or a peer, the next state satisfies it too. That reset satisfies it is stated apart. -/
def Obligations.EveryStepKeepsTheInvariant : Prop :=
  ∀ s t : State, s.Inv → step s = .next t → t.Inv

/-- At reset every memory lists nothing; STATUS, APBASE, the ring bases, H2DTAIL, H2DDONE, D2HSEQ and D2HACK are 0 and the ring sizes log2 4 (R357); no partition exists and no core has a block, every bind record is idle (R332), the elevator maps name no spare (R369), every tower is at stage 0, out of service, with its Assay counters and its error log empty (R364, R365, R370), its clock at 1.5 GHz and its duty at 16 (R371, R378); PWRLIM is 5500, TLIM 95 and THRCNT 0 (R377); no launch and no command exists. The EPOCH is nonzero (R357). Where the spec gives no reset value the model's own stand: memories that list nothing read as 0 (log entry 2, DESIGN CHOICE), and the core cycle counters, the error-log overflow count and the channel state stand at 0 (log entry 5, DESIGN CHOICE). -/
def Obligations.ResetHoldsTheInvariantAndTheResetValues : Prop :=
  let s := State.reset
  s.Inv ∧ s.mem = [] ∧ s.hostMem = [] ∧ s.peerMem = [] ∧
  (s.mailbox.ready = false ∧ s.mailbox.reduced = false ∧ s.mailbox.fatal = false ∧ s.mailbox.epoch ≠ 0 ∧ s.mailbox.apbase = 0 ∧
    s.mailbox.h2dbase = 0 ∧ s.mailbox.h2dsize = 4 ∧ s.mailbox.h2dtail = 0 ∧ s.mailbox.h2ddone = 0 ∧ s.mailbox.d2hbase = 0 ∧
    s.mailbox.d2hsize = 4 ∧ s.mailbox.d2hseq = 0 ∧ s.mailbox.d2hack = 0) ∧
  (∀ p ∈ s.parts, p = none) ∧
  (∀ k ∈ s.cores, k.block = none ∧ k.bind = .idle ∧ k.spare = false ∧ k.cycles = 0) ∧
  (∀ t ∈ s.towers, t.stage = 0 ∧ t.inService = false ∧ t.asycnt = List.replicate 8 0 ∧ t.errlog = [] ∧ t.overflow = 0 ∧
    t.retired = false ∧ t.faults = [] ∧ t.mhz = 1500 ∧ t.duty = 16) ∧
  (s.pwrlim = 5500 ∧ s.tlim = 95 ∧ s.thrcnt = 0) ∧ s.launches = [] ∧ s.commands = []

/-- The words that the spec's own worked encodings write out, one or more of each family, decode to the instructions beside them: a branch, loops, integer, select, floating-point, conversion, memory, matrix, Toss, engine, monitor, barrier, query and window words; and the example header and prefix word read as the spec reads them. An all-zero word, an all-ones word and a prefix word are no instruction. -/
def Obligations.WordsOfTheSpecsExamplesDecode : Prop :=
  decodes 0x3B40F901 = some (.andi .b64 (.v 1) .lid 1) ∧ decodes 0x330040F8 = some (.ceq .b64 1 (.v 1) .z) ∧
  decodes 0x01200004 = some (.br 1 false (some 0) 4) ∧ decodes 0x020F0003 = some (.jmp none 3) ∧
  decodes 0x3BC100FF = some (.movi .b64 (.v 2) 0xFF) ∧ decodes 0x7C200000 = some (.join 0) ∧ decodes 0x08000000 = some .exit ∧
  decodes 0x684286A8 = some (.cvt 1 (.v 5) (.v 6) .e4m3 .f32) ∧ decodes 0x694286A8 = some (.cvto 1 (.v 5) (.v 6) .e4m3 .f32) ∧
  decodes 0xE801800B = some (.qry (.v 3) 0x0B) ∧ decodes 0xE9808320 = some (.xset 1 (.v 3) 32) ∧
  decodes 0xE9C20100 = some (.xget (.v 4) 1) ∧ decodes 0xE9000002 = some (.winb 2) ∧
  decodes 0xC51E0064 = some (.enc .f32 .i8 .z 0 (.k 4)) ∧ decodes 0xC6000000 = some .mxfence ∧
  decodes 0xC01A3265 = some (.mxm 0 (.k 8) (.k 4) (.k 5)) ∧ decodes 0xC31E356B = some (.mxdrs 0 .z (.k 10) (.k 11)) ∧
  decodes 0x064C000F = some (.looptB (.v 24) 15) ∧ decodes 0x060C7FF3 = some (.loopt (.v 24) 0x7FF3) ∧
  decodes 0x90CD9900 = some (.ldsN .b64 (.v 27) (.v 25) 0) ∧ decodes 0x61078D80 = some (.sigm (.v 30) (.v 27)) ∧
  decodes 0x4047CE9E = some (.mulF .f32 (.v 31) (.v 29) (.v 30)) ∧ decodes 0x92502100 = some (.sts .b16 (.v 32) (.v 33) 0) ∧
  decodes 0x3DCC9920 = some (.leai 3 (.v 25) (.v 25) 32) ∧ decodes 0xD00A2000 = some (.cpy 0 40 true) ∧
  decodes 0xB3AB55AC = some (.monw true .geN (.v 45) (.v 43) (.v 44)) ∧ decodes 0x9C408000 = some (.ldkX (.v 1) (.v 0)) ∧
  decodes 0x40A1C306 = some (.fmaF .f32 (.v 7) (.v 6) (.v 6)) ∧ decodes 0xB1200000 = some .barE ∧
  decodes 0x94028200 = some (.ldgAddF32 (.v 10) (.v 4)) ∧ decodes 0x60430580 = some (.sqrt (.v 12) (.v 11)) ∧
  decodes 0x23E3450C = some (.bsel .b64 (.v 13) (.v 10) (.v 12)) ∧ decodes 0xD900C080 = some (.tosscand .f32 (.v 3) (.v 1)) ∧
  decodes 0xDA014100 = some (.tossmerge (.v 5) (.v 2)) ∧ decodes 0xDB018100 = some (.tossdraw (.v 6) (.v 2)) ∧
  decodeHeader 0x004FF100 = some { wait := 4, flagA := none, flagB := none, length := 4, yieldHint := false } ∧
  decodePfx 0xFE000065 = some { mask := none, zeroing := false, round := none, c := .k 5, cZero := false } ∧
  decodes 0 = none ∧ decodes 0xFFFFFFFF = none ∧ decodes 0xFE000065 = none

/-- For every 32-bit word, if it decodes to an instruction then the encoder writes exactly that word for it, and the instruction is well formed: so a word with a reserved field that is not zero, an unassigned opcode or function, or a register number that names nothing decodes to no instruction. -/
def Obligations.ADecodedWordIsTheEncodingOfItsInstruction : Prop :=
  ∀ (w : Nat) (i : Instr), w < 2 ^ 32 → decodes w = some i → encode i = some w ∧ i.wf = true

/-- A word whose major opcode is one of those the compute, memory and engine chapters leave unassigned (R158, R187, R285) encodes no instruction and is no prefix; issued at a path inside a clause it raises an illegal-encoding trap that names the lowest active lane, as does the machine's own row for such a word. -/
def Obligations.UnassignedMajorOpcodesAreIllegal : Prop :=
  ∀ w : Nat, w < 2 ^ 32 →
    (let o := w / 2 ^ 24
     o ∈ [0x05, 0x07, 0x0A, 0x0B, 0x0C, 0x0D, 0x0E, 0x0F, 0x3E, 0x6D, 0x6E, 0x6F, 0x76, 0x77, 0x7A, 0x7B, 0x7D, 0x7E, 0x7F] ∨
      (0x46 ≤ o ∧ o ≤ 0x5F) ∨ (0x62 ≤ o ∧ o ≤ 0x67) ∨
      o ∈ [0x83, 0x8C, 0x8D, 0x8E, 0x8F, 0x93, 0x95, 0x96, 0x97, 0x99, 0x9A, 0x9B, 0x9D, 0x9E, 0x9F] ∨ (0xB7 ≤ o ∧ o ≤ 0xBF) ∨
      o = 0xD6 ∨ o = 0xD7) →
    decodes w = none ∧ isPfxWord w = false ∧
    (∀ (s : State) (n gi : Nat) (b : Block) (g : Gang) (p : Path), s.block? n = some b → b.gangs[gi]? = some g → p.header = false →
      codeAt s n b p.pc = .ok w →
      let iss : Issue := { core := n, gang := gi, addr := p.pc, taddr := p.pc, active := p.lanes }
      runPath s n gi p = .next (((s.issuing g iss).trap { cause := 0x01, lane := lowLane p.lanes }).settleReqs n gi)) ∧
    ∀ (s : State) (c : Ctx), ctx? s = some c →
      Traps s (.unassignedEncodingIssue (BitVec.ofNat 32 w)) { cause := 0x01, lane := lowLane c.iss.active }

/-- What issues at a path is the instruction its word decodes to, executed by exec with that path's lanes active: inside a clause the word at the path's address; at a header, the header opens a clause instance (R39, R60) and the word after it issues with it; with a prefix, behind a header or not, the word after the prefix issues under its options (R61, R62). A word that decodes to nothing, inside a clause, behind a header, behind a prefix or behind both, raises an illegal-encoding trap (R65), as do a header that is none (TCAUSE marks it), a prefix whose options are none, one that is the last word of its clause, one before a word that is no vector word or takes no fourth operand while its c field is not zero, and a control transfer that is not the last word of its clause (R38, R61, R62). A step runs what issues at a path when it is the second path of an issue opportunity, for its lanes that still stand there, where its header may still issue and its word's unit still has room, and when it is the one path of the gang that is granted; nothing is added around it but the bookkeeping of translation requests (R350), the grant, the cycle's count and the skip counts (R32, R336, R378). That turns say which sub-core is granted next is the model's form (log entry 4). -/
def Obligations.AStepRunsTheDecodedWord : Prop :=
  (∀ (s : State) (n gi : Nat) (b : Block) (g : Gang) (p : Path), s.block? n = some b → b.gangs[gi]? = some g →
    let low := lowLane p.lanes
    let iss : Issue := { core := n, gang := gi, addr := p.pc, taddr := p.pc, active := p.lanes }
    let runs := fun (o : Out) => runPath s n gi p = o.andThen (·.settleReqs n gi)
    -- the word at `va`, in state `s1` with the gang `g1`, issues with `js`
    let word := fun (s1 : State) (g1 : Gang) (js : Issue) (va : VAddr) =>
      ∀ w, codeAt s n b va = .ok w → isPfxWord w = false →
        (∀ i, decodes w = some i → (isControl i = true → g1.wordsLeftMax p.lanes ≤ 1) → runs (exec i (s1.issuing g1 js))) ∧
        (decodes w = none → runs (.next ((s1.issuing g1 js).trap { cause := 0x01, lane := low }))) ∧
        (∀ i, decodes w = some i → isControl i = true → 1 < g1.wordsLeftMax p.lanes →
          runs (.next ((s1.issuing g1 js).trap { cause := 0x01, lane := low })))
    let prefixed := fun (s1 : State) (g1 : Gang) (js : Issue) (va : VAddr) =>
      ∀ pw, codeAt s n b va = .ok pw → isPfxWord pw = true →
        let bad := fun (js : Issue) => runs (.next (({ s1 with cur := js } : State).trap { cause := 0x01, lane := low }))
        (decodePfx pw = none → bad js) ∧
        ∀ q, decodePfx pw = some q →
          (g1.wordsLeft p.lanes ≤ 1 → bad js) ∧
          (2 ≤ g1.wordsLeft p.lanes → ∀ w, codeAt s n b (va + 4) = .ok w →
            let ks : Issue := { js with addr := va + 4, pfx := some q, words := 2 }
            (isPfxWord w = true → bad ks) ∧
            (isPfxWord w = false →
              (∀ i, decodes w = some i → isVectorOp (opOf w) = true → isControl i = false → (q.cZero = true ∨ takesFourth i = true) →
                runs (exec i (s1.issuing g1 ks))) ∧
              (decodes w = none → runs (.next ((s1.issuing g1 ks).trap { cause := 0x01, lane := low }))) ∧
              (∀ i, decodes w = some i → (isVectorOp (opOf w) = false ∨ (q.cZero = false ∧ takesFourth i = false)) →
                runs (.next ((s1.issuing g1 ks).trap { cause := 0x01, lane := low })))))
    (p.header = false → word s g iss p.pc ∧ prefixed s g iss p.pc) ∧
    (p.header = true → ∀ hw, codeAt s n b p.pc = .ok hw →
      (decodeHeader hw = none → runs (.next (({ s with cur := iss } : State).trap { cause := 0x01, lane := low, hdr := true }))) ∧
      ∀ h, decodeHeader hw = some h →
        let g1 := g.openClause h p.pc p.lanes
        let s1 := s.setGang n gi g1
        let js : Issue := { iss with addr := p.pc + 4, taddr := p.pc + 4, hdr := some p.pc }
        word s1 g1 js (p.pc + 4) ∧ prefixed s1 g1 js (p.pc + 4))) ∧
  (∀ (s : State) (n gi : Nat) (p : Path) (b : Block) (g : Gang),
    s.second = some (n, gi, p) →
    let s0 : State := { s with second := none }
    let q : Path := { p with lanes := p.still g }
    s0.block? n = some b → b.gangs[gi]? = some g → q.lanes ≠ 0 → (q.header = true → headerOpen s0 n b g q.pc = true) → (peekWord s0 n b q).any (wordFull s0 n gi b g q) = false →
    step s = runPath (s0.clearSkips n gi q.lanes) n gi q) ∧
  (∀ (s : State) (r : List Turn) (n sub gi : Nat) (b : Block) (g : Gang) (p : Path),
    s.second = none → atOnce s = none → s.turns = .issue n sub :: r →
    let s0 : State := { s with turns := r }
    let k := s0.core n
    k.block = some b → k.bind = .running → sub < 4 → k.granted.getLsbD sub = false → (s0.tower (towerOf n)).clockStopped = false →
    (k.granted ≠ 0 ∨ k.opened < (s0.tower (towerOf n)).duty) →
    b.gangs[gi]? = some g → readyGangs s0 n b sub = [(gi, [p])] →
    let g1 : Gang := { g with ready := some (g.ready.getD k.cycles) }
    let b1 : Block := { b with gangs := (b.gangs.set gi g1).set gi { g1.skips [p] [p] with ready := none } }
    let k1 : Core := { k with
      block := some b1
      lifting := false
      granted := k.granted ||| BitVec.ofNat 4 (2 ^ sub)
      opened := if k.granted = 0 then k.opened + 1 else k.opened }
    step s = runPath { s0.setCore n k1 with second := none } n gi p)

/-- The gangs a sub-core may grant are its own that hold an eligible lane, each with the paths of its eligible lanes: lanes that have not exited, are not parked, do not wait and are not frozen by a trap, whose header may issue and whose word's unit has room; each such lane is in one path, at its own program counter. The arbiter grants the gang with the smallest ready cycle, the lowest number among equals, one suppressed after a yield only where every gang that is ready is. Of the gang's paths at most two are chosen, the lower address first: those with a lane whose skip count is 64, by address, then those with the most lanes, by address; and no path left out has a better claim. The skip counts of a chosen path's lanes become 0, those of the others one more up to 64, and the lanes of no path keep theirs. -/
def Obligations.TheArbiterAndThePathsChosen : Prop :=
  (∀ (s : State) (n sub gi : Nat) (b : Block) (ps : List Path), (gi, ps) ∈ readyGangs s n b sub →
    gi % 4 = sub ∧ ps ≠ [] ∧ ∃ g, b.gangs[gi]? = some g ∧ ps = pathsOf s n gi b g ∧
      (∀ l, l < 32 → ∀ p ∈ ps, p.lanes.getLsbD l = true → (g.lane l).pc = p.pc ∧ (g.lane l).exited = false ∧ (g.lane l).park = none ∧
        (g.lane l).wait = none ∧ (g.inHandler = true → (g.lane l).hl = true) ∧ (p.header = true ↔ (g.lane l).cpos = 0) ∧
        ∀ q ∈ ps, q.lanes.getLsbD l = true → q = p) ∧
      (∀ p ∈ ps, p.header = true → headerOpen s n b g p.pc = true) ∧
      (∀ p ∈ ps, ∀ w, peekWord s n b p = some w → wordFull s n gi b g p w = false) ∧
      (∀ l, l < 32 → g.free (g.lane l) = true → (∀ p ∈ ps, p.lanes.getLsbD l = false) →
        ((g.lane l).cpos = 0 ∧ headerOpen s n b g (g.lane l).pc = false) ∨
          ∃ (p : Path) (w : Option Pfx × Instr), p.lanes.getLsbD l = true ∧
            (∀ m, m < 32 → p.lanes.getLsbD m = true → g.free (g.lane m) = true ∧ (g.lane m).pc = p.pc) ∧
            peekWord s n b p = some w ∧ wordFull s n gi b g p w = true)) ∧
  (∀ (b : Block) (cycle : Nat) (gs : List (Nat × List Path)), gs ≠ [] → (∀ x ∈ gs, x.1 < b.gangs.length) →
    (gs.map (·.1)).Pairwise (· < ·) →
    let gang := fun (x : Nat × List Path) => b.gangs.getD x.1 {}
    let ready := fun (x : Nat × List Path) => (gang x).ready.getD cycle
    let held := fun (x : Nat × List Path) => ∃ y, (gang x).yielded = some y ∧ cycle ≤ y + 8
    ∃ x ∈ gs, arbiter b cycle gs = some x ∧ (held x → ∀ y ∈ gs, held y) ∧
      ∀ y ∈ gs, (held y → held x) → ready x < ready y ∨ (ready x = ready y ∧ x.1 ≤ y.1)) ∧
  (∀ (g : Gang) (ps : List Path), g.lanes.length = 32 → ps.Nodup →
    (∀ p ∈ ps, ∀ q ∈ ps, p ≠ q → p.lanes &&& q.lanes = 0) →
    let chosen := choosePaths g ps
    let promoted := fun (p : Path) => ∃ l, l < 32 ∧ p.lanes.getLsbD l = true ∧ 64 ≤ (g.lane l).skip
    let lanes := fun (p : Path) => ((List.range 32).filter (fun l => p.lanes.getLsbD l)).length
    chosen.length = min 2 ps.length ∧ chosen.Nodup ∧ chosen ⊆ ps ∧ chosen.Pairwise (fun p q => p.pc.toNat ≤ q.pc.toNat) ∧
    (∀ p ∈ chosen, ∀ q ∈ ps, q ∉ chosen →
      (promoted q → promoted p ∧ p.pc.toNat ≤ q.pc.toNat) ∧
      (¬ promoted p → lanes q < lanes p ∨ (lanes q = lanes p ∧ p.pc.toNat ≤ q.pc.toNat))) ∧
    ∀ l, l < 32 → ((g.skips ps chosen).lane l) = { g.lane l with
      skip := if ∃ p ∈ chosen, p.lanes.getLsbD l = true then 0
        else if ∃ p ∈ ps, p.lanes.getLsbD l = true then min ((g.lane l).skip + 1) 64 else (g.lane l).skip })

/-- Every add, subtract, multiply, minimum, maximum, absolute, negate, divide and remainder word of R166 completes, for every width, every destination (z and indirect ones too) and every source inside the allotment, with each enabled sub-element of its destination at the value of its row: wrapping, saturating (sat_i and sat_n of R155) or the high half; division by zero gives -1 or all ones, its remainder gives a. -/
def Obligations.IntegerArithmetic : Prop :=
  ∀ (s : State) (c : Ctx) (w : Width) (d : Dst) (a b : Src), ctx? s = some c →
    let A := c.bv w a
    let B := c.bv w b
    let C := c.bv w (c.fourth d)
    (c.Ok [d.src, a, b] →
      c.Gives s (.add w d a b) w d (fun l e => A l e + B l e) ∧
      c.Gives s (.sub w d a b) w d (fun l e => A l e - B l e) ∧
      c.Gives s (.addsI w d a b) w d (fun l e => satSigned _ ((A l e).toInt + (B l e).toInt)) ∧
      c.Gives s (.addsN w d a b) w d (fun l e => satUnsigned _ ((A l e).toNat + (B l e).toNat)) ∧
      c.Gives s (.subsI w d a b) w d (fun l e => satSigned _ ((A l e).toInt - (B l e).toInt)) ∧
      c.Gives s (.subsN w d a b) w d (fun l e => satUnsigned _ (((A l e).toNat : Int) - (B l e).toNat)) ∧
      c.Gives s (.absdI w d a b) w d (fun l e => BitVec.ofNat _ ((A l e).toInt - (B l e).toInt).natAbs) ∧
      c.Gives s (.absdN w d a b) w d (fun l e => BitVec.ofNat _ (((A l e).toNat : Int) - (B l e).toNat).natAbs) ∧
      c.Gives s (.mul w d a b) w d (fun l e => A l e * B l e) ∧
      c.Gives s (.mulhI w d a b) w d (fun l e => BitVec.ofInt _ (((A l e).toInt * (B l e).toInt).fdiv ((2 ^ w.bits : Nat) : Int))) ∧
      c.Gives s (.mulhN w d a b) w d (fun l e => BitVec.ofNat _ ((A l e).toNat * (B l e).toNat / 2 ^ w.bits)) ∧
      c.Gives s (.mulsI w d a b) w d (fun l e => satSigned _ ((A l e).toInt * (B l e).toInt)) ∧
      c.Gives s (.mulsN w d a b) w d (fun l e => satUnsigned _ ((A l e).toNat * (B l e).toNat)) ∧
      c.Gives s (.minI w d a b) w d (fun l e => if (A l e).toInt ≤ (B l e).toInt then A l e else B l e) ∧
      c.Gives s (.minN w d a b) w d (fun l e => if (A l e).toNat ≤ (B l e).toNat then A l e else B l e) ∧
      c.Gives s (.maxI w d a b) w d (fun l e => if (A l e).toInt ≤ (B l e).toInt then B l e else A l e) ∧
      c.Gives s (.maxN w d a b) w d (fun l e => if (A l e).toNat ≤ (B l e).toNat then B l e else A l e) ∧
      c.Gives s (.divI w d a b) w d (fun l e =>
        if B l e = 0 then BitVec.ofInt _ (-1) else BitVec.ofInt _ ((A l e).toInt.tdiv (B l e).toInt)) ∧
      c.Gives s (.divN w d a b) w d (fun l e => if B l e = 0 then BitVec.allOnes _ else A l e / B l e) ∧
      c.Gives s (.remI w d a b) w d (fun l e =>
        if B l e = 0 then A l e
        else BitVec.ofInt _ ((A l e).toInt - (B l e).toInt * ((A l e).toInt.tdiv (B l e).toInt))) ∧
      c.Gives s (.remN w d a b) w d (fun l e => if B l e = 0 then A l e else A l e % B l e)) ∧
    (c.Ok [d.src, a, b, c.fourth d] → c.Gives s (.mad w d a b) w d (fun l e => A l e * B l e + C l e)) ∧
    (c.Ok [d.src, a] →
      c.Gives s (.absI w d a) w d (fun l e => BitVec.ofNat _ (A l e).toInt.natAbs) ∧
      c.Gives s (.abss w d a) w d (fun l e => satSigned _ (A l e).toInt.natAbs) ∧
      c.Gives s (.neg w d a) w d (fun l e => - A l e) ∧
      c.Gives s (.negs w d a) w d (fun l e => satSigned _ (-(A l e).toInt)))

/-- Every logic, shift, rotate, immediate-shift, count, reverse and bit-field word completes, for every width and every operand inside the allotment, with each enabled sub-element at the value of its row in R166, R167 or R168: a shift by the width or more gives 0 or the sign, a rotate takes its count modulo the width, clz and ctz of zero give the width, and a field never passes the top bit. -/
def Obligations.IntegerLogicShiftAndBitWords : Prop :=
  ∀ (s : State) (c : Ctx) (w : Width) (d : Dst) (a b : Src) (i : BitVec 8), ctx? s = some c →
    let A := c.bv w a
    let B := c.bv w b
    let C := c.bv w (c.fourth d)
    let D := c.bv w d.src
    (c.Ok [d.src, a, b] →
      c.Gives s (.and w d a b) w d (fun l e => A l e &&& B l e) ∧
      c.Gives s (.or w d a b) w d (fun l e => A l e ||| B l e) ∧
      c.Gives s (.xor w d a b) w d (fun l e => A l e ^^^ B l e) ∧
      c.Gives s (.andn w d a b) w d (fun l e => A l e &&& ~~~(B l e)) ∧
      c.Gives s (.orn w d a b) w d (fun l e => A l e ||| ~~~(B l e)) ∧
      c.Gives s (.xnor w d a b) w d (fun l e => ~~~(A l e ^^^ B l e)) ∧
      c.Gives s (.shl w d a b) w d (fun l e => A l e <<< (B l e).toNat) ∧
      c.Gives s (.shrN w d a b) w d (fun l e => A l e >>> (B l e).toNat) ∧
      c.Gives s (.shrI w d a b) w d (fun l e => (A l e).sshiftRight (B l e).toNat) ∧
      c.Gives s (.rol w d a b) w d (fun l e => (A l e).rotateLeft (B l e).toNat) ∧
      c.Gives s (.ror w d a b) w d (fun l e => (A l e).rotateRight (B l e).toNat) ∧
      c.Gives s (.bfxN w d a b) w d (fun l e =>
        ((A l e).extractLsb' (fieldAt w (B l e)).1 (fieldAt w (B l e)).2).zeroExtend _) ∧
      c.Gives s (.bfxI w d a b) w d (fun l e =>
        ((A l e).extractLsb' (fieldAt w (B l e)).1 (fieldAt w (B l e)).2).signExtend _) ∧
      c.Gives s (.bfi w d a b) w d (fun l e =>
        let m : BitVec w.bits := BitVec.ofNat _ (2 ^ (fieldAt w (B l e)).2 - 1)
        (D l e &&& ~~~(m <<< (fieldAt w (B l e)).1)) ||| ((A l e &&& m) <<< (fieldAt w (B l e)).1))) ∧
    (c.Ok [d.src, a, b, c.fourth d] →
      c.Gives s (.bsel w d a b) w d (fun l e => (A l e &&& C l e) ||| (B l e &&& ~~~(C l e)))) ∧
    (c.Ok [d.src, a] →
      c.Gives s (.not w d a) w d (fun l e => ~~~(A l e)) ∧
      c.Gives s (.popc w d a) w d (fun l e => BitVec.ofNat _ ((List.range w.bits).countP (fun n => (A l e).getLsbD n))) ∧
      c.Gives s (.clz w d a) w d (fun l e =>
        BitVec.ofNat _ (((List.range w.bits).takeWhile (fun n => !(A l e).getMsbD n)).length)) ∧
      c.Gives s (.ctz w d a) w d (fun l e =>
        BitVec.ofNat _ (((List.range w.bits).takeWhile (fun n => !(A l e).getLsbD n)).length)) ∧
      c.Gives s (.brev w d a) w d (fun l e => (A l e).reverse)) ∧
    (c.Ok [d.src, a] → i.toNat < w.bits →
      c.Gives s (.shli w d a i) w d (fun l e => A l e <<< i.toNat) ∧
      c.Gives s (.shriN w d a i) w d (fun l e => A l e >>> i.toNat) ∧
      c.Gives s (.shriI w d a i) w d (fun l e => (A l e).sshiftRight i.toNat) ∧
      c.Gives s (.rori w d a i) w d (fun l e => (A l e).rotateRight i.toNat))

/-- Every compare word of R169 completes, for every width, every mask and every source inside the allotment, with the mask bits of each enabled sub-element of each active lane at 1 where its relation holds and 0 where it does not. -/
def Obligations.IntegerComparesSetMaskBits : Prop :=
  ∀ (s : State) (c : Ctx) (w : Width) (m : MaskNo) (a b : Src), ctx? s = some c → c.Ok [a, b] →
    let A := c.bv w a
    let B := c.bv w b
    c.Compares s (.ceq w m a b) w m (fun l e => A l e == B l e) ∧
    c.Compares s (.cne w m a b) w m (fun l e => A l e != B l e) ∧
    c.Compares s (.cltI w m a b) w m (fun l e => (A l e).slt (B l e)) ∧
    c.Compares s (.cgeI w m a b) w m (fun l e => (B l e).sle (A l e)) ∧
    c.Compares s (.cltN w m a b) w m (fun l e => (A l e).ult (B l e)) ∧
    c.Compares s (.cgeN w m a b) w m (fun l e => (B l e).ule (A l e)) ∧
    c.Compares s (.ctst w m a b) w m (fun l e => A l e &&& B l e != 0)

/-- sel takes each enabled sub-element from a where the mask in its fn field has the element's bit and from b elsewhere (R170); addi, andi, ori and movi use the immediate sign-extended to the width (R171); lea, leai and mov have one 64-bit element a lane, with the scaled second operand added modulo 2^64 (R172). Each completes for every operand inside the allotment. -/
def Obligations.SelectImmediateAndAddressWords : Prop :=
  ∀ (s : State) (c : Ctx) (w : Width) (m : MaskNo) (d : Dst) (a b : Src) (i : BitVec 8) (k : Fin 4), ctx? s = some c →
    let A := c.bv w a
    let I : BitVec w.bits := i.signExtend w.bits
    (c.Ok [d.src, a, b] →
      c.Gives s (.sel w m d a b) w d (fun l e =>
        if (c.g.mask m).getLsbD (8 * l + w.bytes * e) then A l e else c.bv w b l e) ∧
      c.Gives s (.lea k d a b) .b64 d (fun l e => c.bv .b64 a l e + c.bv .b64 b l e <<< k.val)) ∧
    (c.Ok [d.src, a] →
      c.Gives s (.addi w d a i) w d (fun l e => A l e + I) ∧
      c.Gives s (.andi w d a i) w d (fun l e => A l e &&& I) ∧
      c.Gives s (.ori w d a i) w d (fun l e => A l e ||| I) ∧
      c.Gives s (.leai k d a i) .b64 d (fun l e => c.bv .b64 a l e + (i.signExtend Width.b64.bits) <<< k.val) ∧
      c.Gives s (.mov d a) .b64 d (fun l e => c.bv .b64 a l e)) ∧
    (c.Ok [d.src] → c.Gives s (.movi w d i) w d (fun _ _ => I))

/-- When a word gives element results to a destination d, then in every active lane each enabled sub-element of the named register (a window register under the window base, or the register an index register names) takes its result and each disabled one is zeroed under a zeroing prefix and kept otherwise; z discards, every other register of the lane and its other state stay, an inactive lane stays whole, and so does the rest of the gang. A word's operand fields read as R53 and R54 say. After a compare word of width w on mask m with relation p, every bit of the mask that belongs to an enabled element of an active lane (each bit of the element's bytes) is 1 exactly where the relation holds, and every other bit is as it was. -/
def Obligations.ElementAndMaskWritesOfAWord : Prop :=
  (∀ (c : Ctx) (w : Width) (d : Dst) (f : Nat → Nat → BitVec w.bits) (l : Nat), l < c.g.lanes.length →
    let g := c.writeElems w d (fun l e => (f l e).toNat)
    let x := c.g.lane l
    let y := g.lane l
    g = { c.g with lanes := g.lanes } ∧ g.lanes.length = c.g.lanes.length ∧
    (c.iss.active.getLsbD l = false → y = x) ∧
    (c.iss.active.getLsbD l = true →
      y = { x with regs := y.regs } ∧
      (∀ r, c.g.dstIndex l d ≠ some r → regGet y.regs r = regGet x.regs r) ∧
      (∀ r, c.g.dstIndex l d = some r → ∀ e, e < w.elems →
        subElem w (regGet y.regs r) e =
          if c.en l (w.bytes * e) then (f l e).toNat else if c.zeroing then 0 else subElem w (regGet x.regs r) e)) ∧
    (∀ i : Fin 96, c.read l (.v i) = regGet x.regs (c.g.wb + i.val) ∧ c.g.dstIndex l (.v i) = some (c.g.wb + i.val)) ∧
    (∀ i : Fin 24, c.read l (.k i) = c.g.k.getD i.val 0) ∧ c.read l .z = 0 ∧ c.g.dstIndex l .z = none ∧
    c.read l .lid = BitVec.ofNat 64 l ∧ c.read l .gnid = BitVec.ofNat 64 c.iss.gang ∧
    (∀ n : Fin 4, c.read l (.ix n) = regGet x.regs (x.x.getD n.val 0).toNat ∧
      c.g.dstIndex l (.ix n) = some (x.x.getD n.val 0).toNat)) ∧
  (∀ (c : Ctx) (w : Width) (old : MaskBits) (p : Nat → Nat → Bool) (l b : Nat), l < 32 → b < 8 →
    (c.compared w old p).getLsbD (8 * l + b) =
      if c.iss.active.getLsbD l && c.en l (w.bytes * (b / w.bytes)) then p l (b / w.bytes) else old.getLsbD (8 * l + b))

/-- When a word has completed with its gang in state g, the active lanes stand at the next address with one clause position less for each of its words (at a header when the clause has ended), the other lanes stand where they stood, nothing of the gang but the lanes, the flag counts and the clause instances differs from g, and every other gang of the block, every other core, every memory and every register of the module is as before. Holding a word puts it on the gang's list under a new number, and its lanes wait under that number where they stand, other lanes as they were. Releasing lanes of a held word moves those of them it still holds to the next word, no longer waiting, and takes them from it. Letting a word issue again frees its lanes without moving them. Nothing else of the gang changes but its flag counts and clause instances (which settle as R39 says). -/
def Obligations.WordsGoOnOrAreHeld : Prop :=
  (∀ (s : State) (c : Ctx) (g : Gang), ctx? s = some c →
    ∃ g' : Gang, s.retire g = s.setGang c.iss.core c.iss.gang g' ∧
      g' = { g with lanes := g'.lanes, flags := g'.flags, clauses := g'.clauses } ∧
      (∀ l, l < g.lanes.length → g'.lane l =
        if c.iss.active.getLsbD l then
          { g.lane l with
            pc := c.iss.addr + 4, cpos := (g.lane l).cpos - c.iss.words
            clause := if (g.lane l).cpos ≤ c.iss.words then none else (g.lane l).clause }
        else g.lane l) ∧
      (s.retire g).block? c.iss.core = some { c.blk with gangs := c.blk.gangs.set c.iss.gang g' } ∧
      (s.retire g).gang? c.iss.core c.iss.gang = some g' ∧
      (∀ n, n ≠ c.iss.core → (s.retire g).core n = s.core n) ∧
      s.retire g = { s with cores := (s.retire g).cores }) ∧
  (∀ (g : Gang) (iss : Issue) (act : LaneBits) (kind : HeldKind) (id : Nat),
    (let h := g.hold iss act kind
     h = { g with lanes := h.lanes, held := g.held ++ [⟨g.nextId, iss, act, kind⟩], nextId := g.nextId + 1, flags := h.flags, clauses := h.clauses } ∧
     h.lanes.length = g.lanes.length ∧
     ∀ l, l < g.lanes.length → h.lane l = if act.getLsbD l then { g.lane l with wait := some g.nextId } else g.lane l) ∧
    (∀ w, g.heldOf id = some w →
      let h := g.release id act
      let gone := act &&& w.lanes
      h = { g with lanes := h.lanes, held := h.held, flags := h.flags, clauses := h.clauses } ∧ h.lanes.length = g.lanes.length ∧
      (∀ x ∈ h.held, x.lanes ≠ 0 ∧ (x.id = id → x.lanes &&& gone = 0)) ∧
      (∀ x ∈ g.held, x.id ≠ id → x.lanes ≠ 0 → x ∈ h.held) ∧
      ∀ l, l < g.lanes.length → h.lane l =
        if gone.getLsbD l then
          { (g.lane l).next w.iss.addr w.iss.words with wait := if (g.lane l).wait = some id then none else (g.lane l).wait }
        else g.lane l) ∧
    (let h := g.unhold id act
     h = { g with lanes := h.lanes, held := h.held } ∧
     ∀ l, l < g.lanes.length → h.lane l = if act.getLsbD l ∧ (g.lane l).wait = some id then { g.lane l with wait := none } else g.lane l))

/-- For every register word (the arithmetic, logic, shift, bit, select, immediate, address, floating-point, shuffle, vote, reduction, mask-read, query, amax-read, status-read and dequantising words that regWord lists), with its operands inside the allotment: when it answers a next state, only its gang differs; there, inactive lanes are as before, an active lane differs in its place and in the register its destination names (none for z), and every other register, index register, mask, special register, scratchpad byte and byte of package, host and peer memory is unchanged. Flag counts and clause instances settle as R39 says. -/
def Obligations.RegisterWordsFrame : Prop :=
  ∀ (i : Instr) (d : Dst) (rs : Ctx → List Src), regWord i = some (d, rs) → i.wf = true →
    ∀ (s t : State) (c : Ctx), ctx? s = some c → c.Ok (d.src :: rs c) → exec i s = .next t →
      c.RegFrame s t (fun l => c.g.dstIndex l d) ∧ SameBytes s t

/-- The first window operand of a word, in operand order, whose index under the window base is not below the allotment raises a register-bounds trap that names the lowest active lane and the index (R51); with every window operand inside, an indirect operand whose index register is past the allotment in an active lane does so, the lowest such lane named, with bit 16 of TINFO set (R54); and a slot number not below the block's slots does so with bit 17 set (R44). A word refused so answers the state in which the trap is taken, shown for every element-wise word of two sources through add, sub and mov. Of several operands that fail alike, which one TINFO names, the first in the order destination, a, b, c, is the model's reading (log entry 12, DEDUCED). -/
def Obligations.OperandsOutsideTheAllotmentTrap : Prop :=
  ∀ (s : State) (c : Ctx), ctx? s = some c →
    (∀ (before after : List Src) (i : Fin 96) (slot : Option Nat),
      (∀ j : Fin 96, Src.v j ∈ before → c.g.wb + j.val < c.blk.cfg.allot) → c.blk.cfg.allot ≤ c.g.wb + i.val →
      c.check (before ++ .v i :: after) slot =
        .error { cause := 0x03, lane := lowLane c.iss.active, info := c.g.wb + i.val }) ∧
    (∀ (before after : List Src) (n : Fin 4) (l : Nat) (slot : Option Nat),
      let idx := fun (m : Fin 4) (l : Nat) => ((c.g.lane l).x.getD m.val 0).toNat
      (∀ j : Fin 96, Src.v j ∈ before ++ after → c.g.wb + j.val < c.blk.cfg.allot) →
      l ∈ c.lanes → c.blk.cfg.allot ≤ idx n l →
      (∀ m : Fin 4, (Src.ix m ∈ before ++ after ∨ m = n) → ∀ l' ∈ c.lanes, l' < l → idx m l' < c.blk.cfg.allot) →
      (∀ m : Fin 4, Src.ix m ∈ before → idx m l < c.blk.cfg.allot) →
      c.check (before ++ .ix n :: after) slot = .error { cause := 0x03, lane := l, info := idx n l + 2 ^ 16 }) ∧
    (∀ (rs : List Src) (n : Nat), c.Ok rs →
      c.check rs (some n) =
        if n < c.blk.cfg.slots then .ok () else .error { cause := 0x03, lane := lowLane c.iss.active, info := n + 2 ^ 17 }) ∧
    (∀ (w : Width) (d : Dst) (a b : Src) (t : Trap), c.check [d.src, a, b] = .error t →
      Traps s (.add w d a b) t ∧ Traps s (.sub w d a b) t) ∧
    (∀ (d : Dst) (a : Src) (t : Trap), c.check [d.src, a] = .error t → Traps s (.mov d a) t)

/-- Every floating-point word of R173 completes for f32 and bf16, for every operand inside the allotment and in the mode in force (RNE or the prefix's): add, subtract, multiply and the fused words give the exact value of their row, rounded once; min and max are the IEEE 754 operations; abs, neg and csgn act on the sign bit; rint gives an integral value; the compares write their relation into the mask. That csgn gives the canonical NaN where either operand is a NaN is the model's reading (log entry 22, DEDUCED). No value of an operand makes one trap (R183). -/
def Obligations.FloatingPointWordsRoundOnce : Prop :=
  ∀ (s : State) (c : Ctx) (t : FFmt) (d : Dst) (m : MaskNo) (a b : Src), ctx? s = some c →
    let w := floatWidth t
    let f := floatFmt t
    let A := fun l e => f.val (c.elem w a l e)
    let B := fun l e => f.val (c.elem w b l e)
    let C := fun l e => f.val (c.elem w (c.fourth d) l e)
    let out := fun (v : Nat → Nat → FVal) l e => BitVec.ofNat w.bits (f.ofVal c.rmode false (v l e))
    (c.Ok [d.src, a, b] →
      c.Gives s (.addF t d a b) w d (out fun l e => (A l e).add c.rmode (B l e)) ∧
      c.Gives s (.subF t d a b) w d (out fun l e => (A l e).add c.rmode (B l e).negate) ∧
      c.Gives s (.mulF t d a b) w d (out fun l e => (A l e).mul (B l e)) ∧
      c.Gives s (.minF t d a b) w d (fun l e => BitVec.ofNat _ (fMin f (c.elem w a l e) (c.elem w b l e))) ∧
      c.Gives s (.maxF t d a b) w d (fun l e => BitVec.ofNat _ (fMax f (c.elem w a l e) (c.elem w b l e))) ∧
      c.Gives s (.csgn t d a b) w d (fun l e =>
        if (A l e).isNan || (B l e).isNan then BitVec.ofNat _ f.nan
        else BitVec.ofNat _ (f.signed (decide (c.elem w b l e / 2 ^ (f.width - 1) % 2 = 1)) (f.mag (c.elem w a l e))))) ∧
    (c.Ok [d.src, a, b, c.fourth d] →
      c.Gives s (.fmaF t d a b) w d (out fun l e => ((A l e).mul (B l e)).add c.rmode (C l e)) ∧
      c.Gives s (.fmsF t d a b) w d (out fun l e => ((A l e).mul (B l e)).add c.rmode (C l e).negate) ∧
      c.Gives s (.fnmaF t d a b) w d (out fun l e => (C l e).add c.rmode ((A l e).mul (B l e)).negate)) ∧
    (c.Ok [d.src, a] →
      c.Gives s (.absF t d a) w d (fun l e => BitVec.ofNat _ (if (A l e).isNan then f.nan else f.mag (c.elem w a l e))) ∧
      c.Gives s (.negF t d a) w d (fun l e =>
        if (A l e).isNan then BitVec.ofNat _ f.nan else c.bv w a l e ^^^ BitVec.ofNat _ (2 ^ (f.width - 1))) ∧
      c.Gives s (.rint t d a) w d (fun l e => BitVec.ofNat _ (fRint f c.rmode (c.elem w a l e)))) ∧
    (c.Ok [a, b] →
      c.Compares s (.ceqF t m a b) w m (fun l e => fCeq f (c.elem w a l e) (c.elem w b l e)) ∧
      c.Compares s (.cneF t m a b) w m (fun l e => !fCeq f (c.elem w a l e) (c.elem w b l e)) ∧
      c.Compares s (.cltF t m a b) w m (fun l e => (A l e).lt (B l e)) ∧
      c.Compares s (.cleF t m a b) w m (fun l e => (A l e).lt (B l e) || fCeq f (c.elem w a l e) (c.elem w b l e)) ∧
      c.Compares s (.cun t m a b) w m (fun l e => (A l e).isNan || (B l e).isNan))

/-- In f32 and bf16, in every rounding mode: add, subtract, multiply, the fused words, min, max, rint, abs, neg and csgn of a NaN give the format's canonical NaN whatever its sign and payload; x - x of a finite x is +0, but -0 in the mode RD; min of +0 and -0 is -0 and max is +0, in either order; -0 equals +0 and a NaN equals, and is below, nothing. Two finite values are equal, and one below the other, as the numbers they stand for are, and an infinity as it should; min gives the operand that is below, max the other. rint leaves an infinity, and gives of a finite x an integer with the sign of x: in RZ the nearest not further from zero, in RD and RU the nearest not above and not below, in RNE the nearest, the even one of two. In every format, f32, bf16, e4m3 and e5m2, a bit pattern that is no NaN is what its value rounds to in every mode, saturating or not but for an infinity (R79 to R83), and widening bf16 to f32 appends 16 zero bits. -/
def Obligations.FloatingPointFollowsTheConventions : Prop :=
  (∀ (t : FFmt) (rm : RMode) (x y z : Nat),
    let f := floatFmt t
    ((f.val x).isNan = true ∨ (f.val y).isNan = true →
      fAdd f rm x y = f.nan ∧ fSub f rm x y = f.nan ∧ fMul f rm x y = f.nan ∧ fMin f x y = f.nan ∧ fMax f x y = f.nan ∧
      fFma f rm x y z = f.nan ∧ fFms f rm x y z = f.nan ∧ fFnma f rm x y z = f.nan ∧ fFma f rm z x y = f.nan ∧
      fFms f rm z x y = f.nan ∧ fFnma f rm z x y = f.nan ∧
      fCeq f x y = false ∧ fClt f x y = false ∧ fCle f x y = false ∧ fCun f x y = true) ∧
    ((f.val x).isNan = true → fAbs f x = f.nan ∧ fNeg f x = f.nan ∧ fCsgn f x y = f.nan ∧ fRint f rm x = f.nan) ∧
    (∀ n m e, f.val x = .fin n m e → fSub f rm x x = if rm = .rd then 2 ^ (f.width - 1) else 0) ∧
    (let mz := 2 ^ (f.width - 1)
     fMin f 0 mz = mz ∧ fMin f mz 0 = mz ∧ fMax f 0 mz = 0 ∧ fMax f mz 0 = 0 ∧ fCeq f 0 mz = true ∧ fClt f mz 0 = false) ∧
    -- finite values in units of the smallest subnormal; `one` of them make 1
    (let num := fun (n : Bool) (m : Nat) (e : Int) => (if n then -(m : Int) else m) * 2 ^ (e - f.qmin).toNat
     let one : Int := 2 ^ (-f.qmin).toNat
     (∀ n m e k p g, f.val x = .fin n m e → f.val y = .fin k p g →
       fCeq f x y = decide (num n m e = num k p g) ∧ fClt f x y = decide (num n m e < num k p g)) ∧
     (∀ n, f.val x = .inf n → (fCeq f x y = true ↔ f.val y = .inf n) ∧
       (fClt f x y = true ↔ n = true ∧ f.val y ≠ .inf true ∧ f.val y ≠ .nan) ∧ (fClt f y x = true ↔ n = false ∧ f.val y ≠ .inf false ∧ f.val y ≠ .nan)) ∧
     ((f.val x).isNan = false → (f.val y).isNan = false →
       (fClt f x y = true → fMin f x y = x ∧ fMax f x y = y ∧ fMin f y x = x ∧ fMax f y x = y) ∧
       (fMin f x y = x ∨ fMin f x y = y) ∧ (fMax f x y = x ∨ fMax f x y = y)) ∧
     (∀ n, f.val x = .inf n → fRint f rm x = x) ∧
     (∀ n m e, x < 2 ^ f.width → f.val x = .fin n m e → ∃ m' e', ∃ z : Int, f.val (fRint f rm x) = .fin n m' e' ∧ num n m' e' = z * one ∧
       let v := num n m e
       match rm with
       | .rz => (z.natAbs : Int) * one ≤ (v.natAbs : Int) ∧ (v.natAbs : Int) < ((z.natAbs : Int) + 1) * one
       | .rd => z * one ≤ v ∧ v < (z + 1) * one
       | .ru => (z - 1) * one < v ∧ v ≤ z * one
       | .rne => 2 * ((v - z * one).natAbs : Int) ≤ one ∧ (2 * ((v - z * one).natAbs : Int) = one → z % 2 = 0)))) ∧
  (∀ (f : FloatFmt) (rm : RMode) (sat : Bool) (x : Nat), f ∈ [fmtF32, fmtBf16, fmtE4m3, fmtE5m2] → x < 2 ^ f.width →
    (f.val x).isNan = false → (sat = false ∨ f.inf ≠ some (f.mag x)) → f.ofVal rm sat (f.val x) = x) ∧
  (∀ (rm : RMode) (x : Nat), x < 2 ^ 16 → (fmtBf16.val x).isNan = false →
    convert (.flt fmtBf16) (.flt fmtF32) rm true x = x * 2 ^ 16)

/-- Each special-function word completes issue for every operand inside the allotment by adding to its gang one outstanding operation of class B that holds its results (each enabled f32 sub-element the function of R88 in the mode in force, a disabled one zeroed or left out), leaving every register as it was (R40, R156); SPECIAL_FUNCTION_COMPLETE of such an operation answers the state with exactly the bits of those results written, and the operation gone, after which the flags settle. The cases of R88 hold for every input and mode: every NaN gives the canonical NaN; the zeros, the infinities, negative values, log2 of 1, exp2 of every integer from -149 to 127 and of -150, sin2pi where 2x is an integer and cos2pi where x - 0.25 is a multiple of 0.5 give what its table lists; and a few exact values between. -/
def Obligations.SpecialFunctionsAreFlagBOperations : Prop :=
  (∀ (s : State) (c : Ctx) (d : Dst) (a : Src), ctx? s = some c → c.Ok [d.src, a] →
    let issued := fun (f : SpecialFn) => c.g.addOp
      { id := c.g.nextId, cls := .b, kind := .special, clauses := c.g.clausesOf c.iss.active, lanes := c.iss.active
        regs := c.lanes.filterMap (fun l => (c.g.dstIndex l d).map (fun r =>
          { lane := l, reg := r
            bits := (if c.en l 0 || c.zeroing then 0xFFFFFFFF else 0) ||| (if c.en l 4 || c.zeroing then 0xFFFFFFFF <<< 32 else 0)
            value := c.elemResult .b32 d (fun l e => special f c.rmode (c.elem .b32 a l e)) l })) }
    GoesOn s (.rcp d a) (issued .rcp) ∧ GoesOn s (.rsq d a) (issued .rsq) ∧ GoesOn s (.sqrt d a) (issued .sqrt) ∧
    GoesOn s (.exp2 d a) (issued .exp2) ∧ GoesOn s (.log2 d a) (issued .log2) ∧ GoesOn s (.sin2pi d a) (issued .sin2pi) ∧
    GoesOn s (.cos2pi d a) (issued .cos2pi) ∧ GoesOn s (.tanh d a) (issued .tanh) ∧ GoesOn s (.sigm d a) (issued .sigm)) ∧
  (∀ (s : State) (n gi id : Nat) (b : Block) (g : Gang) (o : Op), s.block? n = some b → b.gangs[gi]? = some g →
    g.ops.find? (·.id == id) = some o → o.kind = .special → o.masks = [] → o.todo = [] → o.group = none →
    ∃ t g', exec (.specialFunctionComplete n gi id) s = .next t ∧ t.gang? n gi = some g' ∧
      (∀ l r, regGet (g'.lane l).regs r = regGet ((g.writeRegs o.regs).lane l).regs r) ∧
      (∀ l r bits v, o.regs = [⟨l, r, bits, v⟩] → l < g.lanes.length →
        regGet (g'.lane l).regs r = (regGet (g.lane l).regs r &&& ~~~bits) ||| (v &&& bits)) ∧
      g'.ops = g.ops.filter (fun x => x.id != id)) ∧
  (∀ (rm : RMode) (x : Nat), x < 2 ^ 32 →
    let sign := if 2 ^ 31 ≤ x then 2 ^ 31 else 0
    let inf := 0x7F800000
    let nan := 0x7FC00000
    let is := fun (f : SpecialFn) (r : Nat) => special f rm x = r
    -- x is `k` quarters, exactly
    let quarters := fun (k : Int) => ∃ n m e, fmtF32.val x = .fin n m e ∧
      4 * (if n then -(m : Int) else m) * 2 ^ (e + 149).toNat = k * 2 ^ 149
    ((fmtF32.val x).isNan = true → ∀ f, is f nan) ∧
    (x % 2 ^ 31 = 0 → is .rcp (inf + sign) ∧ is .rsq (inf + sign) ∧ is .sqrt x ∧ is .exp2 0x3F800000 ∧ is .log2 (inf + 2 ^ 31) ∧
      is .sin2pi x ∧ is .cos2pi 0x3F800000 ∧ is .tanh x ∧ is .sigm 0x3F000000) ∧
    (x % 2 ^ 31 = inf → is .rcp sign ∧ is .sin2pi nan ∧ is .cos2pi nan ∧ is .tanh (0x3F800000 + sign)) ∧
    (x = inf → is .rsq 0 ∧ is .sqrt inf ∧ is .exp2 inf ∧ is .log2 inf ∧ is .sigm 0x3F800000) ∧
    (x = inf + 2 ^ 31 → is .exp2 0 ∧ is .sigm 0) ∧
    (2 ^ 31 < x → is .rsq nan ∧ is .sqrt nan ∧ is .log2 nan) ∧
    (x = 0x3F800000 → is .log2 0) ∧
    (∀ k : Int, quarters (4 * k) → -149 ≤ k → k ≤ 127 →
      is .exp2 (if -126 ≤ k then (k + 127).toNat * 2 ^ 23 else 2 ^ (k + 149).toNat)) ∧
    (quarters (4 * (-150)) → is .exp2 (if rm = .ru then 1 else 0)) ∧
    (∀ k : Int, quarters (2 * k) → is .sin2pi sign) ∧ (∀ k : Int, quarters (2 * k + 1) → is .cos2pi 0)) ∧
  (∀ rm : RMode, special .rcp rm 0x40000000 = 0x3F000000 ∧ special .rsq rm 0x40800000 = 0x3F000000 ∧
    special .sqrt rm 0x40800000 = 0x40000000 ∧ special .log2 rm 0x41000000 = 0x40400000 ∧ special .sin2pi rm 0x3E800000 = 0x3F800000)

/-- cvt, cvto and cvtt complete for every well-formed pair of formats and operand inside the allotment: in each active lane each destination sub-element of the part takes the converted source sub-element where enabled (narrowing: sub-element e of a goes to p n + e; otherwise p n + e to e), one disabled is zeroed or stays, and those outside the part stay, as does every other register (R176); a conversion to e4m3 or e5m2 takes every enabled element into the amax register (R87). amxr gives each active enabled lane the amax magnitude with the NaN bit in bit 32; amxrc does so and then clears both, even with every lane disabled; amxc clears both; amxw sets both from the lowest active enabled lane and leaves them when there is none (R178). -/
def Obligations.ConversionsAndAmaxWords : Prop :=
  ∀ (s : State) (c : Ctx) (p : Fin 4) (d : Dst) (a : Src) (t f : CvtFmt), ctx? s = some c →
    let wf := cvtWidth f
    let wt := cvtWidth t
    let amax := fun (x : Word × Bool) (g : Gang) => ({ g with amax := x.1.setWidth 31, amaxNan := x.2 } : Gang)
    let seen : Gang := if t = .e4m3 ∨ t = .e5m2 then
        c.g.amaxAll ((c.cvtElems wf wt p.val).map (fun x => (numFmt f).val (c.elem wf a x.1 x.2.2))) else c.g
    let conv := fun (k : Nat → Nat) => seen.writeDst c.iss.active d (c.cvtResult wf wt p.val d k a)
    let word : Word := c.g.amax.setWidth 64 ||| (if c.g.amaxNan then 1#64 <<< 32 else 0)
    let read := c.writeLanes c.g d (fun _ => word)
    (c.Ok [d.src, a] →
      GoesOn s (.cvt p d a t f) (conv (convert (numFmt f) (numFmt t) c.rmode true)) ∧
      GoesOn s (.cvto p d a t f) (conv (convert (numFmt f) (numFmt t) c.rmode false)) ∧
      ((Instr.cvtt p d a t f).wf = true →
        GoesOn s (.cvtt p d a t f) (conv (fun x => match numFmt f with
          | .int w sg => (BitVec.ofInt wt.bits (readInt w sg x)).toNat
          | .flt _ => 0)))) ∧
    (∀ (i : Instr) (k : Nat → Nat), i = .cvt p d a t f ∨ i = .cvto p d a t f ∨ i = .cvtt p d a t f → i.wf = true →
      conv k = { seen with lanes := (conv k).lanes } ∧ ∀ l, l < c.g.lanes.length →
        let x := c.g.lane l
        let y := (conv k).lane l
        -- the sub-element of the source that goes to destination sub-element `j`, if `j` is of the part
        let from_ : Nat → Option Nat := fun j => if wt.bits < wf.bits then (if j / wf.elems = p.val then some (j % wf.elems) else none)
          else some (p.val * wt.elems + j)
        (c.iss.active.getLsbD l = false → y = x) ∧
        (c.iss.active.getLsbD l = true → y = { x with regs := y.regs } ∧ ∀ r,
          (c.g.dstIndex l d ≠ some r → regGet y.regs r = regGet x.regs r) ∧
          (c.g.dstIndex l d = some r → ∀ j, j < wt.elems → subElem wt (regGet y.regs r) j = match from_ j with
            | none => subElem wt (regGet x.regs r) j
            | some e => if c.en l (wt.bytes * j) then k (c.elem wf a l e) % 2 ^ wt.bits else if c.zeroing then 0 else subElem wt (regGet x.regs r) j))) ∧
    (c.Ok [d.src] →
      GoesOn s (.amxr d) read ∧ GoesOn s (.amxrc d) (amax (0, false) read)) ∧
    GoesOn s .amxc (amax (0, false) c.g) ∧
    (c.Ok [a] → GoesOn s (.amxw a) (match c.lanes.find? (fun l => c.en l 0) with
      | none => c.g
      | some l => amax (c.read l a, (c.read l a).getLsbD 32) c.g))

/-- qbx8, qbx8.h, qbx16 and qbx16.h complete for every operand inside the allotment: the f32 sub-element 0 (or 1) of the active enabled lanes is quantised by R85 with b = w - 1 in the mode in force, each such lane takes its mantissa in its low bits, the shared exponent in bits 39 to 32 and the saturation bit in bit 48, and every input goes into the amax register (R87); dqbx8 and dqbx16 give mantissa times two to the exponent, rounded to f32, above it zero. The quantiser's results lie in range: for every group and mode, each mantissa between -(2^b - 1) (0 when unsigned) and 2^b - 1, one for each value, and the exponent between -128 and 127; an empty or all-zero group has exponent -128. -/
def Obligations.BlockQuantisingWords : Prop :=
  (∀ (s : State) (c : Ctx) (d : Dst) (a : Src), ctx? s = some c → c.Ok [d.src, a] →
    let lanes := c.lanes.filter (fun l => c.en l 0)
    let quant := fun (w e : Nat) =>
      let vals := lanes.map (fun l => fmtF32.val (c.elem .b32 a l e))
      let q := quantise (w - 1) true c.rmode vals
      c.writeLanes (c.g.amaxAll vals) d (fun l =>
        BitVec.ofNat 64 ((BitVec.ofInt w (((lanes.zip q.mant).lookup l).getD 0)).toNat + (BitVec.ofInt 8 q.exp).toNat * 2 ^ 32 +
          q.sat.toNat * 2 ^ 48))
    let dequant := fun (w : Nat) => c.writeLanes c.g d (fun l =>
      let m := ((c.read l a).setWidth w).toInt
      BitVec.ofNat 64 (fmtF32.round c.rmode false (decide (m < 0)) m.natAbs (((c.read l a) >>> 32).setWidth 8).toInt))
    GoesOn s (.qbx8 d a) (quant 8 0) ∧ GoesOn s (.qbx8H d a) (quant 8 1) ∧
    GoesOn s (.qbx16 d a) (quant 16 0) ∧ GoesOn s (.qbx16H d a) (quant 16 1) ∧
    GoesOn s (.dqbx8 d a) (dequant 8) ∧ GoesOn s (.dqbx16 d a) (dequant 16)) ∧
  (∀ (b : Nat) (sgn : Bool) (rm : RMode) (vs : List FVal), 1 ≤ b →
    let q := quantise b sgn rm vs
    q.mant.length = vs.length ∧ -128 ≤ q.exp ∧ q.exp ≤ 127 ∧
    (∀ m ∈ q.mant, (if sgn then -((2 ^ b - 1 : Nat) : Int) else 0) ≤ m ∧ m ≤ ((2 ^ b - 1 : Nat) : Int)) ∧
    ((∀ v ∈ vs, v.isZero = true ∨ v.isNan = true) → q.exp = -128))

/-- For every operand inside the allotment: a shuffle gives each enabled element the element of the gang its row names, by linear number, whatever the source lane's activity, and its own element where shup or shdn would leave the gang; ballot gathers the condition bits of the active lanes, nact counts them and lfirst names the lowest; vany, vall and veq set all eight mask bits of every active lane from the outcome, leaving the others; a reduction gives every sub-element of every active lane the root of the fixed tree over the leaves, an inactive lane giving the identity. The integer sums are the sums of the active lanes' elements, modulo 2^32 or 2^64, whatever the tree. -/
def Obligations.ShufflesVotesAndReductions : Prop :=
  ∀ (s : State) (c : Ctx) (w : Width) (d : Dst) (m k : MaskNo) (a b : Src) (i : BitVec 8), ctx? s = some c →
    let at_ := fun (n : Nat) => c.bv w a (n / w.elems) (n % w.elems)
    let num := fun (l e : Nat) => l * w.elems + e
    let cond := fun (l : Nat) => (c.g.mask k).getLsbD (8 * l)
    let vote := fun (p : Bool) => c.g.setMask m (if p then c.g.mask m ||| lanesMask c.iss.active else c.g.mask m &&& ~~~lanesMask c.iss.active)
    let whole := fun (v : Nat) (x : Width) => c.g.writeDst c.iss.active d (fun _ => BitVec.ofNat 64 (packElems x (List.replicate x.elems v)))
    let tree := fun (x : Width) (ident : Nat) (node : Nat → Nat → Nat) =>
      whole (treeOf node 6 ((List.range (32 * x.elems)).map (fun n =>
        if c.iss.active.getLsbD (n / x.elems) then c.elem x a (n / x.elems) (n % x.elems) else ident))) x
    let sum := fun (x : Width) => whole (((c.elements x).map (fun p => c.elem x a p.1 p.2)).sum % 2 ^ x.bits) x
    (c.Ok [d.src, a, b] → c.Gives s (.shfl w d a b) w d (fun l e => at_ (c.elem w b l e % (32 * w.elems)))) ∧
    (c.Ok [d.src, a] →
      (i.toNat < 32 * w.elems → c.Gives s (.shfx w d a i) w d (fun l e => at_ (num l e ^^^ i.toNat))) ∧
      c.Gives s (.shup w d a i) w d (fun l e => if num l e < i.toNat then c.bv w a l e else at_ (num l e - i.toNat)) ∧
      c.Gives s (.shdn w d a i) w d (fun l e => if 32 * w.elems ≤ num l e + i.toNat then c.bv w a l e else at_ (num l e + i.toNat)) ∧
      GoesOn s (.gaddF32 d a) (tree .b32 0x80000000 (fAdd fmtF32 .rne)) ∧
      GoesOn s (.gmaxF32 d a) (tree .b32 0xFF800000 (fMax fmtF32)) ∧
      GoesOn s (.gminF32 d a) (tree .b32 0x7F800000 (fMin fmtF32)) ∧
      GoesOn s (.gamaxF32 d a) (tree .b32 0 (fun x y =>
        if (fmtF32.val x).isNan || (fmtF32.val y).isNan then 0x7FC00000 else max (x % 2 ^ 31) (y % 2 ^ 31))) ∧
      GoesOn s (.gaddI32 d a) (sum .b32) ∧ GoesOn s (.gaddI64 d a) (sum .b64)) ∧
    (c.Ok [d.src] →
      c.GivesLane s (.ballot d k) d (fun _ => BitVec.ofNat 64 ((c.lanes.filter cond).map (fun l => 2 ^ l)).sum) ∧
      c.GivesLane s (.nact d) d (fun _ => BitVec.ofNat 64 c.lanes.length) ∧
      c.GivesLane s (.lfirst d) d (fun _ => BitVec.ofNat 64 (c.lanes.headD 0))) ∧
    GoesOn s (.vany m k) (vote (c.lanes.any cond)) ∧ GoesOn s (.vall m k) (vote (c.lanes.all cond)) ∧
    (c.Ok [a] → GoesOn s (.veq m a) (vote (c.lanes.all (fun l => c.read l a == c.read (c.lanes.headD 0) a))))

/-- mand, mor, mxor, mandn, mnot, mmov, mone and mzero always complete, with bit 8l + b of the destination mask the function of the source masks' bits for every active lane l, and as it was for every other; mlet does so with the low byte of each active lane's source, and mget gives each active lane its eight bits of the mask, zero-extended. The gang but for that mask, or that register, stays. -/
def Obligations.MaskWordsChangeTheActiveLanesBits : Prop :=
  ∀ (s : State) (c : Ctx) (d a b : MaskNo) (r : Src) (x : Dst), ctx? s = some c → c.g.m.length = 8 →
    let does := fun (i : Instr) (f : Nat → Bool) => ∃ v : MaskBits, GoesOn s i { c.g with m := c.g.m.set d.val v } ∧
      ∀ l e, l < 32 → e < 8 → v.getLsbD (8 * l + e) = if c.iss.active.getLsbD l then f (8 * l + e) else (c.g.mask d).getLsbD (8 * l + e)
    let A := (c.g.mask a).getLsbD
    let B := (c.g.mask b).getLsbD
    does (.mand d a b) (fun n => A n && B n) ∧ does (.mor d a b) (fun n => A n || B n) ∧
    does (.mxor d a b) (fun n => A n ^^ B n) ∧ does (.mandn d a b) (fun n => A n && !B n) ∧
    does (.mnot d a) (fun n => !A n) ∧ does (.mmov d a) A ∧ does (.mone d) (fun _ => true) ∧ does (.mzero d) (fun _ => false) ∧
    (c.Ok [r] → does (.mlet d r) (fun n => (c.read (n / 8) r).getLsbD (n % 8))) ∧
    (c.Ok [x.src] → c.GivesLane s (.mget x a) x (fun l => ((c.g.mask a).extractLsb' (8 * l) 8).setWidth 64))

/-- qry completes for every assigned selector with its value in every active lane, and traps as an illegal encoding for one that is not; qry.x takes the low byte of each lane's register as the selector and gives all ones for one that is not assigned (R19, R20). The selectors read: lane and gang numbers, the gang count, the block index and grid, the ensemble's index, size and rank, the allotment, slots and scratchpad sizes, the progress class, the deterministic flag, the window base; the module's number and domain size, the clock of the core's tower, the part's package memory and L2, the tower's retired channel, the same in a deterministic launch; and the placement-class selectors give the canonical numbers in a deterministic launch and the real core, quad, tower, part and cycle count otherwise (R21, R22). -/
def Obligations.QueriesGiveTheSelectedValue : Prop :=
  (∀ (s : State) (c : Ctx) (d : Dst) (a : Src) (x : BitVec 8), ctx? s = some c →
    let value := fun (n l : Nat) => (c.place s).value n l
    (c.Ok [d.src] → x.toNat ≤ 0x1C → c.GivesLane s (.qry d x) d (fun l => BitVec.ofNat 64 ((value x.toNat l).getD 0))) ∧
    (0x1C < x.toNat → Traps s (.qry d x) { cause := 0x01, lane := lowLane c.iss.active }) ∧
    (c.Ok [d.src, a] → c.GivesLane s (.qryX d a) d (fun l =>
      if ((c.read l a).toNat % 256) ≤ 0x1C then BitVec.ofNat 64 ((value ((c.read l a).toNat % 256) l).getD 0) else BitVec.allOnes 64))) ∧
  (∀ (p : Place) (l : Nat),
    let f := p.blk.cfg
    let e := f.index / f.ens
    let r := f.index % f.ens
    p.value 0x00 l = some l ∧ p.value 0x01 l = some p.gnid ∧ p.value 0x02 l = some f.nGangs ∧ p.value 0x03 l = some (p.gnid % 4) ∧
    p.value 0x04 l = some f.index ∧ p.value 0x05 l = some f.grid ∧ p.value 0x06 l = some e ∧ p.value 0x07 l = some f.ens ∧
    p.value 0x08 l = some r ∧ p.value 0x10 l = some f.allot ∧ p.value 0x11 l = some f.slots ∧ p.value 0x12 l = some (1024 * f.dsp) ∧
    p.value 0x13 l = some (256 * f.rsp) ∧ p.value 0x1C l = some p.g.wb ∧
    (let t := p.st.tower (p.core / 32)
     let towers := match p.st.part with | .p88 => 8 | .p48 => 4 | .p28 => 2
     p.value 0x0E l = some p.st.moduleNum.toNat ∧ p.value 0x0F l = some p.st.domainSize ∧ p.value 0x14 l = some (if f.sliced then 1 else 0) ∧
     p.value 0x15 l = some (if f.det then 1 else 0) ∧ p.value 0x17 l = some t.mhz ∧ p.value 0x18 l = some (towers * 2 ^ 38) ∧
     p.value 0x19 l = some (towers * 2 ^ 27) ∧ p.value 0x1A l = some (if t.retired then 2 ^ t.channel.val else 0) ∧
     (f.det = false → p.value 0x09 l = some (p.core % 32) ∧ p.value 0x0A l = some (p.core % 32 / 4) ∧ p.value 0x0B l = some (p.core / 32) ∧
       p.value 0x0C l = some towers ∧ p.value 0x0D l = some (32 * towers) ∧
       p.value 0x16 l = some (match p.st.part with | .p88 => 0x88 | .p48 => 0x48 | .p28 => 0x28) ∧
       p.value 0x1B l = some (p.st.core p.core).cycles)) ∧
    (f.det = true → let n := (4 * e + r) % 256
      p.value 0x09 l = some (n % 32) ∧ p.value 0x0A l = some (n % 32 / 4) ∧ p.value 0x0B l = some (n / 32) ∧ p.value 0x0C l = some 8 ∧
      p.value 0x0D l = some 256 ∧ p.value 0x16 l = some 0x88 ∧ p.value 0x1B l = some 0))

/-- With W the smaller of 96 and the allotment A, a base is legal when it is a multiple of 16 and base + W <= A. winb (to 16 n) and winb.rel (to wb + 16 s, s signed, from a legal base) complete with the gang's base at the new one when it is legal, after which operand v i of every lane, active or not, names allotment register base + i; an illegal new base raises window-bounds, with the refused base in TINFO, at the lowest active lane. xset gives index register n of each active lane (a + i) mod 1024, even one past the allotment; xget gives each active lane its index register zero-extended. The gang's other state stays, no completion flag is set, and none is a vector word. A d field past 3 in xset, an a field past 3 in xget, and a nonzero field that must be 0 encode no instruction. -/
def Obligations.WindowAndIndexWords : Prop :=
  ∀ (s : State) (c : Ctx) (i : BitVec 8) (n : Fin 4) (d : Dst) (a : Src), ctx? s = some c →
    let A : Int := c.blk.cfg.allot
    let W : Int := min 96 A
    let legal := fun (nb : Int) => 0 ≤ nb ∧ nb % 16 = 0 ∧ nb + W ≤ A
    let window := fun (w : Instr) (nb : Int) =>
      (legal nb → GoesOn s w { c.g with wb := nb.toNat } ∧ ∀ (l : Nat) (r : Fin 96),
        ({ c.g with wb := nb.toNat } : Gang).read c.iss.gang l (.v r) = regGet (c.g.lane l).regs (nb.toNat + r.val)) ∧
      (¬ legal nb → Traps s w { cause := 0x04, lane := lowLane c.iss.active, info := (BitVec.ofInt 16 nb).toNat })
    window (.winb i) (16 * i.toNat) ∧ (legal c.g.wb → window (.winbRel i) (c.g.wb + 16 * i.toInt)) ∧
    (c.Ok [a] → GoesOn s (.xset n a i)
      (c.g.modLanes c.iss.active (fun l x => { x with x := x.x.set n.val (BitVec.ofNat 10 (((c.read l a).toNat + i.toNat) % 1024)) }))) ∧
    (c.Ok [d.src] → c.GivesLane s (.xget d n) d (fun l => (((c.g.lane l).x.getD n.val 0).setWidth 64))) ∧
    (∀ (e : Trap), c.check [a] = .error e → Traps s (.xset n a i) e) ∧ (∀ (e : Trap), c.check [d.src] = .error e → Traps s (.xget d n) e) ∧
    isVectorOp 0xE9 = false ∧ ∀ w : Nat, w / 2 ^ 24 = 0xE9 →
      let fn := w / 2 ^ 22 % 4
      let fd := w / 2 ^ 15 % 128
      let fa := w / 2 ^ 8 % 128
      (fn < 2 → fd ≠ 0 ∨ fa ≠ 0 → decodes w = none) ∧ (fn = 2 → 4 ≤ fd → decodes w = none) ∧
      (fn = 3 → 4 ≤ fa ∨ w % 256 ≠ 0 → decodes w = none)

/-- br, jmp and call always complete: each active lane goes to the header at addr + 4 x disp, or for br at addr + 4 where the lane's condition bit, inverted when the field says so, is 0; a rejoin field that names a mask ORs the active lanes into it; call writes addr + 4 to allotment register A - 1 of each active lane. jr, calr and ret complete when every active lane's target has bits 63 to 56 and 1 to 0 zero, with each lane at its own target, calr linking after the target is read; otherwise they raise access-violation, or misaligned when no target is too high, naming the lowest failing lane and the target with space 6. Lanes that are not active, and the rest of the gang but settled flags, stay. -/
def Obligations.BranchesJumpsAndCalls : Prop :=
  ∀ (s : State) (c : Ctx) (m : MaskNo) (inv : Bool) (j : Option JNo) (p : BitVec 16) (a : Src), ctx? s = some c →
    let at_ := fun (x : Lane) (pc : VAddr) => ({ x with pc := pc, cpos := 0, clause := none } : Lane)
    let target : VAddr := c.iss.addr + 4 * p.signExtend 56
    let seen : Gang := match j with
      | none => c.g
      | some n => { c.g with j := modAt c.g.j n.val (· ||| c.iss.active) }
    let linked := fun (x : Lane) => ({ x with regs := regSet x.regs (c.blk.cfg.allot - 1) ((c.iss.addr + 4).setWidth 64) } : Lane)
    let moves := fun (i : Instr) (g : Gang) (f : Nat → Lane → Lane) => exec i s = .next (s.placed (g.modLanes c.iss.active f))
    let jumps := fun (i : Instr) (t : Nat → Word) (link : Bool) =>
      ((∀ l ∈ c.lanes, (t l).toNat < 2 ^ 56 ∧ (t l).toNat % 4 = 0) →
        moves i c.g (fun l x => at_ (if link then linked x else x) ((t l).setWidth 56))) ∧
      (∀ l ∈ c.lanes, 2 ^ 56 ≤ (t l).toNat → (∀ k ∈ c.lanes, k < l → (t k).toNat < 2 ^ 56) →
        Traps s i { cause := 0x0C, lane := l, info := (t l).toNat % 2 ^ 56 + 6 * 2 ^ 56 }) ∧
      (∀ l ∈ c.lanes, (∀ k ∈ c.lanes, (t k).toNat < 2 ^ 56) → (t l).toNat % 4 ≠ 0 → (∀ k ∈ c.lanes, k < l → (t k).toNat % 4 = 0) →
        Traps s i { cause := 0x0B, lane := l, info := (t l).toNat % 2 ^ 56 + 6 * 2 ^ 56 })
    moves (.br m inv j p) seen (fun l x => at_ x (if (c.g.mask m).getLsbD (8 * l) != inv then target else c.iss.addr + 4)) ∧
    moves (.jmp j p) seen (fun _ x => at_ x target) ∧
    moves (.call j p) seen (fun _ x => at_ (linked x) target) ∧
    (c.Ok [a] → jumps (.jr a) (fun l => c.read l a) false ∧ jumps (.calr a) (fun l => c.read l a) true) ∧
    jumps .ret (fun l => regGet (c.g.lane l).regs (c.blk.cfg.allot - 1)) false

/-- loopt.b with a loop mask of zero completes with the loop mask holding exactly the active lanes whose trip count is not zero, those lanes at the next header and the others parked on the loop mask at the exit; with a loop mask that is not zero it raises illegal-convergence and changes nothing. loopt completes with each active lane's count one less (zero stays zero) in its register, a lane whose count is not zero at the body's first header, the others out of the loop mask and parked at the next header. In both, once the loop mask is zero every lane parked on it goes on. -/
def Obligations.LoopsCountAndPark : Prop :=
  ∀ (s : State) (c : Ctx) (d : Dst) (a : Src) (p : BitVec 15), ctx? s = some c → c.g.lanes.length = 32 →
    let target : VAddr := c.iss.addr + 4 * p.signExtend 56
    let on := fun l => c.iss.active.getLsbD l
    (c.Ok [a] → c.g.lm ≠ 0 → Traps s (.looptB a p) { cause := 0x05, lane := lowLane c.iss.active }) ∧
    (c.Ok [a] → c.g.lm = 0 → ∃ g : Gang, exec (.looptB a p) s = .next (s.placed g) ∧
      (∀ l, l < 32 → g.lm.getLsbD l = (on l && c.read l a != 0)) ∧
      (∀ l, l < 32 → g.lane l =
        let y := if !on l then c.g.lane l
          else if c.read l a = 0 then { c.g.lane l with pc := target, cpos := 0, clause := none, park := some .loop }
          else { c.g.lane l with pc := c.iss.addr + 4, cpos := 0, clause := none }
        if y.park = some .loop ∧ g.lm = 0 then { y with park := none }
        else match y.park with
          | some (.j n) => if c.g.rejoin n = 0 then { y with park := none } else y
          | _ => y) ∧
      g = { c.g with lanes := g.lanes, lm := g.lm }) ∧
    (c.Ok [d.src] → ∃ g : Gang, exec (.loopt d p) s = .next (s.placed g) ∧
      (let t := fun l => if c.read l d.src = 0 then (0 : Word) else c.read l d.src - 1
       let freed := fun (x : Option Park) => match x with
         | some (.j n) => if c.g.rejoin n = 0 then none else some (.j n)
         | some .loop => if g.lm = 0 then none else some .loop
         | none => none
       (∀ l, l < 32 → g.lm.getLsbD l = (c.g.lm.getLsbD l && !(on l && t l == 0))) ∧
       (∀ l, l < 32 → (on l = true →
          (∀ r, regGet (g.lane l).regs r = if c.g.dstIndex l d = some r then t l else regGet (c.g.lane l).regs r) ∧
          g.lane l = { c.g.lane l with
            pc := if t l = 0 then c.iss.addr + 4 else target, cpos := 0, clause := none, regs := (g.lane l).regs
            park := freed (if t l = 0 then some .loop else (c.g.lane l).park) }) ∧
        (on l = false → g.lane l = { c.g.lane l with park := freed (c.g.lane l).park })) ∧
       g = { c.g with lanes := g.lanes, lm := g.lm }))

/-- split ORs the active lanes into the mask; join clears their bits, moves them to the next header and parks them on it; waitj parks them without clearing; jset writes the mask from the low 32 bits of the lowest active lane's register; jget gives each active lane the mask, zero-extended. Each completes, and afterwards a lane parked on a rejoin mask that is zero is parked no more, while one parked on a mask that is not zero stays parked. Every other rejoin mask, the loop mask, and every register but jget's destination stay. nop completes and changes nothing but the place of its lanes; yield does so and notes the cycle for the arbiter. exit completes, each active lane exited, every rejoin mask and the loop mask without the active lanes' bits, each lane parked on one that is then zero parked no more, the other lanes' exits and registers as they were, and their program counters too but for lanes that a held word keeps (a barrier that the exit completes lets them go on); once all lanes of the gang have exited, its read-section depth is zero and its lease given up. In a handler, no trap being pending, the gang stays there while a handler lane is left that has not exited; otherwise MODE[1] clears and no lane is frozen. -/
def Obligations.RejoinMaskWordsExitNopAndYield : Prop :=
  (∀ (s : State) (c : Ctx) (n : JNo) (d : Dst) (a : Src), ctx? s = some c → c.g.j.length = 8 →
    let freed := fun (g : Gang) (x : Lane) => match x.park with
      | some (.j k) => if g.j.getD k.val 0 = 0 then { x with park := none } else x
      | some .loop => if g.lm = 0 then { x with park := none } else x
      | none => x
    let ends := fun (i : Instr) (fin : Gang → State) (m : LaneBits) (f : Nat → Lane → Lane) => ∃ g : Gang,
      exec i s = .next (fin g) ∧ g = { c.g with lanes := g.lanes, j := g.j } ∧
      (∀ k : JNo, g.rejoin k = if k = n then m else c.g.rejoin k) ∧
      ∀ l, l < c.g.lanes.length → g.lane l = freed g (if c.iss.active.getLsbD l then f l (c.g.lane l) else c.g.lane l)
    let parked := fun (_ : Nat) (x : Lane) => ({ x with pc := c.iss.addr + 4, cpos := 0, clause := none, park := some (.j n) } : Lane)
    ends (.split n) s.retire (c.g.rejoin n ||| c.iss.active) (fun _ x => x) ∧
    ends (.join n) s.placed (c.g.rejoin n &&& ~~~c.iss.active) parked ∧
    ends (.waitj n) s.placed (c.g.rejoin n) parked ∧
    (c.Ok [a] → ends (.jset n a) s.retire ((c.read c.low a).setWidth 32) (fun _ x => x)) ∧
    (c.Ok [d.src] → ends (.jget d n) s.retire (c.g.rejoin n) (fun _ x => x.write c.g.wb d ((c.g.rejoin n).setWidth 64)))) ∧
  (∀ (s : State) (c : Ctx), ctx? s = some c →
    GoesOn s .nop c.g ∧ GoesOn s .yield { c.g with yielded := some (s.core c.iss.core).cycles } ∧
    ((c.g.inHandler = true → c.g.pending = []) → c.g.lanes.length = 32 → ∃ t g, exec .exit s = .next t ∧ t.gang? c.iss.core c.iss.gang = some g ∧
      let on := fun l => c.iss.active.getLsbD l
      let stays := c.g.inHandler = true ∧ ∃ l, l < 32 ∧ on l = false ∧ (c.g.lane l).hl = true ∧ (c.g.lane l).exited = false
      let parked := fun (x : Option Park) => match x with
        | some (.j n) => if c.g.rejoin n &&& ~~~c.iss.active = 0 then none else some (.j n)
        | some .loop => if c.g.lm &&& ~~~c.iss.active = 0 then none else some .loop
        | none => none
      (g.inHandler = true ↔ stays) ∧ g.lm = c.g.lm &&& ~~~c.iss.active ∧ g.j = c.g.j.map (· &&& ~~~c.iss.active) ∧
      (∀ l, l < 32 → (g.lane l).exited = (on l || (c.g.lane l).exited) ∧ (g.lane l).regs = (c.g.lane l).regs ∧
        (g.lane l).park = parked (c.g.lane l).park ∧
        (g.inHandler = c.g.inHandler → (g.lane l).hl = (c.g.lane l).hl) ∧ (g.inHandler = false → c.g.inHandler = true → (g.lane l).hl = false) ∧
        ((∀ h ∈ c.g.held, h.lanes.getLsbD l = false) → (g.lane l).pc = (c.g.lane l).pc)) ∧
      ((∀ x ∈ g.lanes, x.exited = true) → g.depth = 0 ∧ ∃ b, t.block? c.iss.core = some b ∧ b.lease.holder ≠ some c.iss.gang)))

/-- trap and brk always raise their trap, cause 0x14 or 0x15 with imm8 in TINFO, at the lowest active lane. When a word of a gang that is not in its handler raises a trap whose accept bit is set and the launch has a handler, then TCAUSE holds the cause and the held, prefix and header flags, TADDR the word's address (the prefix's for a prefixed word), TLANE the lane named and the active lanes, and TINFO the detail; MODE[1] is set; each lane that was active is a handler lane at the handler's address with a skip count of 0 and no clause in progress; no other lane can issue; the gang's lease is given up; and masks, rejoin masks, the loop mask, the window base, uniform registers, amax, slots and (with no special function outstanding) every register, index register and operation stay as they were (R310). When a word being issued raises a trap in a gang that is in its handler, or in a launch without a handler, or with the cause's accept bit clear, the block is gone from its core and its bind record reads killed (R309, R323, R333). The trap is recorded for the launch: unless an earlier kill of the launch is recorded already, the launch's kill holds the block's index, source 0 and TCAUSE, TADDR, TLANE and TINFO as trap entry would write them (R330). -/
def Obligations.ATrapEntersTheHandlerOrKillsTheBlock : Prop :=
  (∀ (s : State) (c : Ctx) (i : BitVec 8) (t : Trap), ctx? s = some c →
    Traps s (.trap i) { cause := 0x14, lane := lowLane c.iss.active, info := i.toNat } ∧
    Traps s (.brk i) { cause := 0x15, lane := lowLane c.iss.active, info := i.toNat } ∧
    (c.g.inHandler = false → c.blk.cfg.handler ≠ 0 → c.blk.cfg.accept.getLsbD t.cause = true →
      ∃ b g, (s.trap t).block? c.iss.core = some b ∧ (s.trap t).gang? c.iss.core c.iss.gang = some g ∧
        g.tcause = BitVec.ofNat 64 (t.cause + 256 * t.held.toNat + 512 * c.iss.pfx.isSome.toNat + 1024 * t.hdr.toNat) ∧
        g.taddr = c.iss.taddr.setWidth 64 ∧ g.tlane = BitVec.ofNat 64 (t.lane * 2 ^ 32 + c.iss.active.toNat) ∧
        g.tinfo = BitVec.ofNat 64 t.info ∧ g.inHandler = true ∧
        (∀ l, l < c.g.lanes.length → c.iss.active.getLsbD l = true →
          (g.lane l).hl = true ∧ (g.lane l).pc = c.blk.cfg.handler ∧ (g.lane l).skip = 0 ∧ (g.lane l).cpos = 0 ∧ (g.lane l).clause = none) ∧
        (∀ l, c.iss.active.getLsbD l = false → (c.g.lane l).hl = false → g.free (g.lane l) = false) ∧
        b.lease.holder ≠ some c.iss.gang ∧ b.cfg = c.blk.cfg ∧ b.ds = c.blk.ds ∧ b.rs = c.blk.rs ∧ b.teller = c.blk.teller ∧
        (g.m = c.g.m ∧ g.j = c.g.j ∧ g.lm = c.g.lm ∧ g.wb = c.g.wb ∧ g.k = c.g.k ∧ g.amax = c.g.amax ∧ g.amaxNan = c.g.amaxNan ∧
          g.slots = c.g.slots ∧ g.commit = c.g.commit ∧ g.tkeep0 = c.g.tkeep0 ∧ g.tkeep1 = c.g.tkeep1) ∧
        ((∀ o ∈ c.g.ops, o.kind ≠ .special) → g.ops = c.g.ops ∧
          ∀ l, (g.lane l).regs = (c.g.lane l).regs ∧ (g.lane l).x = (c.g.lane l).x ∧ (g.lane l).park = (c.g.lane l).park) ∧
        (∀ a, cellGet (s.trap t).mem a = cellGet s.mem a) ∧ (∀ n, n ≠ c.iss.core → (s.trap t).core n = s.core n))) ∧
  (∀ (s : State) (c : Ctx) (t : Trap), ctx? s = some c → t.held = false →
    (c.g.inHandler = true ∨ c.blk.cfg.handler = 0 ∨ c.blk.cfg.accept.getLsbD t.cause = false) →
    (s.trap t).block? c.iss.core = none ∧ ((s.trap t).core c.iss.core).bind = .killed ∧
    ∀ x ∈ s.launches, x.id = c.blk.cfg.lid → (∀ y ∈ s.launches, y.id = c.blk.cfg.lid → y = x) → x.kill = none →
      ∃ y ∈ (s.trap t).launches, y.id = x.id ∧
        y.kill = some { block := c.blk.cfg.index, src := 0, trap := [t.tcause c.iss.pfx.isSome, c.iss.taddr.setWidth 64,
          t.tlane c.iss.active, BitVec.ofNat 64 t.info] })

/-- In a gang that is in its handler, with the active lanes exactly the handler lanes that have not exited and no trap pending, tret completes with each of them at the trapping word and the clause position it had there (at the next header after trap or brk, at the header after a header trap); tret.next with each at the word after it (the next header when it was the last of its clause); tret.to with each at the header its target names, when the target has bits 63 to 56 and 1 to 0 zero, and otherwise it traps with access-violation or misaligned. MODE[1] is then clear, no lane is a handler lane, and every register, index register, mask and special register is as it was. Outside a handler each of them is an illegal encoding, and with other lanes active illegal-convergence (tret.to with its operand inside the allotment). -/
def Obligations.ReturnFromTheHandler : Prop :=
  ∀ (s : State) (c : Ctx) (a : Src), ctx? s = some c →
    let v := c.read c.low a
    let back := fun (i : Instr) (f : Lane → Lane) => ∃ g : Gang, exec i s = .next (s.setGang c.iss.core c.iss.gang g) ∧
      g = { c.g with inHandler := false, resume := none, lanes := g.lanes, flags := g.flags, clauses := g.clauses } ∧
      ∀ l, l < c.g.lanes.length → g.lane l =
        let y := if c.iss.active.getLsbD l then f (c.g.lane l) else c.g.lane l
        { y with hl := false, savedClause := none }
    let at_ := fun (pc : VAddr) (x : Lane) => ({ x with pc := pc, cpos := 0, clause := none } : Lane)
    (c.g.inHandler = true → c.iss.active = c.g.lanesWhere (fun l => l.hl && !l.exited) → c.g.pending = [] →
      (∀ r : Resume, c.g.resume = some r →
        let soft := r.cause = 0x14 ∨ r.cause = 0x15
        back .tret (fun x => if r.hdr then at_ r.taddr x else if soft then at_ (r.taddr + 4) x
          else { x with pc := r.taddr, cpos := r.cpos, clause := x.savedClause }) ∧
        back .tretNext (fun x => if r.hdr then at_ r.taddr x else if soft then at_ (r.taddr + 4) x
          else if r.cpos ≤ r.words then at_ (r.taddr + 4 * BitVec.ofNat 56 r.words) x
          else { x with pc := r.taddr + 4 * BitVec.ofNat 56 r.words, cpos := r.cpos - r.words, clause := x.savedClause })) ∧
      (c.Ok [a] → v.toNat < 2 ^ 56 → v.toNat % 4 = 0 → back (.tretTo a) (at_ (v.setWidth 56))) ∧
      (c.Ok [a] → 2 ^ 56 ≤ v.toNat → Traps s (.tretTo a) { cause := 0x0C, lane := c.low, info := v.toNat % 2 ^ 56 + 6 * 2 ^ 56 }) ∧
      (c.Ok [a] → v.toNat < 2 ^ 56 → v.toNat % 4 ≠ 0 →
        Traps s (.tretTo a) { cause := 0x0B, lane := c.low, info := v.toNat % 2 ^ 56 + 6 * 2 ^ 56 })) ∧
    (c.g.inHandler = false → Traps s .tret { cause := 0x01, lane := c.low } ∧ Traps s .tretNext { cause := 0x01, lane := c.low } ∧
      (c.Ok [a] → Traps s (.tretTo a) { cause := 0x01, lane := c.low })) ∧
    (c.g.inHandler = true → c.iss.active ≠ c.g.lanesWhere (fun l => l.hl && !l.exited) →
      Traps s .tret { cause := 0x05, lane := c.low } ∧ Traps s .tretNext { cause := 0x05, lane := c.low } ∧
        (c.Ok [a] → Traps s (.tretTo a) { cause := 0x05, lane := c.low }))

/-- csrr completes for registers 0x00 to 0x07 in either mode and for 0x40 to 0x46 in S mode, giving every active lane the register's value: TCAUSE, TADDR, TLANE and TINFO, TFLAGS with a bit for each busy flag, MODE, TKEEP0 and TKEEP1, and the Escrow and Clearing state of the gang's partition. An S-mode register read in U mode raises privileged-instruction with its number in TINFO, and a number that is not assigned is an illegal encoding. csrw of 0x06 or 0x07 completes with that register at the lowest active lane's value and nothing else of the gang changed; of any other number it is an illegal encoding (R302, R304). -/
def Obligations.SpecialRegisterWords : Prop :=
  ∀ (s : State) (c : Ctx) (d : Dst) (a : Src) (n : BitVec 8), ctx? s = some c →
    let reads := fun (n : BitVec 8) (v : Word) => c.GivesLane s (.csrr d n) d (fun _ => v)
    (c.Ok [d.src] →
      reads 0x00 c.g.tcause ∧ reads 0x01 c.g.taddr ∧ reads 0x02 c.g.tlane ∧ reads 0x03 c.g.tinfo ∧
      (∃ v : Word, reads 0x04 v ∧ (∀ f, f < 12 → v.getLsbD f = (c.g.flags.getD f 0 != 0)) ∧ ∀ f, 12 ≤ f → v.getLsbD f = false) ∧
      reads 0x05 (BitVec.ofNat 64 (c.blk.cfg.smode.toNat + 2 * c.g.inHandler.toNat)) ∧ reads 0x06 c.g.tkeep0 ∧ reads 0x07 c.g.tkeep1 ∧
      (c.blk.cfg.smode = true → ∀ p, s.partition? c.blk.cfg.part.val = some p →
        reads 0x40 (BitVec.ofNat 64 p.escBase) ∧ reads 0x41 (BitVec.ofNat 64 (2 ^ p.escLog2)) ∧
        reads 0x42 (BitVec.ofNat 64 (p.ring.length % 2 ^ 32 + 2 ^ 32 * (p.ring.filter (fun e => e.stamp.ule p.done)).length)) ∧
        reads 0x43 p.gen ∧ reads 0x44 p.done ∧ reads 0x45 (BitVec.ofNat 64 (p.c0.toNat + 2 ^ 32 * p.c1.toNat)) ∧
        reads 0x46 (BitVec.ofNat 64 (p.pend.toNat + 2 * p.queued.toNat)))) ∧
    (0x40 ≤ n.toNat → n.toNat ≤ 0x46 → c.blk.cfg.smode = false →
      Traps s (.csrr d n) { cause := 0x02, lane := lowLane c.iss.active, info := n.toNat }) ∧
    ((0x07 < n.toNat ∧ n.toNat < 0x40) ∨ 0x46 < n.toNat → Traps s (.csrr d n) { cause := 0x01, lane := lowLane c.iss.active }) ∧
    (c.Ok [a] → GoesOn s (.csrw a 0x06) { c.g with tkeep0 := c.read (lowLane c.iss.active) a } ∧
      GoesOn s (.csrw a 0x07) { c.g with tkeep1 := c.read (lowLane c.iss.active) a }) ∧
    (n ≠ 0x06 → n ≠ 0x07 → Traps s (.csrw a n) { cause := 0x01, lane := lowLane c.iss.active })

/-- Where every enabled lane's address (a plus the offset times the width, modulo 2^64; a alone for lda; the table's place for ldk and ldk.x) is in range, aligned and reaches memory that admits a read, and no byte of it lies in a failing granule, but for one that an earlier store of the lane's, still to be performed, covers whole and for bytes that the lane's own staged entries supply, the load issues: it leaves an operation of flag A outstanding, with one access for each enabled lane, lowest first, of its width, at its location, that will give the register d names the bytes there, zero-extended (sign-extended for ld.i), an acquire of its scope for lda; and a result of 0 for each lane that a zeroing prefix disables; its lanes go on and nothing else changes. Where an address is on a peer, the word's lanes are held instead until the word has completed (R119). In a deterministic launch the access notes what its lane had staged before it, which it looks up when it is performed (R151; for the choice of log entry 9 a counter advances). A table index at or past the count traps with an access violation in space 4, before anything else. That accesses are performed after issue, one at a time, is the model's form of R130 and R185 (log entry 7). -/
def Obligations.LoadsReadTheirBytes : Prop :=
  ∀ (s : State) (c : Ctx) (w : Width) (sc : Scope) (d : Dst) (a : Src) (i : BitVec 8) (loc : Nat → Loc × Bool), ctx? s = some c →
    let own := fun (ea : Nat) => if c.blk.cfg.det then some (Forward.mk c.iss.gang ea c.g.stagedSeq s.freshCount) else none
    let supplied := fun (ea : Nat → Nat) (l k : Nat) => match own (ea l) with
      | some f => (c.blk.forwardByte f l k).isSome
      | none => false
    let after : State := if c.blk.cfg.det then { s with freshCount := s.freshCount + 256 } else s
    let acquire : MemOrder := { acq := true, scope := sc }
    let off := fun l => (c.read l a + BitVec.ofInt 64 (i.toInt * (w.bytes : Int))).toNat
    let entry := fun (n : Nat) => (c.blk.cfg.utab.toNat + 8 * n) % 2 ^ 64
    let reads := fun (j : Instr) (x : Width) (sgn : Bool) (ord : MemOrder) (ea : Nat → Nat) =>
      c.Reaches s .read (fun _ => true) true x.bytes c.onLanes ea loc (supplied ea) →
        c.Issues s after j
          (c.onLanes.map (fun l => laneAccess l (loc l) x.bytes ord (.load x sgn (c.g.dstIndex l d) (own (ea l)))))
          (c.zeroed d) (c.onLanes.map (fun l => (l, ea l)))
    (c.Ok [d.src, a] →
      reads (.ldN w d a i) w false {} off ∧ reads (.ldI w d a i) w true {} off ∧
      reads (.lda w sc d a) w false acquire (fun l => (c.read l a).toNat) ∧
      ((∀ l ∈ c.lanes, (c.read l a).toNat < c.blk.cfg.ucount) → reads (.ldkX d a) .b64 false {} (fun l => entry (c.read l a).toNat)) ∧
      (∀ l, FirstLane c.lanes (fun l => c.blk.cfg.ucount ≤ (c.read l a).toNat) l →
        Traps s (.ldkX d a) { cause := 0x0C, lane := l, info := (c.read l a).toNat % 2 ^ 56 + 4 * 2 ^ 56 })) ∧
    (c.Ok [d.src] →
      (i.toNat < c.blk.cfg.ucount → reads (.ldk d i) .b64 false {} (fun _ => entry i.toNat)) ∧
      (c.blk.cfg.ucount ≤ i.toNat → c.lanes ≠ [] →
        Traps s (.ldk d i) { cause := 0x0C, lane := c.low, info := i.toNat + 4 * 2 ^ 56 }))

/-- Where every enabled lane's address reaches memory that admits a write: outside a deterministic launch st and stl issue one write for each enabled lane, lowest first, of the low bytes of its register, little-endian, at its location, a release of its scope for stl, leave an operation of flag A outstanding, and their lanes go on, also where a peer is written; in a deterministic launch with room in the commit buffer they append one entry for each enabled lane (address, size, data, flush ordinal) and no byte of any memory changes; without room the word stays where it is, its header undone, where an earlier flush of its gang stands in the buffer, and traps with an access violation in space 7 otherwise. -/
def Obligations.StoresWriteTheirBytes : Prop :=
  ∀ (s : State) (c : Ctx) (w : Width) (sc : Scope) (a v : Src) (i : BitVec 8) (loc : Nat → Loc × Bool), ctx? s = some c → c.Ok [v, a] →
    let release : MemOrder := { rel := true, scope := sc }
    let stores := fun (j : Instr) (ord : MemOrder) (ea : Nat → Nat) =>
      c.Reaches s .write (fun _ => true) false w.bytes c.onLanes ea loc →
      (c.blk.cfg.det = false → c.Issues s s j
        (c.onLanes.map (fun l => laneAccess l (loc l) w.bytes ord (.store (leBytes w.bytes (c.read l v).toNat)))) []
        (c.onLanes.map (fun l => (l, ea l)))) ∧
      (c.blk.cfg.det = true → c.blk.teller.length + c.onLanes.length ≤ 512 →
        ∃ t b, exec j s = .next t ∧ SameBytes s t ∧ t.block? c.iss.core = some b ∧
          b.teller = c.blk.teller ++ c.onLanes.mapIdx (fun k l =>
            TellerEntry.mk .store w.bytes (BitVec.ofNat 56 (ea l)) (BitVec.ofNat 64 ((c.read l v).toNat % 2 ^ w.bits)) c.g.flush l c.iss.gang
              (c.g.stagedSeq + k))) ∧
      (c.blk.cfg.det = true → 512 < c.blk.teller.length + c.onLanes.length → c.blk.earlierFlush c.g = true →
        exec j s = .next (s.setGang c.iss.core c.iss.gang (c.g.undoHeader c.iss))) ∧
      (c.blk.cfg.det = true → 512 < c.blk.teller.length + c.onLanes.length → c.blk.earlierFlush c.g = false → c.onLanes ≠ [] →
        ∃ x, x ∈ c.onLanes.map ea ∧ (∀ l ∈ c.onLanes, x ≤ ea l) ∧
          Traps s j { cause := 0x0C, lane := c.onLanes.headD 0, info := x + 7 * 2 ^ 56 })
    stores (.st w v a i) {} (fun l => (c.read l a + BitVec.ofInt 64 (i.toInt * (w.bytes : Int))).toNat) ∧
    stores (.stl w sc a v) release (fun l => (c.read l a).toNat)

/-- After a list of writes by an agent, by a unit of a tower or by lanes, each a location and the bytes stored from there, performed in order: a byte of package or peer memory that no write covers is as before, no granule has begun to fail, and the memories are in canonical form; a byte of the last write is that write's (in package memory, where no granule of it fails). Where no write covers a failing granule in part, which would be logged and reported to the host, a byte of host memory that no write covers is as before too, and, where no tower holds a copy of a line and no L1 one, nothing of the module but the memories, the marks of failing granules and the model's note of what writes have replaced (log entry 77) differs. A store into a data scratchpad changes its bytes and no other; in a group that fails it is discarded, unless it covers the group whole, which then fails no more. -/
def Obligations.AWriteChangesItsBytesAndNoOther : Prop :=
  (∀ (s : State) (ws : List (Loc × List Byte)) (put : State → Loc → List Byte → State), s.Inv →
    put = State.writeLoc ∨ (∃ n who m, put = fun s => s.towerWrite n who m) ∨ (∃ who m, put = fun s => s.laneWrite who m) →
    let t := ws.foldl (fun t w => put t w.1 w.2) s
    (∀ a, (∀ w ∈ ws, ∀ p, w.1 = .pkg p → a < p ∨ p + w.2.length ≤ a) → cellGet t.mem a = cellGet s.mem a) ∧
    (∀ a, (∀ w ∈ ws, ∀ m p, w.1 = .peer m p → a < peerIndex m p ∨ peerIndex m p + w.2.length ≤ a) →
      cellGet t.peerMem a = cellGet s.peerMem a) ∧
    (∀ ini x bs, ws = ini ++ [(x, bs)] → ∀ i, i < bs.length →
      (∀ p, x = .pkg p → s.granulesFail p bs.length = false → cellGet t.mem (p + i) = bs.getD i 0) ∧
      (∀ p, x = .host p → cellGet t.hostMem (p + i) = bs.getD i 0) ∧
      (∀ m p, x = .peer m p → cellGet t.peerMem (peerIndex m p + i) = bs.getD i 0)) ∧
    (∀ n, n ∈ t.failing → n ∈ s.failing) ∧ t.Inv ∧ (∀ x, x ∈ s.homeLog → x ∈ t.homeLog) ∧
    ((∀ w ∈ ws, ∀ p, w.1 = .pkg p → s.partGranules p w.2.length = []) →
      (∀ a, (∀ w ∈ ws, ∀ p, w.1 = .host p → a < p ∨ p + w.2.length ≤ a) → cellGet t.hostMem a = cellGet s.hostMem a) ∧
      (∀ n, t.block? n = s.block? n) ∧ (s.copied = false → (∀ n, (s.core n).l1 = []) → t = { s with mem := t.mem, hostMem := t.hostMem, peerMem := t.peerMem, failing := t.failing, homeLog := t.homeLog }))) ∧
  (∀ (b : Block) (o : Nat) (bs : List Byte), b.ds.wf = true →
    let q := b.dsStore o bs
    q = { b with ds := q.ds, dsFail := q.dsFail, dsLog := q.dsLog } ∧ q.ds.wf = true ∧ (∀ n, n ∈ q.dsFail → n ∈ b.dsFail) ∧
    (∀ a, a < o ∨ o + bs.length ≤ a → cellGet q.ds a = cellGet b.ds a) ∧
    (∀ i, i < bs.length → (o + i) / 8 ∉ b.dsFail → cellGet q.ds (o + i) = bs.getD i 0) ∧
    (∀ n, n ∈ b.dsFail → o ≤ 8 * n → 8 * n + 8 ≤ o + bs.length → n ∉ q.dsFail ∧ ∀ i, i < 8 → cellGet q.ds (8 * n + i) = bs.getD (8 * n + i - o) 0) ∧
    (∀ n i, n ∈ b.dsFail → i < 8 → ¬ (o ≤ 8 * n ∧ 8 * n + 8 ≤ o + bs.length) → cellGet q.ds (8 * n + i) = cellGet b.ds (8 * n + i)))

/-- For ld.n and st over the enabled lanes: an address at or past 2^56 traps with an access violation (0x0C), naming the lowest such lane; else a misaligned address traps with 0x0B; else, if any walk faults, no lane has gone on and every active lane waits under one number, and the tower's fault records hold that word for each faulting entry that has one of its 64 records; else, an address whose leaf does not admit the access traps with 0x0C at the lowest such lane; and a load whose bytes hold a failing granule then traps with 0x0D at the first byte, of the lowest such lane, that fails, which is logged as an event of kind 1 (R364). A byte that an earlier store of the lane's, still to be performed, mends, or that the lane's own staged entries supply, does not fail. TINFO holds the address, with space 0. -/
def Obligations.AccessesThatFailTrapInOrder : Prop :=
  ∀ (s : State) (c : Ctx) (w : Width) (v a : Src) (d : Dst) (i : BitVec 8), ctx? s = some c →
    let ea := fun l => (c.read l a + BitVec.ofInt 64 (i.toInt * (w.bytes : Int))).toNat
    let at_ := fun (cause l x : Nat) => ({ cause := cause, lane := l, info := x % 2 ^ 56 } : Trap)
    let form := fun (l : Nat) => ea l < 2 ^ 56 ∧ ea l % w.bytes = 0
    let good := fun (l : Nat) => ∃ x f, walk s (s.coreTlb c.iss.core) c.blk.cfg.asid (ea l) = .ok x f
    let admits := fun (k : AccKind) (l : Nat) => ∃ x f, walk s (s.coreTlb c.iss.core) c.blk.cfg.asid (ea l) = .ok x f ∧ f.allows c.blk.cfg.smode k = true
    let bad := fun (l n : Nat) => ∃ x f, walk s (s.coreTlb c.iss.core) c.blk.cfg.asid (ea l) = .ok x f ∧
      c.Fails s (BitVec.ofNat 32 (2 ^ l)) x n ∧
      ¬ (c.blk.cfg.det = true ∧ (c.blk.forwardByte ⟨c.iss.gang, ea l, c.g.stagedSeq, s.freshCount⟩ l n).isSome = true)
    let fails := fun (j : Instr) (k : AccKind) =>
      (∀ l, FirstLane c.onLanes (fun l => 2 ^ 56 ≤ ea l) l → Traps s j (at_ 0x0C l (ea l))) ∧
      ((∀ l ∈ c.onLanes, ea l < 2 ^ 56) → ∀ l, FirstLane c.onLanes (fun l => ea l % w.bytes ≠ 0) l → Traps s j (at_ 0x0B l (ea l))) ∧
      ((∀ l ∈ c.onLanes, form l) → (∀ l ∈ c.onLanes, good l) →
        ∀ l, FirstLane c.onLanes (fun l => ¬ admits k l) l → Traps s j (at_ 0x0C l (ea l))) ∧
      ((∀ l ∈ c.onLanes, form l) → (∃ l ∈ c.onLanes, ¬ good l) → c.g.lanes.length = 32 → towerOf c.iss.core < s.towers.length →
        ∃ t g id, exec j s = .next t ∧ t.gang? c.iss.core c.iss.gang = some g ∧ SameBytes s t ∧
          (∀ l ∈ c.lanes, (g.lane l).wait = some id ∧ (g.lane l).pc = (c.g.lane l).pc ∧ (g.lane l).regs = (c.g.lane l).regs) ∧
          ∀ l ∈ c.onLanes, ∀ f, walk s (s.coreTlb c.iss.core) c.blk.cfg.asid (ea l) = .fault f → (s.tower (towerOf c.iss.core)).faults.length + 32 ≤ 64 →
            ∃ r ∈ (t.tower (towerOf c.iss.core)).faults, r.key = f.key ∧ Requester.word c.iss.core c.iss.gang id ∈ r.reqs)
    (c.Ok [d.src, a] → fails (.ldN w d a i) .read ∧
      ((∀ l ∈ c.onLanes, form l ∧ admits .read l) → ∀ l pa f n, l ∈ c.onLanes →
        walk s (s.coreTlb c.iss.core) c.blk.cfg.asid (ea l) = .ok (.pkg pa) f → n < w.bytes → bad l n → (∀ m, m < n → ¬ bad l m) →
        (∀ m ∈ c.onLanes, m < l → ∀ k, k < w.bytes → ¬ bad m k) →
          exec (.ldN w d a i) s = .next ((s.log ((pa + n) / Config.towerBytes) { kind := 1, addr := pa + n }).trap (at_ 0x0D l (ea l + n))))) ∧
    (c.Ok [v, a] → fails (.st w v a i) .write)

/-- With each enabled lane's offset (a plus the immediate times the width, not wrapped) at least 0, at most the scratchpad's size less the width, and a multiple of the width: lds, where no group of the bytes fails but for one that an earlier store of the lane's, still to be performed, covers whole, and sts issue one access for each enabled lane, lowest first, at its offset of the block's data scratchpad: a load that will give its register the bytes, zero- or sign-extended, or a store of its low bytes; they leave an operation of flag A outstanding, their lanes go on, and nothing else changes. An offset outside traps with 0x0C at the lowest such lane, a misaligned one then with 0x0B, a load of a failing group then with 0x0D; TINFO is the offset with space 1. -/
def Obligations.ScratchpadWordsReadAndWriteTheirBytes : Prop :=
  ∀ (s : State) (c : Ctx) (w : Width) (v a : Src) (d : Dst) (i : BitVec 8), ctx? s = some c →
    let off := fun l => ((c.read l a).toNat : Int) + i.toInt * (w.bytes : Int)
    let inside := fun (l : Nat) => 0 ≤ off l ∧ off l + (w.bytes : Int) ≤ ((1024 * c.blk.cfg.dsp : Nat) : Int)
    let form := fun (l : Nat) => inside l ∧ off l % (w.bytes : Int) = 0
    let bad := fun (l : Nat) => ∃ k, k < w.bytes ∧ ((off l).toNat + k) / 8 ∈ c.blk.dsFail ∧
      ¬ c.DsMended (BitVec.ofNat 32 (2 ^ l)) c.iss.core (((off l).toNat + k) / 8)
    let accesses := fun (act : Nat → AccAct) => c.onLanes.map (fun l =>
      ({ lane := l, lanes := BitVec.ofNat 32 (2 ^ l), spot := .ds c.iss.core (off l).toNat, n := w.bytes, act := act l } : Access))
    let traps := fun (j : Instr) =>
      (∀ l, FirstLane c.onLanes (fun l => ¬ inside l) l →
        Traps s j { cause := 0x0C, lane := l, info := (off l % 2 ^ 56).toNat + 2 ^ 56 }) ∧
      ((∀ l ∈ c.onLanes, inside l) → ∀ l, FirstLane c.onLanes (fun l => off l % (w.bytes : Int) ≠ 0) l →
        Traps s j { cause := 0x0B, lane := l, info := (off l % 2 ^ 56).toNat + 2 ^ 56 })
    let loads := fun (j : Instr) (sgn : Bool) => traps j ∧
      ((∀ l ∈ c.onLanes, form l) → ∀ l, FirstLane c.onLanes bad l →
        Traps s j { cause := 0x0D, lane := l, info := (off l % 2 ^ 56).toNat + 2 ^ 56 }) ∧
      ((∀ l ∈ c.onLanes, form l ∧ ¬ bad l) →
        c.Issues s s j (accesses (fun l => .load w sgn (c.g.dstIndex l d) none)) (c.zeroed d) [])
    (c.Ok [d.src, a] → loads (.ldsN w d a i) false ∧ loads (.ldsI w d a i) true) ∧
    (c.Ok [v, a] →
      traps (.sts w v a i) ∧
      ((∀ l ∈ c.onLanes, form l) →
        c.Issues s s (.sts w v a i) (accesses (fun l => .store (leBytes w.bytes (c.read l v).toNat))) [] []))

/-- With every present rank of the ensemble resident, and the offset of each lane with an enabled element inside the scratchpad and a multiple of 8, and no leaf failing but in a group that an earlier store of an active lane, still to be performed, covers whole: each ldg word issues one read for each enabled element of each active lane and each present rank, of that rank's data scratchpad at the element's offset, in the program order of every active lane (R133), and leaves an operation of flag A outstanding that will write the enabled elements of its destination, and zeros to the disabled ones under a zeroing prefix, and no other bits (R63). Once each leaf has been read, the value of an element combines the leaves of ranks 0 to S-1, a rank that is not present giving the operator's identity: for one member its own element, for two one node, for three and four the tree of two levels (the fourth leaf of three being the identity). A present rank that is not live traps with 0x12 naming the lowest such rank. -/
def Obligations.GroupLoadsCombineTheRanks : Prop :=
  (∀ (s : State) (c : Ctx) (d : Dst) (a : Src), ctx? s = some c → c.Ok [d.src, a] →
    let has := fun (w : Width) (l : Nat) => ∃ e, e < w.elems ∧ c.en l (w.bytes * e) = true
    let off := fun (w : Width) (l e : Nat) => (c.read l a).toNat + w.bytes * e
    let form := fun (l : Nat) => (c.read l a).toNat + 8 ≤ 1024 * c.blk.cfg.dsp ∧ (c.read l a).toNat % 8 = 0
    let holds := fun (m r : Nat) => ∃ b, s.block? m = some b ∧ b.cfg.lid = c.blk.cfg.lid ∧
      b.cfg.index / b.cfg.ens = c.blk.cfg.index / c.blk.cfg.ens ∧ b.cfg.index % b.cfg.ens = r
    let els := fun (w : Width) => c.lanes.flatMap (fun l => ((List.range w.elems).filter (fun e => c.en l (w.bytes * e))).map (fun e => (l, e)))
    let part := fun (w : Width) (e : Nat) => BitVec.ofNat 64 ((2 ^ w.bits - 1) * 2 ^ (w.bits * e))
    let job := fun (op : GroupOp) (w : Width) => GroupJob.mk op c.blk.cfg.ens ((els w).filterMap (fun x => (c.g.dstIndex x.1 d).map (fun r => (x.1, x.2, r)))) []
    let word := fun (i : Instr) (op : GroupOp) (w : Width) =>
      ((∀ l ∈ c.lanes, has w l → form l) → s.deadRanks c.blk = [] →
        (∀ l ∈ c.lanes, ∀ e, e < w.elems → c.en l (w.bytes * e) = true → ∀ m r b, holds m r → s.block? m = some b →
          ∀ k, k < w.bytes → (off w l e + k) / 8 ∈ b.dsFail → c.DsMended c.iss.active m ((off w l e + k) / 8)) →
        ∃ ms : List (Nat × Nat), (∀ p ∈ ms, p.1 < c.blk.cfg.ens ∧ holds p.2 p.1) ∧
          (∀ r, r < c.blk.cfg.ens → ∀ m, m < s.cores.length → holds m r → ∃ p ∈ ms, p.1 = r) ∧ (ms.map (·.1)).Nodup ∧
          exec i s = .next (s.retire (c.g.addOp { c.outstanding
              ((els w).flatMap (fun x => ms.map (fun m =>
                { lane := x.1, lanes := c.iss.active, spot := .ds m.2 (off w x.1 x.2), n := w.bytes, act := .leaf m.1 x.2 })))
              (c.lanes.flatMap (fun l => ((List.range w.elems).filter (fun e => c.zeroing && !c.en l (w.bytes * e))).filterMap (fun e =>
                (c.g.dstIndex l d).map (fun r => { lane := l, reg := r, bits := part w e, value := 0 })))) with group := some (job op w) }))) ∧
      ((∀ l ∈ c.lanes, has w l → form l) → ∀ l r rs, FirstLane c.lanes (has w) l → s.deadRanks c.blk = r :: rs →
        Traps s i { cause := 0x12, lane := l, info := r })
    word (.ldgAddF32 d a) .addF32 .b32 ∧ word (.ldgAddI32 d a) .addI32 .b32 ∧ word (.ldgAddI64 d a) .addI64 .b64 ∧
    word (.ldgMaxF32 d a) .maxF32 .b32 ∧ word (.ldgMinF32 d a) .minF32 .b32 ∧ word (.ldgAmaxF32 d a) .amaxF32 .b32) ∧
  (∀ (op : GroupOp) (ens : Nat) (els : List (Nat × Nat × Nat)) (leaves : List (Nat × Nat × Nat × Nat)), 1 ≤ ens → ens ≤ 4 →
    let table : Width × Nat × (Nat → Nat → Nat) := match op with
      | .addF32 => (.b32, 0x80000000, fAdd fmtF32 .rne)
      | .addI32 => (.b32, 0, fun x y => (x + y) % 2 ^ 32)
      | .addI64 => (.b64, 0, fun x y => (x + y) % 2 ^ 64)
      | .maxF32 => (.b32, 0xFF800000, fMax fmtF32)
      | .minF32 => (.b32, 0x7F800000, fMin fmtF32)
      | .amaxF32 => (.b32, 0, fun x y =>
        if (fmtF32.val x).isNan || (fmtF32.val y).isNan then 0x7FC00000 else max (x % 2 ^ 31) (y % 2 ^ 31))
    let w := table.1
    let f := table.2.2
    let leaf := fun (l e r : Nat) => match leaves.find? (fun x => x.1 == l && x.2.1 == e && x.2.2.1 == r) with
      | some x => x.2.2.2
      | none => table.2.1
    let value := fun (l e : Nat) =>
      let x := leaf l e
      if ens = 1 then x 0 else if ens = 2 then f (x 0) (x 1)
      else if ens = 3 then f (f (x 0) (x 1)) (f (x 2) (x 3)) else f (f (x 0) (x 1)) (f (x 2) (x 3))
    (GroupJob.mk op ens els leaves).results =
      els.map (fun x =>
        { lane := x.1, reg := x.2.2, bits := BitVec.ofNat 64 ((2 ^ w.bits - 1) * 2 ^ (w.bits * x.2.1))
          value := BitVec.ofNat 64 (value x.1 x.2.1 * 2 ^ (w.bits * x.2.1)) }))

/-- With the residue element address and virtual address of the lowest active lane aligned to 256 elements and 2 048 bytes, both runs in range and every block reaching memory: rpld issues one read for each 2 048-byte block, to be placed in the residue scratchpad; rpst, outside a deterministic launch, one write for each block from the scratchpad; in one, the accesses that its lanes have issued before and that still have to write those residues are performed first (R132 item 1), and then, where the commit buffer has room, it appends entries for the bytes of its blocks (a retired channel's planes as zeros) and writes nothing; each leaves an operation of flag A outstanding. rpst.add, to package memory, appends one entry to the gang's commit stage while it holds fewer than 16 and traps in space 5 otherwise. That the staged entries are the lowest active lane's is the model's choice (log entry 64). -/
def Obligations.ResiduePlaneWordsMoveWholeBlocks : Prop :=
  ∀ (s : State) (c : Ctx) (d a : Src) (n : BitVec 8) (loc : Nat → Loc × Bool), ctx? s = some c → c.Ok [d, a] →
    let r := (c.read c.low d).toNat
    let v := (c.read c.low a).toNat
    let k := n.toNat + 1
    let form := r % 256 = 0 ∧ r + 256 * k ≤ min (256 * c.blk.cfg.rsp) (2 ^ 64) ∧ v % 2048 = 0 ∧ v + 2048 * k ≤ 2 ^ 56
    let first := s.performFirst c.iss.core c.iss.gang
      [{ lane := c.low, lanes := c.iss.active, spot := .rs (8 * r), n := 2048 * k, act := .spill (8 * r), async := true }]
    let bytes := fun (b : Block) (j : Nat) => (List.range 2048).map (fun i =>
      if retiredChannel first c.iss.core = some (i / 256) then 0 else cellGet b.rs (8 * (r + 256 * j) + i))
    let reaches := fun (x : AccKind) (home : Loc → Bool) (rd : Bool) =>
      c.Reaches s x home rd 2048 (List.range k) (fun j => v + 2048 * j) loc (lanes := fun _ => c.iss.active)
    let vas := (List.range k).map (fun j => (c.low, v + 2048 * j))
    let accesses := fun (act : Nat → AccAct) => (List.range k).map (fun j =>
      planeAccess c.low c.iss.active (loc j) (act (8 * r + 2048 * j)))
    form →
    (reaches .read (fun _ => true) true → c.Issues s s (.rpld d a n) (accesses .fill) [] vas) ∧
    (reaches .write (fun _ => true) false →
      (c.blk.cfg.det = false → c.Issues s s (.rpst d a n) (accesses .spill) [] vas) ∧
      (c.blk.cfg.det = true → ∀ f, ctx? first = some f → f.blk.rs.wf = true → f.blk.teller.length + 256 * k ≤ 512 →
        ∃ t q, exec (.rpst d a n) s = .next t ∧ SameBytes first t ∧ t.block? f.iss.core = some q ∧
          q.teller = f.blk.teller ++ ((List.range k).flatMap (fun j => stageRange c.low (v + 2048 * j) (bytes f.blk j))).mapIdx (fun i e =>
            TellerEntry.mk e.kind e.size (BitVec.ofNat 56 e.addr) e.data f.g.flush c.low f.iss.gang (f.g.stagedSeq + i))) ∧
      ((∀ o ∈ c.g.ops, o.todo = []) → first = s) ∧
      (c.blk.cfg.det = true → 512 < 256 * k →
        Traps s (.rpst d a n) { cause := 0x0C, lane := c.low, info := v + 7 * 2 ^ 56 })) ∧
    (reaches .both Loc.isPkg true →
      (c.g.commit.length < 16 → exec (.rpstAdd d a n) s = .next (s.retire (({ c.g with commit := c.g.commit ++ [⟨n.toNat, r, BitVec.ofNat 64 v⟩] } : Gang).addOp
        { c.outstanding [] [] with isWrite := true, asid := none }))) ∧
      (16 ≤ c.g.commit.length → Traps s (.rpstAdd d a n) { cause := 0x0C, lane := c.low, info := v % 2 ^ 56 + 5 * 2 ^ 56 }))

/-- Where every enabled lane's address reaches memory that admits reading and writing and whose home supports the atomic (a host page: aadd, axch and acas only), the atomic issues one read-modify-write for each enabled lane, lowest first, of its width, with its operands, an acquire, a release or both at device scope (domain scope on peer and host memory) as its suffix says, whose old value the register d names will take, and a result of 0 for each lane that a zeroing prefix disables; an operation of flag A is outstanding and its lanes go on, or are held where it is on a peer. The new value is the function of its row of R195, for every old value and operand. In a deterministic launch fadda and amaxm append an entry for each enabled lane to the commit buffer instead, with room for them, and write no memory. -/
def Obligations.AtomicsReadModifyWriteInLaneOrder : Prop :=
  (∀ (s : State) (c : Ctx) (wide : Bool) (sem : ASem) (d : Dst) (a b : Src) (loc : Nat → Loc × Bool), ctx? s = some c →
    let ea := fun l => (c.read l a).toNat
    let w : Width := if wide then .b64 else .b32
    let far := fun (x : Loc) => match x with | .pkg _ => false | _ => true
    let ord := fun (x : Loc) => ({ acq := decide (sem = .acq ∨ sem = .ar), rel := decide (sem = .rel ∨ sem = .ar), scope := if far x then .dom else .dev } : MemOrder)
    let onHost := fun (x : Loc) => match x with | .host _ => true | _ => false
    let issues := fun (i : Instr) (op : AtomOp) (w : Width) (third : Nat → Word) (host : Bool) (v : Nat → Word) =>
      c.Reaches s .both (fun x => host || !onHost x) true w.bytes c.onLanes ea loc →
        c.Issues s s i (c.onLanes.map (fun l => laneAccess l (loc l) w.bytes (ord (loc l).1)
          (.atomic op w (c.g.dstIndex l d) (v l) (third l)))) (c.zeroed d) (c.onLanes.map (fun l => (l, ea l)))
    let two := fun (i : Instr) (op : AtomOp) (w : Width) (host : Bool) => issues i op w (fun _ => 0) host (fun l => c.read l b)
    let three := fun (i : Instr) (op : AtomOp) (host : Bool) => issues i op w (fun l => c.read l (c.fourth d)) host (fun l => c.read l b)
    let staged := fun (i : Instr) (x : TellerKind) =>
      c.Reaches s .both (fun x => !onHost x) false 4 c.onLanes ea loc → c.blk.cfg.det = true →
      c.blk.teller.length + c.onLanes.length ≤ 512 →
      ∃ t q, exec i s = .next t ∧ SameBytes s t ∧ t.block? c.iss.core = some q ∧
        q.teller = c.blk.teller ++ c.onLanes.mapIdx (fun j l =>
          TellerEntry.mk x 4 (BitVec.ofNat 56 (ea l)) (BitVec.ofNat 64 ((c.read l b).toNat % 2 ^ 32)) c.g.flush l c.iss.gang (c.g.stagedSeq + j))
    (c.Ok [d.src, a, b] →
      two (.aadd wide sem d a b) .aadd w true ∧ two (.axch wide sem d a b) .axch w true ∧
      two (.aand wide sem d a b) .aand w false ∧ two (.aor wide sem d a b) .aor w false ∧ two (.axor wide sem d a b) .axor w false ∧
      two (.aminI wide sem d a b) .aminI w false ∧ two (.amaxI wide sem d a b) .amaxI w false ∧
      two (.aminN wide sem d a b) .aminN w false ∧ two (.amaxN wide sem d a b) .amaxN w false ∧
      two (.aincw wide sem d a b) .aincw w false ∧ two (.adecw wide sem d a b) .adecw w false ∧
      (c.blk.cfg.det = false → two (.fadda sem d a b) .fadda .b32 false ∧ two (.amaxm sem d a b) .amaxm .b32 false) ∧
      staged (.fadda sem d a b) .fadda ∧ staged (.amaxm sem d a b) .amaxm) ∧
    (c.Ok [d.src, a, b, c.fourth d] → three (.acas wide sem d a b) .acas true ∧ three (.aaddb wide sem d a b) .aaddb false) ∧
    (c.Ok [d.src, a] → issues (.amaxrs sem d a) .amaxrs .b32 (fun _ => 0) false (fun _ => 0))) ∧
  (∀ (n : Nat) (x v k : BitVec n), 0 < n →
    let gives := fun (op : AtomOp) (r : BitVec n) => atomNew op n x.toNat v.toNat k.toNat = r.toNat
    gives .aadd (x + v) ∧ gives .aand (x &&& v) ∧ gives .aor (x ||| v) ∧ gives .axor (x ^^^ v) ∧ gives .axch v ∧
    gives .acas (if x = k then v else x) ∧ gives .aminI (if v.slt x then v else x) ∧ gives .amaxI (if x.slt v then v else x) ∧
    gives .aminN (if v < x then v else x) ∧ gives .amaxN (if x < v then v else x) ∧ gives .aincw (if v ≤ x then 0 else x + 1) ∧
    gives .adecw (if x = 0 ∨ v < x then v else x - 1) ∧
    gives .aaddb (if x.toNat + v.toNat ≤ k.toNat then x + v else x)) ∧
  (∀ x v k : Nat, atomNew .fadda 32 x v k = fAdd fmtF32 .rne x v ∧
    atomNew .amaxm 32 x v k = (if (fmtF32.val x).isNan || (fmtF32.val v).isNan then 0x7FC00000 else max (x % 2 ^ 31) (v % 2 ^ 31)) ∧
    atomNew .amaxrs 32 x v k = 0)

/-- What a lane's load of a byte takes from the commit buffer of a deterministic launch, for every block, load, lane and byte: where the last entry on that byte that the lane had staged before the load, and that is not yet applied, is a store, that store's byte; where there is none, nothing, so that the byte comes from its home; and where the last such entry is an atomic, nothing or the latest staged store's byte. Entries of other lanes and gangs do not count, nor those staged after the load. Which of the two an atomic leaves is the model's free choice (log entry 9). tlast is 0 in a new gang. tcommit reads t, the low 32 bits of a in the lowest active lane. When t is not above tlast it completes with the commit stage empty, and nothing to perform. When t is above tlast and every staged block reaches package memory, it issues every staged reduce-store, in staging order, as a write at its place in its lanes' program order, sets tlast to t and leaves the commit stage empty. Either way it leaves an operation that counts in flag A, and no other state of the gang changes. That accesses that meet are performed in the order of the operation's list is stated apart. -/
def Obligations.StagedStoresAreSeenAndTilesCommitOnce : Prop :=
  (∀ (b : Block) (f : Forward) (lane i : Nat),
    let a := f.va + i
    let mine := sortBy (fun p q => decide (p.seq ≤ q.seq)) (b.teller.filter (fun e =>
      e.gang = f.gang && e.lane = lane && decide (e.seq < f.before) && decide (e.addr.toNat ≤ a) && decide (a < e.addr.toNat + e.size)))
    let byte := fun (e : TellerEntry) => (BitVec.ofNat 8 (e.data.toNat / 2 ^ (8 * (a - e.addr.toNat))) : Byte)
    let got := b.forwardByte f lane i
    ((∀ e ∈ b.teller, e.gang = f.gang → e.lane = lane → e.seq < f.before → a < e.addr.toNat ∨ e.addr.toNat + e.size ≤ a) → got = none) ∧
    ∀ ini e, mine = ini ++ [e] →
      (∀ x ∈ ini, x.seq ≤ e.seq) ∧ (∀ x, x ∈ ini ∨ x = e ↔ x ∈ b.teller ∧ x.gang = f.gang ∧ x.lane = lane ∧ x.seq < f.before ∧
        e.addr.toNat ≤ a ∧ x.addr.toNat ≤ a ∧ a < x.addr.toNat + x.size) ∧
      (e.kind = .store → got = some (byte e)) ∧
      (e.kind ≠ .store → got = none ∨ ∃ y ∈ ini, y.kind = .store ∧ (∀ z ∈ ini, z.kind = .store → z.seq ≤ y.seq) ∧ got = some (byte y))) ∧
  (({} : Gang).tlast = 0 ∧
  ∀ (s : State) (c : Ctx) (a : Src) (loc : Nat → Loc × Bool), ctx? s = some c → c.Ok [a] →
    let t := (c.read c.low a).setWidth 32
    let bs := c.g.commit.flatMap (fun e => (List.range (e.nm1 + 1)).map (fun j => (e.res + 256 * j, e.va.toNat + 2048 * j)))
    (t.toNat ≤ c.g.tlast.toNat →
      GoesOn s (.tcommit a) (({ c.g with commit := [] } : Gang).addOp { c.outstanding [] [] with isWrite := true, asid := none })) ∧
    (c.g.tlast.toNat < t.toNat → c.Reaches s .both Loc.isPkg true 2048 (List.range bs.length) (fun j => (bs.getD j (0, 0)).2) loc (lanes := fun _ => c.iss.active) →
      GoesOn s (.tcommit a) (({ c.g with commit := [], tlast := t } : Gang).addOp
        { c.outstanding (c.via s ((List.range bs.length).map (fun j =>
            planeAccess c.low c.iss.active (loc j) (.reduce (8 * (bs.getD j (0, 0)).1)))) (bs.map (fun b => (c.low, b.2)))) [] with isWrite := true })))

/-- What performing one access of an operation does, where the core's L1 holds no line, no tower holds a copy of one, no update is on its way and no store is posted: a load (an acquire, a memory-side one too) leaves the module as it was and gives its register the little-endian bytes of its place, zero- or sign-extended, each byte that its lane's own staged entries, not yet applied, supply in place of the home's; a store writes its bytes at its place; an atomic writes its function of the value there and of its operands, gives its register the old value, and aaddb clears the lane's m7 bits or sets them where the sum stays within the bound; a residue transfer moves its block between memory and the residue scratchpad, a retired channel's planes as zeros; a reduce-add writes each byte's sum modulo its channel's modulus; a leaf is recorded for its element and rank. Its results wait in the operation. Whenever nothing takes effect at once, the next turn of the module may be to perform any one access of any outstanding operation (R130, R131). Where it writes, those of its operation that share a byte with it are performed with it, in lane order (R186); the operation keeps the rest. It is not performed, and the step changes nothing, while an operation that issued before it in the gang still has to perform an access that is ordered before it: one of a common lane that shares a byte with it (R132 item 1), or is in the scratchpads' order as it is (R143), or is an acquire (item 2), or before which it is a release (item 3), peer and host accesses only at domain scope (R144); nor while its tower has an older request to the same 256-byte line of a peer (R361), nor, where it writes, while the tower has posted a store to its bytes. A release at domain scope performs the tower's posted stores first. A completion performs what is left of an operation, under the same condition, and does not happen otherwise. That turns give the order is the model's form of that freedom (log entry 4). -/
def Obligations.AccessesArePerformedOneByOneInOrder : Prop :=
  (∀ (s : State) (core lane : Nat) (lanes : LaneBits) (b : Block) (o : Op) (loc : Loc) (n : Nat) (ord : MemOrder) (direct async : Bool) (grain gi turn : Nat)
      (via : Nat × Nat),
    s.block? core = some b → b.rs.wf = true → (s.core core).l1 = [] → (∀ t ∈ s.towers, t.copies = [] ∧ t.inbox = [] ∧ t.posted = []) →
    let acc := fun (sp : Spot) (act : AccAct) => Access.mk lane lanes sp n act ord direct async grain turn via
    let does := fun (sp : Spot) (act : AccAct) (t : State) (p : Op) => State.performOne core gi (s, o) (acc sp act) = (t, p)
    let gets := fun (reg : Option Nat) (v : Word) => ({ o with regs := o.regs ++ match reg with
      | some r => [{ lane := lane, reg := r, value := v }]
      | none => [] } : Op)
    let ret := retiredChannel s core
    let planes := fun (r : Nat) => (List.range n).map (fun i => if ret = some ((r + i) / 256 % 8) then 0 else cellGet b.rs (r + i))
    (∀ (w : Width) (sgn : Bool) (reg : Option Nat) (own : Option Forward),
      let value := fun (bs : List Byte) =>
        let m := ofLeBytes (bs.mapIdx (fun i v => match own.bind (fun f => b.forwardByte f lane i) with | some x => x | none => v))
        if sgn then (BitVec.ofNat w.bits m).signExtend 64 else BitVec.ofNat 64 m
      n = w.bytes →
      does (.vm loc) (.load w sgn reg own) s (gets reg (value (s.readLoc loc n))) ∧
      (∀ m y x, s.block? m = some y → does (.ds m x) (.load w sgn reg own) s (gets reg (value (cellGetList y.ds x n))))) ∧
    (∀ bs : List Byte, does (.vm loc) (.store bs) (s.writeHome loc bs) o ∧
      (∀ m x, does (.ds m x) (.store bs) (s.storeDs m x bs) o)) ∧
    (∀ (op : AtomOp) (w : Width) (reg : Option Nat) (v k : Word),
      let x := ofLeBytes (s.readLoc loc w.bytes)
      let v' := v.toNat % 2 ^ w.bits
      let k' := k.toNat % 2 ^ w.bits
      does (.vm loc) (.atomic op w reg v k) (s.writeHome loc (leBytes w.bytes (atomNew op w.bits x v' k')))
        (if op = .aaddb then { gets reg (BitVec.ofNat 64 x) with
            masks := o.masks ++ [(7, laneMask lane, if x + v' ≤ k' then laneMask lane else 0)] }
          else gets reg (BitVec.ofNat 64 x))) ∧
    (∀ r : Nat,
      does (.vm loc) (.fill r) (s.setBlock core (b.rsStore ret r (s.readLoc loc n))) o ∧
      does (.vm loc) (.spill r) (s.writeHome loc (planes r)) o ∧
      does (.vm loc) (.reduce r) (s.writeHome loc ((List.range n).map (fun i =>
        (BitVec.ofNat 8 ((((s.readLoc loc n).getD i 0).toNat + ((planes r).getD i 0).toNat) %
          [223, 227, 229, 233, 239, 241, 251, 255].getD ((loc.addr % 2048 + i) / 256) 255) : Byte)))) o) ∧
    (∀ m y x rank e, s.block? m = some y →
      does (.ds m x) (.leaf rank e) s { o with group := o.group.map (fun j =>
        { j with leaves := j.leaves ++ [(lane, e, rank, ofLeBytes (cellGetList y.ds x n))] }) })) ∧
  (∀ (s : State) (n gi id : Nat) (g : Gang) (o : Op), s.gang? n gi = some g → g.openOps.find? (·.id == id) = some o →
    let share := fun (x y : Access) => ∃ p ∈ x.spots, ∃ q ∈ y.spots, p.meets x.n q y.n = true
    let near := fun (x y : Access) => x.spot.far = false ∧ y.spot.far = false
    let before := fun (x : Access) => ∃ p ∈ g.ops, p.id < id ∧ ∃ y ∈ p.todo, (∃ l, y.lanes.getLsbD l = true ∧ x.lanes.getLsbD l = true) ∧
      (share y x ∨ (y.inScratch = true ∧ x.inScratch = true) ∨ (y.ord.acq = true ∧ (y.ord.scope = .dom ∨ near y x)) ∨
        (x.ord.rel = true ∧ (x.ord.scope = .dom ∨ near y x)))
    let older := fun (x : Access) => ∃ d b h i q y m a e, d / 32 = n / 32 ∧ s.block? d = some b ∧ b.gangs[i]? = some h ∧ q ∈ h.openOps ∧
      ¬ (d = n ∧ i = gi ∧ q.id = id) ∧ y ∈ q.todo ∧ y.turn < x.turn ∧ x.spot = .vm (.peer m a) ∧ y.spot = .vm (.peer m e) ∧
      a / 256 * 256 < e + y.n ∧ e / 256 * 256 < a + x.n
    let posted := fun (x : Access) => x.writes = true ∧ ∃ p ∈ (s.tower (n / 32)).posted, ¬ (p.core = n ∧ p.gang = gi ∧ p.op = id) ∧ share p.acc x
    let waits := fun (x : Access) => before x ∨ older x ∨ posted x
    let own := fun (p : Posted) => p.core == n && p.gang == gi && p.op == id
    let flushed := fun (t : State) (xs : List Access) =>
      if xs.any (fun x => x.ord.rel && x.ord.scope == .dom) then t.flushPosted (n / 32) own else t
    (∀ (k : Nat) (x : Access) (r : List Turn), o.todo[k]? = some x → s.second = none → atOnce s = none →
      s.turns = .perform n gi id k :: r →
      let s' : State := { s with turns := r }
      (x.writes = false → waits x → step s = .next s') ∧
      (x.writes = false → ¬ waits x →
        let p := State.performOne n gi (flushed s' [x], o) x
        step s = .next ((p.1.modGang n gi (·.setOp { p.2 with todo := o.todo.filter (fun y => y != x) })).wakeGang n gi)) ∧
      (x.writes = true →
        let xs := o.todo.filter (fun y => y.meets x)
        ((∃ y ∈ xs, waits y) → step s = .next s') ∧
        ((∀ y ∈ xs, ¬ waits y) →
          let p := xs.foldl (State.performOne n gi) (flushed s' xs, o)
          step s = .next ((p.1.modGang n gi (·.setOp { p.2 with todo := o.todo.filter (fun y => !xs.contains y) })).wakeGang n gi)))) ∧
    (o.kind = .memory → o ∈ g.ops →
      ((∃ x ∈ o.todo, waits x) → exec (.memoryOperationComplete n gi id) s = .next s) ∧
      ((∀ x ∈ o.todo, ¬ waits x) →
        let p := o.todo.foldl (State.performOne n gi) (flushed s o.todo, o)
        exec (.memoryOperationComplete n gi id) s = .next ((p.1.modGang n gi (fun g =>
          ((((g.dropOp o.id).writeRegs (p.2.regs ++ p.2.group.elim [] GroupJob.results)).writeMasks p.2.masks).settle))).wakeGang n gi))))

/-- A fence completes at once unless an outstanding operation has still to perform an access of one of its lanes that it waits for: one that reads, and for rel, ar and sc one that writes too, those on peer and host memory only at domain scope, where it also waits for the completions of earlier stores to peers; mxfence completes at once unless an access that writes a scratchpad is still to be performed, in the gang's operations or in a word held on a peer's memory; mxwait unless a slot has matrix words outstanding or an encode or drain write is. Otherwise their lanes are held, and go on with the turn that ends the wait. A fence that releases at domain scope first performs the tower's posted stores; one that acquires does so at its scope (its effect is said for when none is posted); an sc fence at device scope or wider joins the order of all such, and a release passes on what its tower knows of (log entry 7); an mxfence marks the scratchpad writes that every later mxm of the gang sees. mxrel completes, and the lease is free if this gang held it. An acquire at ensemble scope or wider empties the core's L1, at domain scope the tower's copies of peer and host lines go, and after it no update is on its way to the tower that its parties have heard of, nor, at device scope or wider, one that precedes the release it meets. At a release by some lanes of a gang that is no access of memory (an arrival at a barrier, a push, a request for a generation, the end of a section, an escrow: R137, R205, R206), every access to package memory or a scratchpad that an outstanding operation of the gang has still to perform for one of those lanes is performed first, the operations remaining outstanding until they complete; with nothing left to perform, no copy of a line in any tower and no word held, the module is as it was. The gang is there as before, its lanes at their words. -/
def Obligations.FencesAndReleasesWaitForTheirOperations : Prop :=
  ((∀ (g : Gang) (h : Held),
    (∀ sem sc, h.kind = .fence sem sc → (g.waitOver h = true ↔ ∀ o ∈ g.ops,
      (sc = .dom → sem ≠ .acq → o.peer = true → o.lanes &&& h.lanes = 0) ∧
      ∀ x ∈ o.todo, x.lanes &&& h.lanes ≠ 0 → (sem ≠ .acq ∨ x.reads = true) → sc ≠ .dom ∧ x.spot.far = true)) ∧
    (h.kind = .mxfence → (g.waitOver h = true ↔ (∀ o ∈ g.ops, ∀ x ∈ o.todo, x.toScratch = false) ∧
      ∀ y ∈ g.held, ∀ o vas, y.kind = .peer o vas → ∀ x ∈ o.todo, x.toScratch = false)) ∧
    (h.kind = .mxwait → (g.waitOver h = true ↔ (∀ x ∈ g.slots, x.prog = []) ∧ ∀ o ∈ g.ops, o.kind ≠ .enc ∧ o.kind ≠ .drainWrite))) ∧
  ∀ (s : State) (c : Ctx) (sc : Scope) (sem : Sem), ctx? s = some c →
    let held := fun (kind : HeldKind) => c.g.hold c.iss c.iss.active kind
    let waits := fun (i : Instr) (kind : HeldKind) (calm : Prop) (effect : State) (marks : Gang → Prop) =>
      exec i s = .next ((s.setGang c.iss.core c.iss.gang (held kind)).wakeGang c.iss.core c.iss.gang) ∧
      (c.g.held = [] → c.iss.active ≠ 0 →
        (calm → c.g.waitOver ⟨c.g.nextId, c.iss, c.iss.active, kind⟩ = true → ∃ g,
          exec i s = .next (effect.setGang c.iss.core c.iss.gang g) ∧ g.held = [] ∧ g.ops = c.g.ops ∧ marks g ∧
          ∀ l, l < c.g.lanes.length → g.lane l =
            if c.iss.active.getLsbD l then { (c.g.lane l).next c.iss.addr c.iss.words with wait := none } else c.g.lane l) ∧
        (c.g.waitOver ⟨c.g.nextId, c.iss, c.iss.active, kind⟩ = false →
          exec i s = .next (s.setGang c.iss.core c.iss.gang (held kind))))
    let t := c.iss.core / 32
    let total := sem = .sc ∧ (sc = .dev ∨ sc = .dom)
    let s2 := if sem ≠ .rel then s.acquireOn c.iss.core sc (if total then s.syncPub else []) else s
    let s3 := if total then s2.publish t else s2
    waits (.fence sc sem) (.fence sem sc) (sc = .dom → ∀ x ∈ s.towers, x.posted = []) (if sem ≠ .acq then s3.releaseFence t sc else s3)
      (fun _ => True) ∧
    waits .mxfence .mxfence True s (fun g => g.rsMark = c.blk.rsLog.length ∧ g.dsMark = c.blk.dsLog.length) ∧
    waits .mxwait .mxwait True s (fun _ => True) ∧
    exec .mxrel s = .next ((s.retire c.g).modBlock c.iss.core (fun b =>
      if b.lease.holder = some c.iss.gang then { b with lease := { b.lease with holder := none, count := 0 } } else b))) ∧
  (∀ (s : State) (n : Nat) (sc : Scope) (more : List Nat), n < s.cores.length → n / 32 < s.towers.length →
    let t := s.acquireOn n sc more
    let dev := sc = .dev ∨ sc = .dom
    (sc ≠ .gang → sc ≠ .block → (t.core n).l1 = []) ∧
    (sc = .dom → ∀ x ∈ (t.tower (n / 32)).copies, x.1.isPkg = true) ∧
    (∀ u ∈ (t.tower (n / 32)).inbox, u ∈ (s.tower (n / 32)).inbox ∧ (u.src < 8 →
      ¬ u.within (s.tower (n / 32)).heard ∧ (dev → ¬ u.within (s.tower (n / 32)).rumour ∧ ¬ u.within more))) ∧
    (∀ m, t.block? m = s.block? m) ∧ t.mem = s.mem ∧ t.hostMem = s.hostMem ∧ t.peerMem = s.peerMem) ∧
  (∀ (s : State) (n gi : Nat) (act : LaneBits) (dev : Bool) (b : Block) (g : Gang), s.block? n = some b → b.gangs[gi]? = some g →
    (g.ops.map (·.id)).Nodup →
    let t := s.releasePoint n gi act dev
    (∃ b' g', t.block? n = some b' ∧ b'.cfg = b.cfg ∧ b'.gangs[gi]? = some g' ∧ g'.ops.map (·.id) = g.ops.map (·.id) ∧
      (∀ o ∈ g'.ops, ∀ x ∈ o.todo, x.spot.far = false → x.lanes &&& act = 0) ∧
      (g.held = [] → g'.lanes = g.lanes ∧ g'.held = [])) ∧
    ((∀ o ∈ g.ops, o.todo = []) → s.copied = false → g.held = [] → t = s))

/-- An arrival is a release: in the state in which what its lanes have issued has been performed (stated apart), bar.b and bar.e hold their lanes; when the lanes held at the barrier are all the lanes of the block (of the ensemble's members) that have not exited, all of them go on, which is an acquire at block or ensemble scope, and the phase is the next, at bar.e with every member core's L1 invalidated (R111), else the arrivals are counted. bar.e in an ensemble with a present rank that is not live raises partner-lost. nbar takes the handle of the lowest active lane: without a live object it raises partner-lost, and on another tower than a tower-scope object's it raises access-violation, with no arrival; otherwise its lanes arrive in increasing order, each n-th arrival completes a phase and frees every lane waiting in an earlier one, an acquire at the object's scope as its own going on is, and the lanes left over wait in the phase then current. What TINFO holds at that access-violation is free (log entry 23). -/
def Obligations.BarriersReleaseTheirLanesWhenAllHaveArrived : Prop :=
  ∀ (s : State) (c : Ctx) (a : Src), ctx? s = some c →
    let u := s.releasePoint c.iss.core c.iss.gang c.iss.active false
    let at_ := fun (p : HeldKind → Bool) (g : Gang) => g.held.filter (fun h => p h.kind)
    let count := fun (p : HeldKind → Bool) (b : Block) => (b.gangs.map (fun g => ((at_ p g).map (fun h => (laneList h.lanes).length)).sum)).sum
    let live := fun (b : Block) => (b.gangs.map (fun g => (g.lanes.filter (fun l => !l.exited)).length)).sum
    let free := fun (p : HeldKind → Bool) (b : Block) => b.gangs.map (fun g => (at_ p g).foldl (fun g h => g.release h.id h.lanes) g)
    let isB := fun (k : HeldKind) => match k with | .barB _ => true | _ => false
    ∃ e : Ctx, ctx? u = some e ∧ e.iss = c.iss ∧ e.blk.cfg = c.blk.cfg ∧
    (let b := e.blk.setGang c.iss.gang (e.g.hold c.iss c.iss.active (.barB e.blk.barB.phase))
     exec .barB s = .next
      (if 0 < count isB b ∧ count isB b = live b then
        ((u.setBlock c.iss.core b).acquireSync c.iss.core .block).setBlock c.iss.core { b with gangs := free isB b, barB := ⟨e.blk.barB.phase + 1, 0⟩ }
       else u.setBlock c.iss.core { b with barB := ⟨e.blk.barB.phase, count isB b⟩ })) ∧
    (∀ r rs, s.deadRanks c.blk = r :: rs → Traps s .barE { cause := 0x0F, lane := lowLane c.iss.active, info := 0 }) ∧
    (s.deadRanks c.blk = [] →
      let b := e.blk.setGang c.iss.gang (e.g.hold c.iss c.iss.active (.barE e.blk.barE.phase))
      let s1 := u.setBlock c.iss.core b
      let ms := s1.membersOf c.blk.ensemble
      let sum := fun (f : Block → Nat) => ((ms.filterMap s1.block?).map f).sum
      let all := 0 < sum (count HeldKind.isBarE) ∧ sum (count HeldKind.isBarE) = sum live ∧ s1.deadRanks b = []
      ∃ t, exec .barE s = .next t ∧
        (∀ n b, n ∈ ms → s1.block? n = some b → (t.core n).l1 = (if all then [] else (s1.core n).l1) ∧ t.block? n = some
          (if all then { b with gangs := free HeldKind.isBarE b, barE := ⟨b.barE.phase + 1, 0⟩ }
           else { b with barE := ⟨b.barE.phase, count HeldKind.isBarE b⟩ })) ∧
        (∀ n, n ∉ ms → t.core n = u.core n) ∧ t = { u with cores := t.cores, towers := t.towers } ∧
        ((∀ x ∈ u.towers, x.inbox = []) → t.towers = u.towers)) ∧
    (c.Ok [a] →
      let h := c.read (lowLane c.iss.active) a
      (s.barrier? h = none → Traps s (.nbar a) { cause := 0x0F, lane := lowLane c.iss.active, info := 1 }) ∧
      ∀ t n, s.barrier? h = some (t, n) →
        (n.device = false → t ≠ c.iss.core / 32 → ∃ x, exec (.nbar a) s =
          .next (({ s with freshCount := s.freshCount + 1 } : State).trap { cause := 0x0C, lane := lowLane c.iss.active, info := x })) ∧
        (n.device = true ∨ t = c.iss.core / 32 →
          let total := n.arrived + (laneList c.iss.active).length
          let done := total / n.n
          let left := total % n.n
          let stay := if done = 0 then c.iss.active
            else laneSet (fun l => ((laneList c.iss.active).drop ((laneList c.iss.active).length - left)).contains l)
          let sc : Scope := if n.device then .dev else .tower
          let s1 := ((s.releasePoint c.iss.core c.iss.gang c.iss.active n.device).setNBar t
            { n with phase := n.phase + done, arrived := left }).releaseBarrier h sc (n.phase + done)
          exec (.nbar a) s = .next ((if stay = c.iss.active then s1 else s1.acquireSync c.iss.core sc).modGang c.iss.core c.iss.gang (fun g =>
            if stay = 0 then g.advance c.iss c.iss.active
            else (g.advance c.iss (c.iss.active &&& ~~~stay)).hold c.iss stay (.nbar h (n.phase + done))))))

/-- nbnew gives every active lane 0, and creates nothing, when the lowest active lane's request has a zero count or a bit above 32, or no entry of the tower's table is free; otherwise the object takes the lowest free entry and the tower's next serial number, with the count and scope of the request, and every active lane receives its handle: serial, scope, tower and index in their fields. nbfree completes; where its handle names a live object, the object is gone, and each lane held at it takes partner-lost. Which free entry and which serial number a new object takes is the model's choice (log entry 68, DESIGN CHOICE). -/
def Obligations.NamedBarriersAreCreatedAndFreed : Prop :=
  ∀ (s : State) (c : Ctx) (d : Dst) (a : Src), ctx? s = some c →
    (c.Ok [d.src, a] →
      let r := (c.read (lowLane c.iss.active) a).toNat
      let t := c.iss.core / 32
      let free := fun (i : Nat) => i < 64 ∧ ∀ n ∈ (s.tower t).nbars, n.index ≠ i
      let n := fun (i : Nat) => ({ index := i, serial := (s.tower t).nextSerial, device := decide (2 ^ 32 ≤ r), n := r % 2 ^ 32, lid := c.blk.cfg.lid, block := c.blk.cfg.index } : NBar)
      (((∀ i, ¬ free i) ∨ r % 2 ^ 32 = 0 ∨ 2 ^ 33 ≤ r) → c.GivesLane s (.nbnew d a) d (fun _ => 0)) ∧
      (∀ i, free i → (∀ j, j < i → ¬ free j) → r % 2 ^ 32 ≠ 0 → r < 2 ^ 33 →
        exec (.nbnew d a) s = .next ((s.modTower t (fun x => { x with nbars := x.nbars ++ [n i], nextSerial := x.nextSerial + 1 })).retire
          (c.g.writeDst c.iss.active d (fun _ => BitVec.ofNat 64
            ((s.tower t).nextSerial * 2 ^ 16 + (if 2 ^ 32 ≤ r then 2 ^ 9 else 0) + t * 2 ^ 6 + i)))))) ∧
    (c.Ok [a] →
      let h := c.read (lowLane c.iss.active) a
      let s1 := s.retire c.g
      (s1.barrier? h = none → GoesOn s (.nbfree a) c.g) ∧
      ∀ t n, s1.barrier? h = some (t, n) →
        let s2 := s1.modTower t (fun x => { x with nbars := x.nbars.filter (fun y => y.serial != n.serial) })
        exec (.nbfree a) s = .next (State.deliver deliverFuel (s2.notices (fun _ => true) (HeldKind.onBarrier [h]) 0x0F 1) s2))

/-- secin, an acquire, at depth 0 takes E = G and counts the gang in the count of G's parity, and at any depth adds one to it up to 65535; secout takes one from a depth above 0, uncounting the gang from E's parity as it reaches 0, and does nothing at depth 0; it and clreq are releases, before which what their lanes have issued is performed; clreq gives every active lane G + 1 and makes that generation pending, or queues it where one is pending; clwait, an acquire, goes on where D has reached its generation, traps with 0x10 inside a section entered before it, and holds its lanes otherwise. After each, the device clears a pending generation G while the count of the other parity is 0: D = G, and a queued request makes G + 1 pending; lanes held for a generation up to D go on, which is an acquire on their cores. -/
def Obligations.ClearingFollowsItsCounters : Prop :=
  (∀ p : Partition,
    let ready := fun (q : Partition) => q.pend = true ∧ (if (q.gen - 1).toNat % 2 = 0 then q.c0 else q.c1) = 0
    (¬ ready p → Partition.clear 3 p = p) ∧
    (ready p → p.queued = false → Partition.clear 3 p = { p with done := p.gen, pend := false }) ∧
    (ready p → p.queued = true →
      let q := { p with done := p.gen, queued := false, gen := p.gen + 1 }
      (¬ ready q → Partition.clear 3 p = q) ∧ (ready q → Partition.clear 3 p = { q with done := q.gen, pend := false }))) ∧
  (∀ (s : State) (n : Fin 16) (q : Partition),
    let t := s.setClearing n q
    let cleared := fun (h : Held) => match h.kind with | .clwait x => decide (x.toNat ≤ (Partition.clear 3 q).done.toNat) | _ => false
    t = { s with parts := s.parts.set n.val (some (Partition.clear 3 q)), cores := t.cores, towers := t.towers } ∧
    ((∀ x ∈ s.towers, x.inbox = []) → t.towers = s.towers) ∧ t.cores.length = s.cores.length ∧
    ∀ m, m < s.cores.length → t.core m = match (s.core m).block with
      | none => s.core m
      | some b =>
        if b.cfg.part = n ∧ b.gangs.any (fun g => g.held.any cleared) = true then
          { s.core m with l1 := [], block := some { b with gangs := b.gangs.map (fun g =>
              (g.held.filter cleared).foldl (fun g h => g.release h.id h.lanes) g) } }
        else s.core m) ∧
  ∀ (s : State) (c : Ctx) (d : Dst) (a : Src) (p : Partition), ctx? s = some c → s.partition? c.blk.cfg.part.val = some p →
    let n := c.blk.cfg.part
    let got := s.acquireSync c.iss.core .dev
    let u := s.releasePoint c.iss.core c.iss.gang c.iss.active true
    let bump := fun (g : Word) (f : BitVec 32 → BitVec 32) => if g.toNat % 2 = 0 then { p with c0 := f p.c0 } else { p with c1 := f p.c1 }
    (c.g.depth = 0 → exec .secin s = .next ((got.retire { c.g with depth := 1, entryGen := p.gen }).setClearing n (bump p.gen (· + 1)))) ∧
    (0 < c.g.depth → exec .secin s = .next (got.retire { c.g with depth := min 65535 (c.g.depth + 1) })) ∧
    (c.g.depth = 0 → GoesOn s .secout c.g) ∧
    (c.g.depth = 1 → ∃ e, ctx? u = some e ∧ e.iss = c.iss ∧
      exec .secout s = .next ((u.retire { e.g with depth := 0 }).setClearing n (bump c.g.entryGen (· - 1)))) ∧
    (1 < c.g.depth → GoesOn s .secout { c.g with depth := c.g.depth - 1 }) ∧
    (c.Ok [d.src] → ∃ e, ctx? u = some e ∧ e.iss = c.iss ∧
      exec (.clreq d) s = .next ((u.retire (e.g.writeDst c.iss.active d (fun _ => p.gen + 1))).setClearing n
        (if p.pend then { p with queued := true } else { p with gen := p.gen + 1, pend := true }))) ∧
    (c.Ok [a] →
      let g := c.read (lowLane c.iss.active) a
      (g.toNat ≤ p.done.toNat → exec (.clwait a) s = .next (got.retire c.g)) ∧
      (p.done.toNat < g.toNat → 0 < c.g.depth → c.g.entryGen.toNat < g.toNat →
        Traps s (.clwait a) { cause := 0x10, lane := lowLane c.iss.active, info := g.toNat }) ∧
      (p.done.toNat < g.toNat → (c.g.depth = 0 ∨ g.toNat ≤ c.g.entryGen.toNat) →
        exec (.clwait a) s = .next (s.setGang c.iss.core c.iss.gang (c.g.hold c.iss c.iss.active (.clwait g)))))

/-- monw, its addresses readable, holds each enabled lane until its condition is met, and the other lanes go on, a zeroed one with 0. escrow, a release before which what its lanes have issued is performed, makes one request for a generation, and each active lane with a nonzero address appends its address, tag and that generation to the ring and to its place in memory, in lane order; a ring without room for all of them raises escrow-full first. escpop, an acquire, gives each active lane in turn the address and tag of the released entry with the least stamp, the first appended among equals, which leaves the ring, or 0 where none is released. dflush in a deterministic launch adds one to the gang's flush count after everything its lanes have issued is performed, and does nothing otherwise. -/
def Obligations.MonitorsEscrowAndFlush : Prop :=
  (∀ p : Partition,
    ((∀ e ∈ p.ring, p.done.toNat < e.stamp.toNat) → p.takeEscrow = none) ∧
    (∀ pre e post, p.ring = pre ++ e :: post → e.stamp.toNat ≤ p.done.toNat →
      (∀ x ∈ pre, e.stamp.toNat < x.stamp.toNat) → (∀ x ∈ post, e.stamp.toNat ≤ x.stamp.toNat) →
      p.takeEscrow = some (BitVec.ofNat 64 (e.addr.toNat + e.tag.toNat * 2 ^ 56), { p with ring := p.ring.filter (fun x => x.seq != e.seq) })) ∧
    takeEscrows [] p = ([], p) ∧
    ∀ l ls, takeEscrows (l :: ls) p =
      let (v, q) := (p.takeEscrow).getD (0, p)
      ((l, v) :: (takeEscrows ls q).1, (takeEscrows ls q).2)) ∧
  ∀ (s : State) (c : Ctx) (wide : Bool) (k : Cond) (d : Dst) (a b : Src) (loc : Nat → Loc × Bool) (p : Partition),
    ctx? s = some c → s.partition? c.blk.cfg.part.val = some p →
    let w : Width := if wide then .b64 else .b32
    let u := s.releasePoint c.iss.core c.iss.gang c.iss.active true
    (c.Ok [d.src, a, b] → c.Reaches s .read (fun _ => true) true w.bytes c.onLanes (fun l => (c.read l a).toNat) loc →
      let on := laneSet (fun l => c.onLanes.contains l)
      let g := (c.g.writeRegs (c.zeroed d)).advance c.iss (c.iss.active &&& ~~~on)
      let es := c.onLanes.map (fun l =>
        ({ lane := l, reg := c.g.dstIndex l d, va := (c.read l a).toNat, v := c.read l b } : MemElem))
      exec (.monw wide k d a b) s = .next (s.setGang c.iss.core c.iss.gang (if on = 0 then g else g.hold c.iss on (.monw w k es)))) ∧
    (c.Ok [a, b] →
      let xs := (c.lanes.map (fun l => ((c.read l a).setWidth 56, (c.read l b).setWidth 8))).filter (fun x => x.1 != 0)
      let gen := p.gen + 1
      let q := if p.pend then { p with queued := true } else { p with gen := p.gen + 1, pend := true }
      (2 ^ p.escLog2 < p.ring.length + xs.length → Traps s (.escrow a b) { cause := 0x11, lane := lowLane c.iss.active }) ∧
      (p.ring.length + xs.length ≤ 2 ^ p.escLog2 → ∃ e, ctx? u = some e ∧ e.iss = c.iss ∧ exec (.escrow a b) s = .next
        (((List.range xs.length).foldl (fun (v : State) j =>
          let x := xs.getD j (0, 0)
          v.writePkg (p.escBase + 16 * ((p.appended + j) % 2 ^ p.escLog2)) (leBytes 7 x.1.toNat ++ [x.2] ++ leBytes 8 gen.toNat)) (u.retire e.g)).setClearing
          c.blk.cfg.part { q with appended := p.appended + xs.length, ring := p.ring ++ xs.mapIdx (fun j x => ⟨p.appended + j, x.1, x.2, gen⟩) }))) ∧
    (c.Ok [d.src] → exec (.escpop d) s = .next (((s.acquireSync c.iss.core .dev).retire (c.g.writeDst c.iss.active d (fun l =>
      ((takeEscrows c.lanes p).1.lookup l).getD 0))).setPartition c.blk.cfg.part.val (takeEscrows c.lanes p).2)) ∧
    (c.blk.cfg.det = false → GoesOn s .dflush c.g) ∧
    (c.blk.cfg.det = true →
      let u := s.performBefore c.iss.core c.iss.gang (BitVec.allOnes 32) true
      ∃ e, ctx? u = some e ∧ e.iss = c.iss ∧ exec .dflush s = .next (u.retire { e.g with flush := e.g.flush + 1 }))

/-- On a slot of the block with fewer than 16 words outstanding, all 32 lanes active and every voted operand the same in all: mxclr empties the slot's sums, bound and scales and takes its place in the slot's order; mxm, the lease its own or free to it, a well-formed format and its tiles inside the scratchpads, aligned and readable, and its scale bytes those recorded if any are, records the scales, adds K times the two classes' greatest magnitudes to the bound (saturating), after a clear if bit 16 asks for one, and takes its place; with other scales it raises scale-mismatch, holding the lease, TINFO naming the first byte that differs, its vector and the slot (R306). A format word, tile or encode descriptor or drain control with a reserved bit set, a class, K, format, rounding field or stride out of its range raises format-illegal. mxdrn, mxdrs (to the scratchpad or to memory) and mxgsum hold their lanes. enc leaves an operation of flag B with the stores of the tile's residues and of the exponents still to perform, and each lane's status to write. For each of them lanes missing raise illegal-convergence, and for mxm, mxdrs and enc a differing voted operand format-divergence, naming the first such operand and its lowest lane that differs from lane 0. An mxm whose lease is another gang's waits for it. A scale byte that no mxfence of the gang covers reads as before or after each write since (R146; which is free, log entry 18). asyr gives the tower's count of the channel. -/
def Obligations.MatrixWordsAtIssue : Prop :=
  ∀ (s : State) (c : Ctx) (n : Fin 8) (d : Dst) (f a b : Src), ctx? s = some c →
    let all := c.iss.active = BitVec.allOnes 32
    let slotIn := n.val < c.blk.cfg.slots
    let x := c.g.slot n.val
    let room := slotIn ∧ x.prog.length + (c.g.ops.filter (fun o => o.slot == some n.val)).length < 16
    let cl := c.g.clausesOf c.iss.active
    let same := fun (r : Src) => ∀ l, l < 32 → c.read l r = c.read 0 r
    let cleared : Slot := { x with res := [], bound := 0, scales := none, prog := x.prog.map (fun p => { p with live := false }) }
    let drains := fun (i : Instr) (j : DrainJob) => exec i s = .next (s.setBlock c.iss.core
      { c.blk.setGang c.iss.gang (c.g.hold c.iss c.iss.active (.drain { j with ord := c.blk.drains })) with drains := c.blk.drains + 1 })
    let dst := c.lanes.filterMap (fun l => (c.g.dstIndex l d).map (fun r => (l, r)))
    let V := fun (r : Src) => (c.read 0 r).toNat
    let lanesMissing := fun (i : Instr) => ¬ all → Traps s i { cause := 0x05, lane := lowLane c.iss.active }
    let illFormed : Trap := { cause := 0x07 }
    let differs := fun (rs : List Src) (i : Instr) (u : State) => ∀ pre r post m, rs = pre ++ r :: post → (∀ q ∈ pre, same q) →
      FirstLane (List.range 32) (fun m => c.read m r ≠ c.read 0 r) m →
        exec i s = .next (u.trap { cause := 0x06, lane := m, info := srcCode r })
    (room → lanesMissing (.mxclr n) ∧ lanesMissing (.mxgsum n) ∧
      (c.Ok [d.src] → ∀ p o ren rm, lanesMissing (.mxdrn n d p o ren rm)) ∧ (c.Ok [d.src, a, b] → lanesMissing (.mxdrs n d a b))) ∧
    (∀ t cls v, c.Ok [d.src, b] → lanesMissing (.enc t cls d v b) ∧ (all → differs [b] (.enc t cls d v b) s)) ∧
    (c.Ok [d.src, a, b] → room → all → differs [a, b] (.mxdrs n d a b) s) ∧
    (room → all → GoesOn s (.mxclr n) (c.g.setSlot n.val ({ cleared with
      prog := (cleared.prog ++ [({ kind := .mxclr, clauses := cl } : Prog)]).dropWhile (fun p => p.kind == ProgKind.mxclr) } : Slot))) ∧
    (∀ fresh res sc, c.scaleBytes fresh ⟨res, none⟩ = List.replicate 32 0 ∧ ∀ i, i < 32 →
      let v := (c.scaleBytes fresh ⟨res, some sc⟩).getD i 0
      v = cellGet c.blk.ds (sc + i) ∨ ∃ e ∈ c.blk.dsLog.take (c.blk.dsLog.length - c.g.dsMark), e.1 ≤ sc + i ∧ e.2[sc + i - e.1]? = some v) ∧
    (c.Ok [f, a, b] → room →
      let l := c.blk.lease
      let g := c.iss.gang
      let mine := (l.holder = some g ∧ l.count < 64) ∨ (l.holder = none ∧ (l.waiting = [] ∨ l.waiting.head? = some g))
      let s1 := s.setBlock c.iss.core { c.blk with lease :=
        { holder := some g, waiting := if l.holder = none then l.waiting.drop 1 else l.waiting,
          count := if l.holder = none then 1 else if l.count = 63 ∧ l.waiting = [] then 0 else l.count + 1 } }
      (¬ mine → exec (.mxm n f a b) s = .next ((s.setBlock c.iss.core { c.blk with lease := { l with
        waiting := if g ∈ l.waiting then l.waiting else l.waiting ++ [g] } }).awaitLease c.g)) ∧
      (mine → ¬ all → exec (.mxm n f a b) s = .next (s1.trap { cause := 0x05, lane := lowLane c.iss.active })) ∧
      (mine → all →
      let k := bitsOf (V f) 47 32
      let unit := bitsOf (V f) 17 17 = 1
      let clr := bitsOf (V f) 16 16 = 1
      let format := bitsOf (V f) 63 48 = 0 ∧ bitsOf (V f) 31 18 = 0 ∧ bitsOf (V f) 15 8 = 0 ∧ k % 8 = 0 ∧ 0 < k ∧ k ≤ 4096
      let tile := fun (t : Nat) => bitsOf t 63 51 = 0 ∧ bitsOf t 31 24 = 0 ∧ bitsOf t 23 0 % 256 = 0 ∧ bitsOf t 23 0 + 32 * k ≤ 256 * c.blk.cfg.rsp ∧
        (unit ∨ (bitsOf t 50 32 % 32 = 0 ∧ bitsOf t 50 32 + 32 ≤ 1024 * c.blk.cfg.dsp ∧ c.blk.dsBad (bitsOf t 50 32) 32 = none))
      let scale := fun (t : Nat) => c.scaleBytes s.freshCount ⟨bitsOf t 23 0, if unit then none else some (bitsOf t 50 32)⟩
      let y : Slot := if clr then cleared else x
      let reserved := fun (t : Nat) => bitsOf t 63 51 ≠ 0 ∨ bitsOf t 31 24 ≠ 0
      let noClass := 4 ≤ bitsOf (V f) 3 0 ∨ 4 ≤ bitsOf (V f) 7 4
      let s2 := s1.usedFree c.blk.dsLog c.g.dsMark
      differs [f, a, b] (.mxm n f a b) s1 ∧
      (same f → same a → same b → ¬ format ∨ noClass ∨ reserved (V a) ∨ reserved (V b) → exec (.mxm n f a b) s = .next (s1.trap illFormed)) ∧
      (same f → same a → same b → format → tile (V a) → tile (V b) → ∀ ca cb, clsOf (bitsOf (V f) 3 0) = some ca → clsOf (bitsOf (V f) 7 4) = some cb →
        (y.scales = none ∨ y.scales = some (scale (V a), scale (V b)) → exec (.mxm n f a b) s = .next (s2.retire (c.g.setSlot n.val { y with
          scales := some (scale (V a), scale (V b))
          bound := BitVec.ofNat 64 (min (2 ^ 64 - 1) (y.bound.toNat + k * clsMax ca * clsMax cb))
          prog := y.prog ++ [{ kind := .mxm (c.read 0 f) (c.read 0 a) (c.read 0 b), clauses := cl, mark := c.g.rsMark }] }))) ∧
        (∀ p q i, ¬ clr → x.scales = some (p, q) → i < 32 →
          let first := fun (u v : List Byte) => u.getD i 0 ≠ v.getD i 0 ∧ ∀ m, m < i → u.getD m 0 = v.getD m 0
          let bad := fun (k : Nat) => exec (.mxm n f a b) s = .next (s2.trap { cause := 0x08, info := i + 32 * k + 64 * n.val })
          (first p (scale (V a)) → bad 0) ∧ ((∀ m, m < 32 → p.getD m 0 = (scale (V a)).getD m 0) → first q (scale (V b)) → bad 1))))) ∧
    (∀ (p : Fin 16) (o : Ofmt) (ren : Bool) (rm : RMode), c.Ok [d.src] → room → all → drains (.mxdrn n d p o ren rm)
      { slot := n.val, ofmt := ofmtCode o, mode := if ren then rm else .rne, part := some p.val, regs := dst }) ∧
    (c.Ok [d.src, a, b] → room → all → same a → same b →
      let w := V b
      let o := bitsOf w 2 0
      let row := if o = 0 then 128 else if o = 1 then 64 else if o = 4 then 36 else 32
      let al := if o = 0 ∨ o = 4 then 4 else if o = 1 then 2 else 1
      let st := bitsOf w 39 16
      let mode : RMode := if bitsOf w 4 4 = 0 then .rne else match bitsOf w 6 5 with | 0 => .rne | 1 => .rz | 2 => .rd | _ => .ru
      let control := bitsOf w 63 40 = 0 ∧ bitsOf w 15 7 = 0 ∧ (bitsOf w 6 5 = 0 ∨ bitsOf w 4 4 = 1) ∧ o < 5 ∧ row ≤ st ∧ st % al = 0
      (¬ control → exec (.mxdrs n d a b) s = .next (s.trap illFormed)) ∧
      (control → V a % al = 0 →
        (bitsOf w 3 3 = 0 → V a + (31 * st + row) ≤ 1024 * c.blk.cfg.dsp → drains (.mxdrs n d a b)
          { slot := n.val, ofmt := o, mode := mode, part := none, regs := dst, addr := V a, stride := st, virt := false }) ∧
        (bitsOf w 3 3 = 1 → V a + (31 * st + row) ≤ 2 ^ 56 →
          let walked := fun (va : Nat) => walk s (s.coreTlb c.iss.core) c.blk.cfg.asid va
          (∀ p ∈ piecesOf (V a) (31 * st + row), ∃ z h, walked p.1 = .ok z h ∧ h.allows c.blk.cfg.smode .write = true) →
          drains (.mxdrs n d a b)
            { slot := n.val, ofmt := o, mode := mode, part := none, regs := dst, addr := V a, stride := st, virt := true
              vias := (List.range 32).flatMap (fun i => (piecesOf (V a + i * st) row).map (fun p => topEntry (s.coreTlb c.iss.core) c.blk.cfg.asid p.1))
              locs := (List.range 32).flatMap (fun i => (piecesOf (V a + i * st) row).filterMap (fun p => match walked p.1 with
                | .ok z _ => some (z, p.2)
                | .fault _ => none)) }))) ∧
    (room → all → s.deadRanks c.blk = [] → exec (.mxgsum n) s = .next (s.setGang c.iss.core c.iss.gang
      ((c.g.setSlot n.val { x with gsums := x.gsums + 1 }).hold c.iss c.iss.active (.mxgsum n.val x.gsums)))) ∧
    (room → all → ∀ r rs, s.deadRanks c.blk = r :: rs → exec (.mxgsum n) s = .next ((s.setGang c.iss.core c.iss.gang
      ((c.g.setSlot n.val { x with gsums := x.gsums + 1 }).hold c.iss c.iss.active (.mxgsum n.val x.gsums))).trapAt
        c.iss.core c.iss.gang c.iss c.iss.active (some c.g.nextId) { cause := 0x12, info := 4 + r, held := true })) ∧
    (∀ (t : FFmt) (cls : Cls) (v : Fin 96), c.Ok [d.src, b] → all → same b →
      let w := V b
      let k := 8 * (bitsOf w 56 52 + 1)
      let per := match t with | .f32 => 2 | .bf16 => 4
      let base := c.g.wb + v.val
      (bitsOf w 63 57 ≠ 0 ∨ bitsOf w 51 51 ≠ 0 ∨ bitsOf w 31 24 ≠ 0 → exec (.enc t cls d v b) s = .next (s.trap illFormed)) ∧
      (bitsOf w 63 57 = 0 → bitsOf w 51 51 = 0 → bitsOf w 31 24 = 0 → base + k / per ≤ c.blk.cfg.allot →
      bitsOf w 50 32 % 32 = 0 → bitsOf w 50 32 + 32 ≤ 1024 * c.blk.cfg.dsp → bitsOf w 23 0 % 256 = 0 → bitsOf w 23 0 + 32 * k ≤ 256 * c.blk.cfg.rsp →
        let val := fun (l i : Nat) => (floatFmt t).val (subElem (floatWidth t) (regGet (c.g.lane l).regs (base + i / per)) (i % per))
        let q := fun (l : Nat) => quantise (clsBits cls) (clsSigned cls) .rne ((List.range k).map (val l))
        let store := fun (sp : Spot) (bytes : List Byte) => ({ lane := 0, lanes := c.iss.active, spot := sp, n := bytes.length
                                                               act := .store bytes, async := true, grain := 1 } : Access)
        GoesOn s (.enc t cls d v b) (c.g.addOp { c.g.newOp c.iss.active .b .enc with
          isWrite := true
          regs := (List.range 32).filterMap (fun l => (c.g.dstIndex l d).map (fun r =>
            { lane := l, reg := r, value := BitVec.ofNat 64 ((if (q l).sat then 1 else 0) + 256 * (BitVec.ofInt 8 (q l).exp).toNat) }))
          todo := [store (.rs (8 * bitsOf w 23 0)) (tilePlanes ((List.range 32).map (fun l => (q l).mant)) k),
            store (.ds c.iss.core (bitsOf w 50 32)) ((List.range 32).map (fun l => BitVec.ofInt 8 (q l).exp))] }))) ∧
    (∀ ch : Fin 8, c.Ok [d.src] → c.GivesLane s (.asyr d ch) d (fun _ => ((s.tower (c.iss.core / 32)).asycnt.getD ch.val 0).setWidth 64))

/-- The first mxm of a slot's order completes by adding, for each channel in service and each element (i, j), the sum over its remaining columns of the products of the tiles' residues, modulo the channel's modulus, and leaves the order; a residue byte written since the mxfence that its word follows reads as before or after each such write (R146; which is free, log entry 18). A drain whose slot has nothing outstanding raises range-ambiguous or residue-uncorrectable for the first of its elements that has no value; with a value for each, and every drain of the core that issued before it served, a register drain leaves an operation that will give each lane its column's rounded values packed by row, and a memory drain that is not staged one with the stores of its 32 rows still to perform and each lane's status (the saturated rows, and the corrected elements from bit 32 up) to write. A sum, once every present member's gang holds the paired mxgsum with its slot ready and no recorded scales differ, gives every participant the sums of the residues modulo the moduli, the sum of the bounds and the first recorded scales; in an ensemble of one it leaves the slot as it is. The free lease goes to the longest waiting gang, and after 64 operations that the arrays have accepted passes to it. What accepted means is the model's reading (log entry 54, DEDUCED). -/
def Obligations.ArraysAccumulateDecideAndSum : Prop :=
  ∀ (s : State) (core gang slot id : Nat) (b : Block) (g : Gang), s.block? core = some b → b.gangs[gang]? = some g →
    let x := g.slot slot
    let ret := retiredChannel s core
    (∀ p rest fw aw bw, x.prog = p :: rest → p.kind = .mxm fw aw bw → slot < g.slots.length → b.rs.wf = true → cellsWf x.res = true →
      bitsOf fw.toNat 47 32 % 8 = 0 → 8 * p.ksteps ≤ bitsOf fw.toNat 47 32 →
      ∃ (y : Slot) (view : Nat → Byte), exec (.mxmAccumulate core gang slot) s =
          .next (((s.usedFree b.rsLog p.mark).setGang core gang (g.setSlot slot y).settle).wakeGang core gang) ∧
        (∀ o, view o = cellGet b.rs o ∨ ∃ e ∈ b.rsLog.take (b.rsLog.length - p.mark), e.1 ≤ o ∧ e.2[o - e.1]? = some (view o)) ∧
        y = { x with res := y.res, prog := rest.dropWhile (fun q => q.kind == .mxclr) } ∧
        (p.live = false → y.res = x.res) ∧
        (p.live = true → ∀ ch i j, ch < 8 → i < 32 → j < 32 →
          let at_ := fun (w : Word) (row t : Nat) => (view (8 * bitsOf w.toNat 23 0 + 2048 * (t / 8) + 256 * ch + 8 * row + t % 8)).toNat
          let old := cellGet x.res (1024 * ch + 32 * i + j)
          cellGet y.res (1024 * ch + 32 * i + j) =
            if some ch = ret then old
            else BitVec.ofNat 8 ((old.toNat + ((List.range (bitsOf fw.toNat 47 32 - 8 * p.ksteps)).map (fun t =>
              at_ aw i (t + 8 * p.ksteps) * at_ bw j (t + 8 * p.ksteps))).sum) % modulus ch))) ∧
    (∀ h j, g.heldOf id = some h → h.kind = .drain j → (g.slot j.slot).prog = [] → cellsWf (g.slot j.slot).res = true → (∀ e ∈ j.elements, e < 1024) →
      g.pending = [] → (∀ z ∈ b.gangs, ∀ k ∈ z.held, ∀ i, k.kind = .drain i → j.ord ≤ i.ord) →
      let y := g.slot j.slot
      let safe := decide (y.bound.toNat ≤ Config.bigH)
      let bad := fun (e : Nat) (cause : Nat) => exec (.drainDecision core gang id) s = .next (s.trapHeld core gang h
        { cause := cause, lane := e % 32, info := e % 32 + 32 * (e / 32) + 1024 * j.slot })
      let decided := fun (e : Nat) => decideElem (radices ret) safe (fun ch => (cellGet y.res (1024 * ch + e)).toNat)
      (∀ pre e post, j.elements = pre ++ e :: post → (∀ z ∈ pre, ∃ v ch, decided z = .value v ch) →
        (decided e = .ambiguous → bad e 0x09) ∧ (decided e = .uncorrectable → bad e 0x0A)) ∧
      ∀ (v : Nat → Int) (ch : Nat → Option Nat), (∀ e ∈ j.elements, decided e = .value (v e) (ch e)) → (∀ q ∈ j.regs, q.1 < 32) →
      let sc := y.scales.getD (List.replicate 32 0, List.replicate 32 0)
      let value := fun (e : Nat) => scaledVal (v e) (sintN 8 (sc.1.getD (e / 32) 0).toNat) (sintN 8 (sc.2.getD (e % 32) 0).toNat)
      let leaves := fun (regs : List RegWrite) (todo : List Access) => ∃ t g', exec (.drainDecision core gang id) s = .next t ∧
        t.gang? core gang = some g' ∧ ∃ o ∈ g'.ops, o.id = g.nextId ∧ o.kind = .drainWrite ∧ o.cls = .b ∧ o.regs = regs ∧ o.slot = some j.slot ∧
          Numbered (s.tower (core / 32)).requests todo o.todo
      (∀ p, j.part = some p →
        let rows := if j.ofmt = 0 then 2 else if j.ofmt = 1 then 4 else 8
        leaves (j.regs.map (fun q => { lane := q.1, reg := q.2, value := BitVec.ofNat 64 ((List.range rows).map (fun r =>
          drainRound j.ofmt j.mode (value (32 * (rows * p + r) + q.1)) * 2 ^ (64 / rows * r))).sum })) []) ∧
      (j.part = none → (j.virt = false ∨ b.cfg.det = false) →
        let row := fun (i : Nat) => drainRow j.ofmt j.mode ((List.range 32).map (fun l => value (32 * i + l)))
        let status := ((List.range 32).map (fun i => if (row i).2 then 2 ^ i else 0)).sum +
          ((List.range 1024).filter (fun e => (ch e).isSome)).length * 2 ^ 32
        let grain := if j.ofmt = 0 ∨ 3 < j.ofmt then 4 else if j.ofmt = 1 then 2 else 1
        let store := fun (sp : Spot) (bytes : List Byte) => ({ lane := 0, lanes := h.lanes, spot := sp, n := bytes.length
                                                               act := .store bytes, async := true, grain := grain } : Access)
        leaves (j.regs.map (fun q => { lane := q.1, reg := q.2, value := BitVec.ofNat 64 status }))
          (if j.virt then (layBytes j.locs ((List.range 32).map (fun i => (row i).1)).flatten).mapIdx (fun i p =>
              { store (.vm p.1) p.2 with via := j.vias.getD i (4, 0) })
           else (List.range 32).map (fun i => store (.ds core (j.addr + i * j.stride)) (row i).1)))) ∧
    (∀ q ps h, h ∈ g.held → h.kind = .mxgsum slot q → (∀ k ∈ g.held, ∀ r, k.kind = .mxgsum slot r → r = q) →
      ps = s.participants b gang slot q → b.present ≤ ps.length →
      (∀ x ∈ ps, ∀ y ∈ ps, ∀ u v, (x.gang.slot slot).scales = some u → (y.gang.slot slot).scales = some v → u = v) →
      (b.cfg.ens = 1 → exec (.mxgsumSum core gang slot) s = .next (ps.foldl (fun t p => t.setGang p.core gang
          ((p.gang.setSlot slot (p.gang.slot slot)).release p.held.id p.held.lanes)) s)) ∧
      (b.cfg.ens ≠ 1 → ∃ r : Memory, exec (.mxgsumSum core gang slot) s = .next (ps.foldl (fun t p => t.setGang p.core gang
          ((p.gang.setSlot slot { p.gang.slot slot with
            res := r
            bound := BitVec.ofNat 64 (min (2 ^ 64 - 1) ((ps.map (fun p => (p.gang.slot slot).bound.toNat)).sum))
            scales := (ps.filterMap (fun p => (p.gang.slot slot).scales)).head? }).release p.held.id p.held.lanes)) s) ∧
        ((∀ p ∈ ps, cellsWf (p.gang.slot slot).res = true) → ∀ ch e, ch < 8 → e < 1024 → cellGet r (1024 * ch + e) =
          BitVec.ofNat 8 ((ps.map (fun p => (cellGet (p.gang.slot slot).res (1024 * ch + e)).toNat)).sum % modulus ch)))) ∧
    (∀ gi rest, b.lease.waiting = gi :: rest → ∀ y, b.gangs[gi]? = some y →
      let passed := s.setBlock core (({ b with lease := { holder := some gi, waiting := rest, count := 0 } } : Block).setGang gi (y.letIssue (fun k => k == .lease)))
      (b.lease.holder = none → exec (.leaseGrant core) s = .next passed) ∧
      (∀ hg z, b.lease.holder = some hg → b.gangs[hg]? = some z → (∀ x ∈ z.slots, x.prog.length ≤ 1) → 64 ≤ b.lease.count →
        exec (.leasePass core) s = .next passed))

/-- With room in the tower's queue and the record and ranges in order, each of the six words holds its lanes, and joins the queue with its record, its ranges and its destination registers; before each range is read, and for all of them as it joins, what its lanes have issued before on their bytes is performed (R132 item 1); a field of the record out of order raises toss-input with the lowest reason of R246; with a full queue the word stays where it is. Reading a range gives the bytes of memory where no copy of a line is held and nothing is staged or posted. The unit completes the first word of the queue, which leaves it: the lanes go on with their results in the registers the word named, no other register of the gang changed, and its output bytes are written outside a deterministic launch; a byte that fails before the unit has read it raises uncorrectable-data, logged as kind 1, and a list out of order toss-input. tossgen's result in lane l is the high or low half of Toss-128 under the record's key and the counter for draw + l; tossmax's is the greatest logit that is not a NaN, or minus infinity; tossdraw's is the index of the first entry whose running sum exceeds the floor of S times the high half of the output over 2^64, or V + 2^32 where S is 0. That this order is met at the word's issue is the model's form (log entry 7). -/
def Obligations.TossWordsJoinTheUnitAndComplete : Prop :=
  (∀ (s : State) (c : Ctx) (t : FFmt) (d : Dst) (a : Src), ctx? s = some c → c.Ok [d.src, a] →
    let tw := c.iss.core / 32
    let words := fun (P : Instr → TossKind → Prop) =>
      P (.tossmax t d a) (.max t) ∧ P (.tosscand t d a) (.cand t) ∧ P (.tossmerge d a) .merge ∧ P (.tossdraw d a) .draw ∧
      P (.tossgenHi d a) .genHi ∧ P (.tossgenLo d a) .genLo
    let rva := (c.read c.low a).toNat
    (32 ≤ (s.tower tw).toss.length → words (fun i _ => exec i s = .next (s.setGang c.iss.core c.iss.gang (c.g.undoHeader c.iss)))) ∧
    ((s.tower tw).toss.length < 32 → c.RangesOk s [⟨rva, 128, 64, false⟩] →
      let seen := fun (e : Ctx) (v : State) (q : RangeReq) =>
        let x := e.rangeOf v q
        (v.performFirst c.iss.core c.iss.gang (x.accesses c.iss.active)).seenRanges c.iss.core c.iss.gang c.iss.active e.blk [x]
      let p := seen c s ⟨rva, 128, 64, false⟩
      let r := (List.range 16).map (fun i => BitVec.ofNat 64 (ofLeBytes (((p.2.headD []).drop (8 * i)).take 8)))
      words (fun i k =>
        (∀ x, tossFieldsBad k r = some x → exec i s = .next (p.1.trap { cause := 0x13, lane := c.low, info := x })) ∧
        (tossFieldsBad k r = none → ∃ e, ctx? p.1 = some e ∧ e.iss = c.iss ∧ e.blk.cfg = c.blk.cfg ∧
          (e.RangesOk p.1 ((tossRanges k r).take 1) →
          let f := match (tossRanges k r).head? with
            | none => (p.1, [])
            | some q => ((seen e p.1 q).1, (seen e p.1 q).2.headD [])
          let qs := tossRangesAll k r f.2
          ∃ e', ctx? f.1 = some e' ∧ e'.iss = c.iss ∧ (e'.RangesOk f.1 qs →
          let ins := (qs.filter (fun q => !q.wr)).map (e'.rangeOf f.1)
          let outs := (qs.filter (·.wr)).map (e'.rangeOf f.1)
          let w := f.1.performFirst c.iss.core c.iss.gang ((ins ++ outs).flatMap (·.accesses c.iss.active))
          let tops := (qs.filter (fun q => !q.wr || !e'.blk.cfg.det)).flatMap (fun q => (piecesOf q.va q.n).map (fun x =>
            topEntry (f.1.tower tw).tlb c.blk.cfg.asid x.1))
          let job : TossJob := ⟨k, c.lanes.filterMap (fun l => (c.g.dstIndex l d).map (fun x => (l, x))), r, ins, outs,
            c.rangeOf s ⟨rva, 128, 64, false⟩, tops⟩
          ∃ e'', ctx? w = some e'' ∧ e''.iss = c.iss ∧
            exec i s = .next ((w.setGang c.iss.core c.iss.gang (e''.g.hold c.iss c.iss.active (.toss job))).modTower tw
              (fun x => { x with toss := x.toss ++ [(c.iss.core, c.iss.gang, e''.g.nextId)] }))))))) ∧
    (∀ xs, (∀ o ∈ c.g.ops, o.todo = []) → s.performFirst c.iss.core c.iss.gang xs = s)) ∧
  (∀ (s : State) (core gang : Nat) (lanes : LaneBits) (b : Block) (q : TossRange), (s.core core).l1 = [] → s.copied = false →
    (∀ x ∈ s.towers, x.posted = []) → q.got = [] → b.cfg.det = false ∨ b.teller = [] →
    s.seenRanges core gang lanes b [q] = (s, [q.locs.flatMap (fun p => s.readLoc p.1 p.2.1)])) ∧
  (∀ (s : State) (tw core gang id : Nat) (rest : List (Nat × Nat × Nat)) (b : Block) (g : Gang) (h : Held) (j : TossJob),
    (s.tower tw).toss = (core, gang, id) :: rest → (core, gang, id) ∉ rest → core / 32 = tw → s.block? core = some b →
    b.gangs[gang]? = some g → g.heldOf id = some h → h.kind = .toss j → (∀ p ∈ g.pending, p.heldId ≠ id) →
    let read := s.seenRanges core gang h.lanes b j.ins
    (∀ va pa, s.badRange gang h.lanes b j.ins = some (va, pa) → exec (.tossWordComplete tw) s =
      .next ((((s.log (pa / Config.towerBytes) { kind := 1, addr := pa }).trapHeld core gang h
        { cause := 0x0D, lane := lowLane h.lanes, info := va % 2 ^ 56 }).leaveToss (core, gang, id)).wakeGang core gang)) ∧
    (s.badRange gang h.lanes b j.ins = none →
    (∀ x, j.result read.2 = .bad x → exec (.tossWordComplete tw) s = .next (((read.1.trapHeld core gang h
      { cause := 0x13, lane := lowLane h.lanes, info := x }).leaveToss (core, gang, id)).wakeGang core gang)) ∧
    ∀ (val : Nat → Nat) (out : List Byte), j.result read.2 = .done val out → (j.regs.map (·.1)).Nodup →
      (∀ x ∈ g.held, x.id ≠ id → x.lanes &&& h.lanes = 0) → b.cfg.det = false ∨ out = [] →
      let locs := (j.outs.head?.map (·.locs)).getD []
      let did := (j.outs.head?.map (·.did)).getD []
      ∃ t g', exec (.tossWordComplete tw) s = .next t ∧ (t.tower tw).toss = rest ∧ t.gang? core gang = some g' ∧
        (∀ l r, l < g.lanes.length → regGet (g'.lane l).regs r = if (l, r) ∈ j.regs then BitVec.ofNat 64 (val l) else regGet (g.lane l).regs r) ∧
        (∀ l, l < g.lanes.length → h.lanes.getLsbD l = true → (g'.lane l).pc = h.iss.addr + 4) ∧
        ((∀ x ∈ s.towers, x.posted = []) → (out = [] → SameBytes s t) ∧
          t.mem = (read.1.writePlaces (core, gang, h.lanes) (fun i => !did.any (fun p => decide (p.1 ≤ i) && decide (i < p.1 + p.2))) locs 0 out).mem ∧
          (s.Inv → ∀ a, (∀ p ∈ locs, ∀ x, p.1 = .pkg x → a < x ∨ x + p.2.1 ≤ a) → cellGet t.mem a = cellGet s.mem a)))) ∧
  (∀ (j : TossJob) (ins : List (List Byte)),
    let r := j.words
    let key := (r.getD 9 0).toNat + 2 ^ 64 * (r.getD 10 0).toNat
    let ctr := fun (n : Nat) => bitsOf (r.getD 11 0).toNat 31 0 + 2 ^ 32 * n + 2 ^ 56 * bitsOf (r.getD 12 0).toNat 63 24 + 2 ^ 96 * bitsOf (r.getD 11 0).toNat 63 32
    let draw := bitsOf (r.getD 12 0).toNat 23 0
    let V := bitsOf (r.getD 2 0).toNat 55 32
    (j.kind = .genHi → j.result ins = .done (fun l => toss128 key (ctr ((draw + l) % 2 ^ 24)) / 2 ^ 64) []) ∧
    (j.kind = .genLo → j.result ins = .done (fun l => toss128 key (ctr ((draw + l) % 2 ^ 24)) % 2 ^ 64) []) ∧
    (∀ t, j.kind = .max t → ∃ m, j.result ins = .done (fun _ => m) [] ∧
      let ls := (logitsOf t (bitsOf (r.getD 1 0).toNat 23 0) (ins.headD [])).filter (fun l => !(fmtF32.val l).isNan)
      (ls = [] → m = 0xFF800000) ∧ (ls ≠ [] → m = ls.tail.foldl (fMax fmtF32) (ls.headD 0))) ∧
    (j.kind = .draw →
      let ws := pairsOf (wordsOf ((ins.headD []).length / 8) (ins.headD []))
      let S := (ws.headD (0, 0)).2
      let es := ws.drop 1
      bitsOf (ws.headD (0, 0)).1 63 24 = 0 → bitsOf (ws.headD (0, 0)).1 23 0 ≤ bitsOf (r.getD 4 0).toNat 55 32 →
      (∀ e ∈ es, bitsOf e.1 63 56 = 0 ∧ bitsOf e.1 55 32 < V) → S = (es.getLast?.map (·.2)).getD 0 →
        (S = 0 → j.result ins = .done (fun _ => V + 2 ^ 32) []) ∧
        (∀ pre e post, es = pre ++ e :: post → 0 < S →
          let u := toss128 key (ctr draw) / 2 ^ 64 * S / 2 ^ 64
          (∀ x ∈ pre, x.2 ≤ u) → u < e.2 → j.result ins = .done (fun _ => bitsOf e.1 55 32) [])))

/-- With its four registers inside the allotment and fewer than 32 commands in the queue, cpy, cpycv, cpyrd and coll each append one command with those registers of the lowest active lane, the block's context and mode, the next ordinal modulo 2^24, held back under release semantics and skipped where the queue has failed; the block's count of ordinals advances. Under release semantics one operation of flag A is left outstanding; without, it is complete at acceptance. With 32 in the queue the lanes stay at their word, its header undone, and a register past the allotment raises register-bounds, naming the first past it (log entry 12). cqstat gives the rows saturated, the ordinal and the cause of the queue's status; cqclr sets the ordinal count, the cause and the failed ordinal to 0 and ends the failed state. -/
def Obligations.CommandWordsQueueCommands : Prop :=
  ∀ (s : State) (c : Ctx) (q : Fin 8) (d : Fin 93) (r : Dst) (rel : Bool), ctx? s = some c →
    let mine := s.commands.filter (fun x => x.lid = c.blk.cfg.lid && x.block = c.blk.cfg.index && x.queue = q)
    let Q := c.blk.queues.getD q.val {}
    let word := fun (i : Instr) (k : CmdKind) =>
      let cmd : Command := {
        id := s.nextCommand, kind := k, lid := c.blk.cfg.lid, block := c.blk.cfg.index, core := c.iss.core, queue := q,
        ord := (Q.ord + 1) % 2 ^ 24, asid := c.blk.cfg.asid, smode := c.blk.cfg.smode, gated := rel, rel := rel, skipped := Q.failed,
        regs := [0, 1, 2, 3].map (fun n => regGet (c.g.lane (lowLane c.iss.active)).regs (c.g.wb + d.val + n)) }
      (c.g.wb + d.val + 3 < c.blk.cfg.allot → mine.length < 32 → exec i s = .next
        ((({ s with commands := s.commands ++ [cmd], nextCommand := s.nextCommand + 1 } : State).setBlock c.iss.core
          { c.blk with queues := c.blk.queues.set q.val { Q with ord := cmd.ord } }).retire
            (if rel then c.g.addOp { c.g.newOp c.iss.active .a .command with cmd := some s.nextCommand } else c.g))) ∧
      (c.g.wb + d.val + 3 < c.blk.cfg.allot → 32 ≤ mine.length → exec i s = .next (s.setGang c.iss.core c.iss.gang (c.g.undoHeader c.iss))) ∧
      (c.blk.cfg.allot ≤ c.g.wb + d.val + 3 → Traps s i
        { cause := 0x03, lane := lowLane c.iss.active, info := max (c.g.wb + d.val) c.blk.cfg.allot })
    word (.cpy q d rel) .cpy ∧ word (.cpycv q d rel) .cpycv ∧ word (.cpyrd q d rel) .cpyrd ∧ word (.coll q d rel) .coll ∧
    (c.Ok [r.src] → c.GivesLane s (.cqstat r q) r (fun _ =>
      BitVec.ofNat 64 (Q.satMask.toNat * 2 ^ 32 + Q.failOrd % 2 ^ 24 * 2 ^ 8 + Q.cause % 2 ^ 8))) ∧
    exec (.cqclr q) s = .next ((s.retire c.g).modBlock c.iss.core (fun b =>
      { b with queues := b.queues.set q.val { (b.queues.getD q.val {}) with ord := 0, cause := 0, failOrd := 0, failed := false } }))

/-- qbind of an unbound register to a free output or quarantine port of the block's own stream, or to the Escrow port, binds it and gives 1; unbinding a bound one gives 1 and frees its port; anything else gives 0 and changes nothing: a reserved kind or bit, a register bound already or not bound, a handle not of the block's own stream, a port taken, an address that is not 0 on unbinding or on Escrow. Binding an intake input reads its aligned record, what the lanes have issued on its bytes being performed first; a good one makes a stream with the lowest free handle, which is given; a misplaced, denied, uncorrectable or ill-formed record, or no free stream, gives 0 (a reserved bit or field: log entry 75). qpop, an acquire, and qpush, a release before which what the lanes have issued is performed, hold their lanes on a port of their direction and complete at once if they can: a pop takes the port's elements for the lowest lanes, setting their m7 bits, the other lanes getting 0 and clear bits; a push needs room for all its elements. qlen gives the elements a pop port holds, or the places free in a push port. Unbound, or of the other direction, raises queue-unbound. -/
def Obligations.QueueRegistersReachTheirPorts : Prop :=
  (∀ (s : State) (core gi : Nat) (h : Held) (p : Binding) (regs : List (Nat × Nat)) (vals : List Word) (b : Block), s.block? core = some b →
    let n := s.portHeld (core / 32) b.cfg.part p
    let lanes := laneList h.lanes
    let took := s.takePort (core / 32) b.cfg.part (min n lanes.length) p
    let got := fun (l : Nat) => (lanes.zip took.1).lookup l
    (n = 0 → s.popHeld core gi h p regs = none) ∧
    (n ≠ 0 → s.popHeld core gi h p regs = some ((took.2.acquireSync core .dev).modGang core gi (fun g =>
      ((g.writeRegs (regs.map (fun r => { lane := r.1, reg := r.2, value := (got r.1).getD 0 }))).writeMasks
        (lanes.map (fun l => ((7 : MaskNo), laneMask l, if (got l).isSome then laneMask l else 0)))).release h.id h.lanes))) ∧
    (∀ x st, p = .intakeIn x → (s.tower (core / 32)).stream? x = some st →
      (16 < st.inQ.length + vals.length → s.pushHeld core gi h p vals = none) ∧
      (st.inQ.length + vals.length ≤ 16 → s.pushHeld core gi h p vals =
        some ((s.modStream (core / 32) x (fun y => { y with inQ := y.inQ ++ vals })).modGang core gi (fun g => g.release h.id h.lanes))))) ∧
  ∀ (s : State) (c : Ctx) (d : Dst) (a : Src) (n : Fin 4), ctx? s = some c →
    let bound := (c.blk.binds[n.val]?).join
    let no : Trap := { cause := 0x0E, lane := lowLane c.iss.active, info := n.val }
    let tw := c.iss.core / 32
    let gives := fun (s1 : State) (v : Nat) => s1.modGang c.iss.core c.iss.gang (fun g =>
      (g.writeDst c.iss.active d (fun _ => BitVec.ofNat 64 v)).advance c.iss c.iss.active)
    let bind := fun (s1 : State) (p : Option Binding) => s1.modBlock c.iss.core (fun b => { b with binds := b.binds.set n.val p })
    let dst := c.lanes.filterMap (fun l => (c.g.dstIndex l d).map (fun r => (l, r)))
    (c.Ok [d.src] →
      (bound = none → Traps s (.qpop d n) no ∧ Traps s (.qlen d n) no) ∧
      (∀ p, bound = some p →
        (p.isPop = true → exec (.qpop d n) s = .next (c.holdOnPort s (.qpop p dst))) ∧ (p.isPop = false → Traps s (.qpop d n) no) ∧
        c.GivesLane s (.qlen d n) d (fun _ => BitVec.ofNat 64
          (if p.isPop then s.portHeld tw c.blk.cfg.part p else 16 - s.portHeld tw c.blk.cfg.part p)))) ∧
    (c.Ok [a] →
      (bound = none → Traps s (.qpush a n) no) ∧
      (∀ p, bound = some p →
        (p.isPop = false →
          let u := s.releasePoint c.iss.core c.iss.gang c.iss.active true
          ∃ e, ctx? u = some e ∧ e.iss = c.iss ∧ exec (.qpush a n) s = .next (e.holdOnPort u (.qpush p (e.lanes.map (fun l => e.read l a))))) ∧
        (p.isPop = true → Traps s (.qpush a n) no))) ∧
    (c.Ok [d.src, a] →
      let x := (c.read (lowLane c.iss.active) a).toNat
      let k := bitsOf x 59 56
      let v := bitsOf x 55 0
      let own := fun (st : Stream) => (s.tower tw).stream? v = some st ∧ st.lid = c.blk.cfg.lid ∧ st.block = c.blk.cfg.index
      (bitsOf x 63 60 ≠ 0 ∨ 5 ≤ k ∨ (k = 0 ∧ (bound = none ∨ v ≠ 0)) ∨ (k ≠ 0 ∧ bound ≠ none) ∨ (k = 4 ∧ v ≠ 0) ∨
        ((k = 2 ∨ k = 3) ∧ ∀ st, ¬ own st) ∨ (k = 1 ∧ (v % 64 ≠ 0 ∨ 2 ^ 56 < v + 64)) → exec (.qbind d a n) s = .next (gives s 0)) ∧
      (bitsOf x 63 60 = 0 →
        (∀ p, k = 0 → v = 0 → bound = some p → exec (.qbind d a n) s = .next (gives (match p with
          | .intakeOut h => (bind s none).modStream tw h (fun y => { y with hasOut := false })
          | .quarantine h => (bind s none).modStream tw h (fun y => { y with hasQuar := false })
          | _ => bind s none) 1)) ∧
        (k = 4 → v = 0 → bound = none → exec (.qbind d a n) s = .next (gives (bind s (some .escrow)) 1)) ∧
        (∀ st, k = 2 → bound = none → own st → st.hasOut = false → exec (.qbind d a n) s =
          .next (gives (bind (s.modStream tw v (fun y => { y with hasOut := true })) (some (.intakeOut v))) 1)) ∧
        (∀ st, k = 3 → bound = none → own st → st.hasQuar = false → exec (.qbind d a n) s =
          .next (gives (bind (s.modStream tw v (fun y => { y with hasQuar := true })) (some (.quarantine v))) 1)) ∧
        (∀ st, k = 2 ∨ k = 3 → bound = none → own st → (if k = 2 then st.hasOut else st.hasQuar) = true → exec (.qbind d a n) s = .next (gives s 0)) ∧
        (k = 1 → bound = none → v % 64 = 0 → v + 64 ≤ 2 ^ 56 →
            ((∀ g, 1 ≤ g → g ≤ 16 → (s.tower tw).stream? g ≠ none) → exec (.qbind d a n) s = .next (gives s 0)) ∧
            ∀ h p leaf, 1 ≤ h → h ≤ 16 → (s.tower tw).stream? h = none → (∀ g, 1 ≤ g → g < h → (s.tower tw).stream? g ≠ none) →
              walk s (s.coreTlb c.iss.core) c.blk.cfg.asid v = .ok p leaf →
              (leaf.allows c.blk.cfg.smode .read = false → exec (.qbind d a n) s = .next (gives s 0)) ∧
              (∀ pa x, leaf.allows c.blk.cfg.smode .read = true → p = .pkg pa → x < 64 → c.Fails s c.iss.active p x →
                (∀ m, m < x → ¬ c.Fails s c.iss.active p m) →
                exec (.qbind d a n) s = .next (gives (s.log ((pa + x) / Config.towerBytes) { kind := 1, addr := pa + x }) 0)) ∧
              (leaf.allows c.blk.cfg.smode .read = true → (∀ x, x < 64 → ¬ c.Fails s c.iss.active p x) →
                let rd := (s.performFirst c.iss.core c.iss.gang
                  [{ lane := 0, lanes := c.iss.active, spot := .vm p, n := 64, act := .load .b8 false none none }]).readPlaces
                  (c.iss.core, c.iss.gang, c.iss.active) [(p, 64, leaf.ms)]
                let w := (List.range 8).map (fun i => ofLeBytes ((rd.2.drop (8 * i)).take 8))
                (streamCfgBad w = true → exec (.qbind d a n) s = .next (gives rd.1 0)) ∧
                (streamCfgBad w = false → exec (.qbind d a n) s = .next (gives (bind (rd.1.modTower tw (fun t => { t with
                  streams := t.streams ++ [{
                    handle := h, lid := c.blk.cfg.lid, block := c.blk.cfg.index, core := c.iss.core, asid := c.blk.cfg.asid
                    smode := c.blk.cfg.smode, cls := w.getD 0 0, bnd := w.getD 1 0, mtab := w.getD 2 0, mcount := bitsOf (w.getD 3 0) 31 0
                    notok := decide (bitsOf (w.getD 3 0) 32 32 = 1) }] })) (some (.intakeIn h))) h))))))

/-- MEMORY_OPERATION_COMPLETE, SPECIAL_FUNCTION_COMPLETE, ENC_WRITE_COMPLETE and DRAIN_WRITE_COMPLETE each complete an outstanding operation of their kind, once none of its accesses has to wait (R132, R361): the accesses still to do are performed in order, each as stated apart, and the memories and scratchpads are as they then are (where no other lanes of the gang wait in a fence at domain scope, whose end may perform posted stores); each register bit that its results name takes its value, a later result over an earlier one, every other bit of the gang's registers keeps its own; an operation with nothing left to perform changes no byte; and no operation of that number is left. A command's operation, once its lanes' earlier accesses are done, lets its command start. A word held on peer memory does the same and its lanes go on, but not while it has a trap pending. That the result which completes last stays where two operations write one register is the model's choice (log entry 65). -/
def Obligations.OperationsCompleteWithTheirResults : Prop :=
  ∀ (s : State) (core gi id : Nat) (b : Block) (g : Gang), s.block? core = some b → b.gangs[gi]? = some g →
    let regsOf := fun (rs : List RegWrite) (g' : Gang) => ∀ l r, l < g.lanes.length →
      regGet (g'.lane l).regs r = (rs.filter (fun w => w.lane == l && w.reg == r)).foldl
        (fun old w => (old &&& ~~~w.bits) ||| (w.value &&& w.bits)) (regGet (g.lane l).regs r)
    let completes := fun (i : Instr) (o : Op) (rs : Op → List RegWrite) => ∃ t b0 b' g', exec i s = .next t ∧
      t.block? core = some b' ∧ b'.gangs[gi]? = some g' ∧
      (let p := s.performAll core gi o o.todo
       p.1.block? core = some b0 ∧ ((∀ x ∈ g.held, ∀ sem, x.kind ≠ .fence sem .dom) →
         t.mem = p.1.mem ∧ t.hostMem = p.1.hostMem ∧ t.peerMem = p.1.peerMem ∧ b'.ds = b0.ds ∧ b'.rs = b0.rs ∧ (o.todo = [] → SameBytes s t)) ∧
       regsOf (rs p.2) g' ∧ (p.2.masks = [] → g'.m = g.m)) ∧ (∀ x ∈ g'.ops, x.id ≠ id)
    let all := fun (o : Op) => o.regs ++ (match o.group with | some j => j.results | none => [])
    (∀ o, g.ops.find? (·.id == id) = some o → (∀ x ∈ o.todo, s.mustWait core gi g id x = false) →
      (o.kind = .memory → completes (.memoryOperationComplete core gi id) o all) ∧
      (o.kind = .special → completes (.specialFunctionComplete core gi id) o all) ∧
      (o.kind = .enc → completes (.encWriteComplete core gi id) o all) ∧
      (o.kind = .drainWrite → completes (.drainWriteComplete core gi id) o all) ∧
      (o.kind = .command → o.todo = [] →
        (∀ x ∈ g.ops, x.id < id → ∀ a ∈ x.todo, a.lanes &&& o.lanes = 0) → completes (.memoryOperationComplete core gi id) o all ∧
        ∃ t, exec (.memoryOperationComplete core gi id) s = .next t ∧ t.commands = s.commands.map (fun x =>
          if some x.id = o.cmd then { x with gated := false } else x))) ∧
    (∀ h o vas, (∀ o ∈ g.ops, o.id ≠ id) → g.heldOf id = some h → h.kind = .peer o vas →
      ((∃ p ∈ g.pending, p.heldId = id) → exec (.memoryOperationComplete core gi id) s = .next s) ∧
      ((∀ p ∈ g.pending, p.heldId ≠ id) → (∀ x ∈ o.todo, s.mustWait core gi g o.id x = false) →
        completes (.memoryOperationComplete core gi id) o (fun o => o.regs) ∧
        ∃ t g', exec (.memoryOperationComplete core gi id) s = .next t ∧ t.gang? core gi = some g' ∧
          ∀ l, l < g.lanes.length → h.lanes.getLsbD l = true → (g'.lane l).pc = h.iss.addr + 4))

/-- A lane held in monw, with no trap pending and what is ordered before it performed, goes on with its location's value (its tower's posted stores over it, in peer and host memory) where that satisfies its condition, which is an acquire: the core's L1 is invalidated. A word held on a port completes where its port can serve it, and otherwise nothing changes: a pop takes elements for its lowest lanes, a push needs room for all its own. The Teller applies the entries of the block's next flush, in order of gang, lane and program, once every gang has closed it and every lower block of the launch has had it applied and no block of the launch stalls; each entry is stored, added (in f32) or maximised at its location, a release write of its lane at device scope, and discarded and logged as kind 3 where it is denied, where it is an atomic of host memory, or where it is an atomic that would read a failing granule; it leaves the buffer. An update from another tower is applied to the copy of its line and counted where it is next from its sender and what its clock precedes has been applied; a running block's quantum has passed 2^20 core cycles after its start or resume; a gang that yielded is suppressed for no more than 8 cycles. What the gangs that have exited had issued is performed before a flush (log entry 7). -/
def Obligations.WaitsEndWhenTheirConditionsHold : Prop :=
  (∀ (s : State) (core gi lane : Nat) (b : Block) (g : Gang), s.block? core = some b → b.gangs[gi]? = some g →
    (∀ h w k e loc leaf, g.held.findSome? (fun h => (h.monElem lane).map (fun x => (h, x))) = some (h, w, k, e) →
      (∀ p ∈ g.pending, p.heldId ≠ h.id) → g.blocked h.id (e.monRead w loc) = false →
      walk s (s.coreTlb core) b.cfg.asid e.va = .ok loc leaf → leaf.allows b.cfg.smode .read = true → s.locFails loc w.bytes = false →
      let x := ofLeBytes (if loc.isPkg then s.readLoc loc w.bytes else (s.tower (core / 32)).overPosted loc (s.readLoc loc w.bytes))
      let v := e.v.toNat % 2 ^ w.bits
      let known := s.monAcquire core gi (e.monRead w loc)
      SameBytes s known ∧ (known.core core).l1 = [] ∧
      ((match k with
        | .eq => x = v | .ne => x ≠ v | .ltN => x < v | .geN => v ≤ x
        | .ltI => (BitVec.ofNat w.bits x).toInt < (BitVec.ofNat w.bits v).toInt
        | .geI => (BitVec.ofNat w.bits v).toInt ≤ (BitVec.ofNat w.bits x).toInt) →
      exec (.monwSatisfied core gi lane) s = .next ((known.setGang core gi
        ((g.writeRegs (match e.reg with | some r => [{ lane := e.lane, reg := r, value := BitVec.ofNat 64 x }] | none => [])).release h.id
          (BitVec.ofNat 32 (2 ^ e.lane)))).wakeGang core gi))) ∧
    (∀ h, g.held.find? (fun h => h.lanes.getLsbD lane && (match h.kind with | .qpop _ _ | .qpush _ _ => true | _ => false)) = some h →
      let lanes := laneList h.lanes
      (∀ p regs, h.kind = .qpop p regs →
        let n := s.portHeld (core / 32) b.cfg.part p
        let took := s.takePort (core / 32) b.cfg.part (min n lanes.length) p
        let got := fun (l : Nat) => (lanes.zip took.1).lookup l
        exec (.queueWaitRelease core gi lane) s = .next (if n = 0 then s else (took.2.acquireSync core .dev).modGang core gi (fun g =>
          ((g.writeRegs (regs.map (fun r => { lane := r.1, reg := r.2, value := (got r.1).getD 0 }))).writeMasks
            (lanes.map (fun l => ((7 : MaskNo), laneMask l, if (got l).isSome then laneMask l else 0)))).release h.id h.lanes))) ∧
      (∀ x vals st, h.kind = .qpush (.intakeIn x) vals → (s.tower (core / 32)).stream? x = some st →
        exec (.queueWaitRelease core gi lane) s = .next (if 16 < st.inQ.length + vals.length then s
          else (s.modStream (core / 32) x (fun y => { y with inQ := y.inQ ++ vals })).modGang core gi (fun g => g.release h.id h.lanes)))) ∧
    (∀ t, g.yielded = some t → t + 8 < (s.core core).cycles →
      exec (.yieldSuppressionEnd core gi) s = .next (s.setGang core gi { g with yielded := none }))) ∧
  (∀ (s : State) (tw x k : Nat) (part : Fin 16) (st : Stream), (s.tower tw).stream? x = some st →
    s.portHeld tw part (.intakeOut x) = st.outQ.length ∧ s.portHeld tw part (.quarantine x) = st.quarQ.length ∧
    s.takePort tw part k (.intakeOut x) = (st.outQ.take k, s.modStream tw x (fun y => { y with outQ := y.outQ.drop k })) ∧
    s.takePort tw part k (.quarantine x) = (st.quarQ.take k, s.modStream tw x (fun y => { y with quarQ := y.quarQ.drop k }))) ∧
  (∀ (s : State) (core : Nat) (b : Block), s.block? core = some b →
    (s.flushReady b = true → exec (.tellerFlushApply core) s = .next (State.applyEntries core b
      (sortBy TellerEntry.before (b.teller.filter (fun e => decide (e.flush = b.tfl)))) (s.performExited core b))) ∧
    (s.flushReady b = false → exec (.tellerFlushApply core) s = .next s) ∧
    ((∀ g ∈ b.gangs, g.allExited = true → ∀ o ∈ g.ops, o.todo = []) → s.performExited core b = s) ∧
    ((s.core core).bind = .running → b.quantumPassed = false → b.since + 2 ^ 20 ≤ (s.core core).cycles →
      exec (.quantumExpiry core) s = .next (s.setBlock core { b with quantumPassed := true })) ∧
    (s.flushReady b = true ↔ (∀ n x, s.block? n = some x → x.cfg.lid = b.cfg.lid → x.tellerStall = false) ∧ b.cfg.det = true ∧
      (∀ g ∈ b.gangs, b.tfl < g.flush ∨ g.allExited = true) ∧ ¬ (b.gangs.all Gang.allExited = true ∧ b.teller = []) ∧
      ∃ l, s.launch? b.cfg.lid = some l ∧ ∀ i, i < b.cfg.index → i ∈ l.exited ∨ i ∈ l.killed ∨
        ∃ x, s.blockOf l.id i = some x ∧ x.flushApplied b.tfl = true) ∧
    State.applyEntries core b [] s = s.setBlock core { b with tfl := b.tfl + 1 } ∧
    (∀ e r s1, s.applyEntry core b e = .done s1 → State.applyEntries core b (e :: r) s =
      State.applyEntries core b r (s1.modBlock core (fun x => { x with teller := x.teller.filter (· != e) }))) ∧
    (∀ e loc leaf, walk s (s.coreTlb core) b.cfg.asid e.addr.toNat = .ok loc leaf →
      let discarded := Applied.done (s.log (core / 32) { kind := 3, va := e.addr.toNat })
      (leaf.allows b.cfg.smode e.kind.access = false → s.applyEntry core b e = discarded) ∧
      (e.kind ≠ .store → s.locFails loc e.size = true → s.applyEntry core b e = discarded) ∧
      (∀ p, loc = .host p → e.kind ≠ .store → s.applyEntry core b e = discarded) ∧
      (leaf.allows b.cfg.smode e.kind.access = true →
        let rd := (s.peersFirst (core / 32) loc e.size).homeRead (core / 32) loc e.size
        let old := ofLeBytes rd.2
        let put := fun (v : Nat) => Applied.done ((rd.1.towerWrite (core / 32) (some (core, e.gang, BitVec.ofNat 32 (2 ^ e.lane)))
          { rel := true, scope := .dev } loc (leBytes e.size v)).dropRun core loc e.size)
        ((s.core core).l1 = [] → s.copied = false → (s.tower (core / 32)).posted = [] → loc.isPeer = false →
          old = ofLeBytes (s.readLoc loc e.size) ∧ ∀ v, put v = Applied.done (s.writeHome loc (leBytes e.size v))) ∧
        (e.kind = .store → s.applyEntry core b e = put (e.data.toNat % 2 ^ (8 * e.size))) ∧
        ((∀ p, loc ≠ .host p) → s.locFails loc e.size = false →
          (e.kind = .fadda → s.applyEntry core b e = put (fAdd fmtF32 .rne old (e.data.toNat % 2 ^ 32))) ∧
          (e.kind = .amaxm → s.applyEntry core b e = put (fAmaxNode old (e.data.toNat % 2 ^ 32))))))) ∧
  (∀ (s : State) (src dst : Nat) (clock : List Nat) (u : Update), src < s.part.towers → dst < s.part.towers → src ≠ dst →
    clock.getD src 0 = (s.tower dst).vclock.getD src 0 + 1 → (∀ t, t < 8 → t ≠ src → clock.getD t 0 ≤ (s.tower dst).vclock.getD t 0) →
    (s.tower dst).inbox.find? (fun u => u.src == src && u.clock == clock) = some u →
    exec (.remoteUpdateApply src dst clock) s = .next (s.modTower dst (fun t => { t with
      inbox := t.inbox.erase u
      copies := t.copies.map (fun c => if c.1 = .pkg u.line then (c.1, u.bytes) else c)
      vclock := t.vclock.set src (clock.getD src 0) })))

/-- A command that may start takes an engine and does its transfer, the reads of one without release semantics being free to miss its launch's writes (R145, log entry 77). Where they miss none (none is noted, or the command released), no copy of a line is held and no store posted: a cpy between two runs of virtual memory, each in one page, aligned and not overlapping, writes the source's bytes at the destination; a cpyrd of one element of any operator but the residue-plane one gives the destination the operator's value of it and the source; and a cpycv of eight f32 columns in class i8 to virtual memory writes the residues of each row's quantised values, channel by channel, and the rows' exponents after them, and notes the rows saturated. A skipped command makes no access and has cause 6. A finished command first in its queue adds one to its completion object, a release write at device scope (domain scope where an operand or the object is on peer or host memory), with bit 63 set if it failed and bit 62 if a cpycv saturated, and leaves the queue; an object past the address space, misaligned, denied, or in a failing granule, whose read is logged, gives cause 9. Each step of a collective program, its counters read as acquires and changed as releases at domain scope, does what its operation says (signal, receive with a copy or a reduction, copy, wait, loop, next, end) where the counters it reads let it, counts, and goes to its next step, a step that is not valid failing the program with cause 7. The lowest free engine, and a program's steps read as far as its end, are the model's choices (log entries 25, 26). -/
def Obligations.EngineCommandsRunAndComplete : Prop :=
  (∀ (s : State) (id : Nat) (c : Command), s.command? id = some c →
    (s.mayStart c = true → c.coll = none →
      (c.skipped = true → c.started = false → exec (.commandStart id) s =
        .next (s.setCommand { c with started := true, finished := true, failure := some 6 })) ∧
      (c.skipped = false ∨ c.started = true →
        let c1 := if c.started then c else { c with started := true, engine := s.freeEngine c.core }
        let s0 := s.setCommand c1
        let s1 := if c.rel = false then { s0 with freshCount := s0.freshCount + 2 ^ 57 } else s0
        let tw := c.core / 32
        let calm := s.copied = false ∧ (∀ x ∈ s.towers, x.posted = []) ∧ c.got = [] ∧ c.did = [] ∧ (c.rel = true ∨ s.homeLog = [])
        let maps := fun (a : Nat) (k : AccKind) (x : Loc) => ∃ l, walk s (c.tlb s) c.asid a = .ok x l ∧ l.allows c.smode k = true
        let puts := fun (v : State) (x : Loc) (bs : List Byte) (sat : BitVec 32) => exec (.commandStart id) s =
          .next (((v.peersFirst tw x bs.length).towerWrite tw none {} x bs).setCommand { c1 with finished := true, satMask := sat })
        (c.kind = .cpy → exec (.commandStart id) s = .next (s1.settleRun c1 (c1.runCpy s1))) ∧
        (c.kind = .cpyrd → exec (.commandStart id) s = .next (s1.settleRun c1 (c1.runCpyrd s1))) ∧
        (c.kind = .cpycv → exec (.commandStart id) s = .next (s1.settleRun c1 (c1.runCpycv s1))) ∧
        (c.kind = .coll → exec (.commandStart id) s = .next (s1.startColl c1)) ∧
        (∀ n e dst src x y, calm → c.kind = .cpy → c.reg 0 = dst → c.reg 1 = src → c.reg 2 = n + e * 2 ^ 40 → e < 4 → 0 < n → n < 2 ^ 40 →
          n % 2 ^ e = 0 → dst % 2 ^ e = 0 → src % 2 ^ e = 0 → dst % 2 ^ 16 + n ≤ 2 ^ 16 → src % 2 ^ 16 + n ≤ 2 ^ 16 →
          dst + n ≤ 2 ^ 56 → src + n ≤ 2 ^ 56 → (dst + n ≤ src ∨ src + n ≤ dst) →
          maps dst .write x → maps src .read y → s.locFails y n = false →
          puts { s1 with freshCount := s1.freshCount + n } x (s.readLoc y n) 0) ∧
        (∀ op dst src x y, calm → c.kind = .cpyrd → op < 6 → c.reg 0 = dst → c.reg 1 = src →
          let e := [4, 2, 4, 8, 4, 4].getD op 0
          let f : Nat → Nat → Nat := match op with
            | 0 => fAdd fmtF32 .rne
            | 1 => fAdd fmtBf16 .rne
            | 2 => fun a b => (a + b) % 2 ^ 32
            | 3 => fun a b => (a + b) % 2 ^ 64
            | 4 => fMax fmtF32
            | _ => fMin fmtF32
          c.reg 2 = e + op * 2 ^ 44 → dst % e = 0 → src % e = 0 → dst + e ≤ 2 ^ 56 → src + e ≤ 2 ^ 56 →
          maps dst .both x → (∀ p, x = .host p → op = 2 ∨ op = 3) → maps src .read y → s.locFails x e = false → s.locFails y e = false →
          puts s1 x (leBytes e (f (ofLeBytes ((s1.peersFirst tw x e).readLoc x e)) (ofLeBytes (s.readLoc y e)))) 0) ∧
        (∀ dst src stride x (y : Nat → Loc), calm → c.kind = .cpycv → c.reg 0 = dst → c.reg 1 = src → stride < 2 ^ 32 →
          c.reg 2 = 8 + 2 ^ 18 + stride * 2 ^ 32 → stride % 4 = 0 → src % 4 = 0 → dst % 2048 = 0 → dst + 2080 ≤ 2 ^ 56 → dst % 2 ^ 16 + 2080 ≤ 2 ^ 16 →
          src < 2 ^ 56 → (∀ i, i < 32 → src + i * stride + 32 ≤ 2 ^ 56 ∧ (src + i * stride) % 2 ^ 16 + 32 ≤ 2 ^ 16 ∧
            maps (src + i * stride) .read (y i) ∧ s.locFails (y i) 32 = false) → maps dst .write x →
          let q := fun (i : Nat) => quantise 7 true .rne ((List.range 8).map (fun k => fmtF32.val (ofLeBytes (((s.readLoc (y i) 32).drop (4 * k)).take 4))))
          ∃ bs sat, puts s1 x bs sat ∧ bs.length = 2080 ∧ ∀ i, i < 32 → sat.getLsbD i = (q i).sat ∧
            bs.getD (2048 + i) 0 = BitVec.ofInt 8 (q i).exp ∧ ∀ ch k, ch < 8 → k < 8 →
              (bs.getD (256 * ch + 8 * i + k) 0).toNat = ((q i).mant.getD k 0 % (([223, 227, 229, 233, 239, 241, 251, 255].getD ch 1 : Nat) : Int)).toNat))) ∧
    (c.stopped = false → c.finished = true → c.stalled = false →
      (∀ x ∈ s.commands, x.lid = c.lid → x.block = c.block → x.queue = c.queue → c.id ≤ x.id) →
      let value := fun (old : Nat) => ((old + 1) % 2 ^ 64) ||| (if c.failure = none then 0 else 2 ^ 63) |||
        (if c.kind = .cpycv ∧ c.failure = none ∧ c.satMask ≠ 0 then 2 ^ 62 else 0)
      (c.reg 3 = 0 → exec (.commandComplete id) s = .next (s.retireCommand c)) ∧
      (∀ x f, c.reg 3 ≠ 0 → c.reg 3 < 2 ^ 56 → c.reg 3 % 8 = 0 → walk s (c.tlb s) c.asid (c.reg 3) = .ok x f → f.allows c.smode .both = true →
        s.locFails x 8 = false → exec (.commandComplete id) s =
          let tw := c.core / 32
          let sc := c.endScope s x
          let s1 := (if sc = .dom then s.flushPosted tw (fun _ => false) else s).peersFirst tw x 8
          .next ((s1.towerWrite tw none { rel := true, scope := sc } x (leBytes 8 (value (ofLeBytes (s1.readLoc x 8))))).retireCommand c)) ∧
      let fails := fun (v : State) => exec (.commandComplete id) s =
        .next (((v.setCommand { c with failure := some 9 }).failQueue { c with failure := some 9 } 9).retireCommand { c with failure := some 9 })
      (c.reg 3 ≠ 0 → (2 ^ 56 ≤ c.reg 3 ∨ c.reg 3 % 8 ≠ 0) → fails s) ∧
      (∀ x f, c.reg 3 ≠ 0 → c.reg 3 < 2 ^ 56 → c.reg 3 % 8 = 0 → walk s (c.tlb s) c.asid (c.reg 3) = .ok x f →
        (f.allows c.smode .both = false → fails s) ∧
        (∀ pa, x = .pkg pa → f.allows c.smode .both = true → s.granulesFail pa 8 = true → ∃ n, n < 8 ∧ s.granulesFail (pa + n) 1 = true ∧
          fails (s.log ((pa + n) / Config.towerBytes) { kind := 1, addr := pa + n }))))) ∧
  ∀ (s : State) (id : Nat) (c : Command) (k : Coll), s.command? id = some c → c.coll = some k → c.finished = false → c.stalled = false → c.stopped = false →
    c.failure = none →
    let w := k.steps.getD k.pos 0
    let t := bitsOf w.toNat 59 56
    let sb := bitsOf w.toNat 43 40
    let db := bitsOf w.toNat 39 36
    let q := k.q w
    let goes := fun (i : Instr) (s1 : State) (k1 : Coll) => exec i s =
      .next (if k1.invalid then s1.failColl { c with coll := some k1, got := [], did := [] } 7
        else s1.setCommand { c with coll := some k1, got := [], did := [], finished := false })
    let met := fun (s : State) (a : Nat) => c.acquired s a
    let op := bitsOf w.toNat 63 60
    let here := Side.virt (k.at k.rank db (k.p w))
    let there := Side.virt (k.at q sb (k.p w))
    let after : Coll := { k with pos := k.pos + 1 }
    let ready := fun (x : Nat) => c.readCounter s ((k.peer q).2 + 16 * t) = .ok x ∧ x < 2 ^ 63 ∧ k.got.getD t 0 < x ∧ k.size sb = k.size db
    let got : Coll := { k with got := modAt k.got t (· + 1), pos := k.pos + 1 }
    let done := fun (s1 s2 : State) => c.modCounter s1 ((k.peer q).2 + 16 * t + 8) (· + 1) = .ok s2
    let sent := fun (s1 s2 : State) => c.modCounter s1 ((k.peer k.rank).2 + 16 * t) (· + 1) = .ok s2
    (op = 1 → ∀ s1, sent s s1 → goes (.collSend id) s1 { k with sent := modAt k.sent t (· + 1), pos := k.pos + 1 }) ∧
    (op = 2 → ∀ x s1 z s2, ready x → c.stepCopy (met s ((k.peer q).2 + 16 * t)) here there (k.size db) = .done s1 z → done s1 s2 → goes (.collRecv id) s2 got) ∧
    (op = 3 → ∀ x s1 z s2, ready x → c.stepReduce k (met s ((k.peer q).2 + 16 * t)) here there (k.size db) = .done s1 z → done s1 s2 → goes (.collRr id) s2 got) ∧
    (op = 4 → ∀ x s1 z s2 s3, ready x → c.stepReduce k (met s ((k.peer q).2 + 16 * t)) here there (k.size db) = .done s1 z → done s1 s2 → sent s2 s3 →
      goes (.collRrs id) s3 { got with sent := modAt k.sent t (· + 1) }) ∧
    (op = 5 → ∀ s1 z, c.stepCopy s here (.virt (k.at k.rank sb (k.p w))) (k.size db) = .done s1 z → goes (.collCopy id) s1 after) ∧
    (op = 6 → ∀ v, c.readCounter s ((k.peer k.rank).2 + 16 * t + 8) = .ok v → v < 2 ^ 63 → k.sent.getD t 0 ≤ v → goes (.collWait id) (met s ((k.peer k.rank).2 + 16 * t + 8)) after) ∧
    (op = 7 → let n := bitsOf w.toNat 31 0
      (n = 0 → goes (.collLoop id) s { k with pos := afterNext (k.steps.drop (k.pos + 1)) (k.pos + 1) 0 }) ∧
      (n ≠ 0 → goes (.collLoop id) s { k with pos := k.pos + 1, loops := (k.pos + 1, 0, n) :: k.loops })) ∧
    (op = 8 → ∀ st x n rest, k.loops = (st, x, n) :: rest →
      (x + 1 < n → goes (.collNext id) s { k with pos := st, loops := (st, x + 1, n) :: rest }) ∧
      (n ≤ x + 1 → goes (.collNext id) s { k with pos := k.pos + 1, loops := rest })) ∧
    (op = 9 → ∀ s1, c.allDone k s (List.range 16) = .ok true → c.clearOwn k (List.range 32) ((List.range 16).foldl (fun s t => met s ((k.peer k.rank).2 + 16 * t + 8)) s) = .ok s1 →
      exec (.collEnd id) s = .next (s1.setCommand { c with coll := some k, got := [], did := [], finished := true })) ∧
    (∀ (a : Nat) (f : Nat → Nat) (x : Loc) (l : Leaf), a < 2 ^ 56 → a % 8 = 0 → walk s (c.tlb s) c.asid a = .ok x l → l.allows c.smode .both = true →
      s.locFails x 8 = false →
      let s1 := (s.flushPosted (c.core / 32) (fun _ => false)).peersFirst (c.core / 32) x 8
      c.modCounter s a f = .ok (s1.towerWrite (c.core / 32) none { rel := true, scope := .dom } x
        (leBytes 8 (f (ofLeBytes (s1.readLoc x 8)) % 2 ^ 64))))

/-- Submission takes the entry at a queue's head, but none while the partition's core set changes. With an aligned record that can be read, the launch has the record's sixteen words and the entry's addresses, and is rejected exactly where one of the reasons 1 to 6 and 8 of R27 holds, with the lowest that holds; a record that cannot be read gives reason 7 (1 or 2 where the entry itself is bad), a misaligned record address 2 (1 where a reserved bit is set too). A launch not rejected is queued, one rejected ends with fate 2 and its reason, one whose entry was cancelled before with fate 4. Dequeue, its turn come (no launch before it in its queue, fewer than 64 running in its partition, fewer than 8 of them deterministic) and its semaphore satisfied, fixes the grid (the lesser of the bound and W3) and the constants k0 to k23 from the table and the bound words and makes it running, or ends it, finished, with an empty grid; a word that cannot be read ends it with reason 7. That a record is read wherever its address is aligned, and which reason is the lowest where the entry is bad too, is the model's reading (log entry 66), and that submission waits for a core set (log entry 67). -/
def Obligations.LaunchesAreSubmittedAndDequeued : Prop :=
  (∀ (s : State) (part : Fin 16) (prio : Fin 8) (asid : BitVec 16) (sm : Bool) (p : Partition), s.partition? part.val = some p →
    let q := p.queues.getD prio.val {}
    let place := q.base + 16 * (q.head % 2 ^ q.log2)
    let e0 := memNat s.mem place 8
    let e1 := memNat s.mem (place + 8) 8
    let sub := s.submission part prio asid sm p e0 e1
    let l := sub.2.1
    let bad := sub.2.2
    let entry : Launch := { id := s.nextLaunch, part := part, prio := prio, asid := asid, smode := sm, lrec := BitVec.ofNat 56 e0
                            fateAddr := BitVec.ofNat 56 e1, words := [] }
    let reserved := e0 / 2 ^ 56 ≠ 0 ∨ e1 / 2 ^ 56 ≠ 0
    let misplaced := e1 % 8 ≠ 0
    (e0 % 64 ≠ 0 → sub = (s, entry, some (if e0 / 2 ^ 56 = 0 ∧ e1 / 2 ^ 56 = 0 then 2 else 1))) ∧
    (∀ f, e0 % 64 = 0 → s.readRun [] asid sm (e0 % 2 ^ 56) 128 = .error f → l = entry ∧
      bad = some (if e0 / 2 ^ 56 = 0 ∧ e1 / 2 ^ 56 = 0 then if e1 % 8 = 0 then 7 else 2 else 1)) ∧
    (∀ bs, e0 % 64 = 0 → s.readRun [] asid sm (e0 % 2 ^ 56) 128 = .ok bs →
      let w := fun (i : Nat) => ofLeBytes ((bs.drop (8 * i)).take 8)
      let f := fun (i hi lo : Nat) => bitsOf (w i) hi lo
      let gangs := f 3 14 9 + 1
      let why := fun (r : Nat) => match r with
        | 1 => reserved ∨ f 0 63 56 ≠ 0 ∨ f 1 32 32 ≠ 0 ∨ f 1 63 54 ≠ 0 ∨ f 2 63 56 ≠ 0 ∨ f 3 31 19 ≠ 0 ∨ f 4 31 29 ≠ 0 ∨ f 4 15 10 ≠ 0 ∨
          f 5 63 56 ≠ 0 ∨ f 6 63 16 ≠ 0 ∨ f 7 63 56 ≠ 0 ∨ f 9 63 56 ≠ 0 ∨ f 10 63 56 ≠ 0 ∨ f 11 63 61 ≠ 0 ∨ f 12 63 61 ≠ 0 ∨
          w 13 ≠ 0 ∨ w 14 ≠ 0 ∨ w 15 ≠ 0
        | 2 => misplaced ∨ w 0 % 4 ≠ 0 ∨ w 1 % 4 ≠ 0 ∨ w 2 % 4 ≠ 0 ∨ w 5 % 8 ≠ 0 ∨ w 7 % 8 ≠ 0 ∨ w 9 % 8 ≠ 0 ∨ w 10 % 4 ≠ 0 ∨ w 11 % 8 ≠ 0 ∨ w 12 % 8 ≠ 0
        | 3 => 8 < f 3 8 5 ∨ 4096 < f 4 28 16 ∨ 512 < f 4 9 0 ∨ 1024 < (gangs + 3) / 4 * (16 * (f 3 4 0 + 1)) ∨ 16 < gangs * f 3 8 5
        | 4 => f 4 39 32 = 0 ∨ f 4 47 40 = 0 ∨ f 4 55 48 = 0 ∨ f 4 63 56 = 0
        | 5 => f 3 63 32 = 0 ∧ f 10 55 0 = 0
        | 6 => 22 < f 11 60 56 ∨ 22 < f 12 60 56
        | 8 => ∀ c ∈ p.cores, (p.cores.filter (fun d => d / 4 == c / 4)).length < f 3 16 15 + 1
        | _ => False
      sub.1 = s ∧ l = { entry with words := (List.range 16).map (fun i => BitVec.ofNat 64 (w i)) } ∧
      (bad = none ↔ ∀ r, ¬ why r) ∧ (∀ r, bad = some r ↔ why r ∧ ∀ x, x < r → ¬ why x)) ∧
    (let q1 : LaunchQueue := { q with head := q.head + 1, cancelled := q.cancelled.filter (· != q.head) }
     let s1 : State := { sub.1.setPartition part.val { p with queues := p.queues.set prio.val q1 } with
      launches := sub.1.launches ++ [l], nextLaunch := sub.1.nextLaunch + 1 }
     (p.leaving ≠ none → exec (.launchSubmission part prio asid sm) s = .next s) ∧
     (q.head ≠ q.tail → p.leaving = none →
      (q.head ∈ q.cancelled → exec (.launchSubmission part prio asid sm) s = .next (s1.endLaunch l.id 4 0)) ∧
      (q.head ∉ q.cancelled → p.lost = [] →
        (bad = none → exec (.launchSubmission part prio asid sm) s = .next s1) ∧
        (∀ r, bad = some r → exec (.launchSubmission part prio asid sm) s = .next (s1.endLaunch l.id 2 r)))))) ∧
  (∀ (s : State) (l : Launch) (lid : Nat), s.launch? lid = some l → l.phase = .queued →
    let w := recWord l.words
    let running := s.launches.filter (fun x => x.part = l.part ∧ x.phase = .running)
    let turn := (∀ x ∈ s.launches, x.part = l.part → x.prio = l.prio → x.phase = .queued → l.id ≤ x.id) ∧ running.length < 64 ∧
      (bitsOf (w 3) 18 18 = 1 → (running.filter (fun x => bitsOf (recWord x.words 3) 18 18 = 1)).length < 8)
    let reads := fun (a n : Nat) (v : Nat) => ∃ bs, s.readRun [] l.asid l.smode a n = .ok bs ∧ v = ofLeBytes bs
    let bound := fun (i n : Nat) (b : Option Nat) => if w i % 2 ^ 56 = 0 then b = none else ∃ v, b = some v ∧ reads (w i % 2 ^ 56) n v
    let semaphore := w 7 % 2 ^ 56 = 0 ∨ ∃ v, reads (w 7 % 2 ^ 56) 8 v ∧ w 8 ≤ v
    (¬ turn → exec (.launchDequeue lid) s = .next s) ∧
    (turn → (∃ v, w 7 % 2 ^ 56 ≠ 0 ∧ reads (w 7 % 2 ^ 56) 8 v ∧ v < w 8) → exec (.launchDequeue lid) s = .next s) ∧
    (turn → w 7 % 2 ^ 56 ≠ 0 → ∀ e, s.dispatchRead l (w 7 % 2 ^ 56) 8 = .error e →
      exec (.launchDequeue lid) s = .next (e.endLaunch l.id 2 7)) ∧
    (turn → semaphore →
      (∀ e, s.dequeueWords l = .error e → exec (.launchDequeue lid) s = .next (e.endLaunch l.id 2 7)) ∧
      ∀ g a b t, s.dequeueWords l = .ok (g, a, b, t) →
        bound 10 4 g ∧ bound 11 8 a ∧ bound 12 8 b ∧ t.length = min (w 6 % 2 ^ 16) 23 ∧
        (∀ i, i < t.length → reads (w 5 % 2 ^ 56 + 8 * i) 8 (t.getD i 0)) ∧
        (let grid := match g with
          | some v => min v (bitsOf (w 3) 63 32)
          | none => bitsOf (w 3) 63 32
         let k := (List.range 23).map (fun i => BitVec.ofNat 64 (match a, b with
          | _, some y => if i = bitsOf (w 12) 60 56 then y else match a with
            | some x => if i = bitsOf (w 11) 60 56 then x else t.getD i 0
            | none => t.getD i 0
          | some x, none => if i = bitsOf (w 11) 60 56 then x else t.getD i 0
          | none, none => t.getD i 0)) ++ [BitVec.ofNat 64 (w 4 / 2 ^ 32)]
         let s1 := ({ s with dequeues := s.dequeues + 1 } : State).setLaunch { l with phase := .running, homeMark := s.homeLog.length, order := s.dequeues, grid := grid, k := k }
         exec (.launchDequeue lid) s = .next (if grid = 0 then s1.endLaunch l.id 1 0 else s1))))

/-- A record written while idle, its reserved bits zero, with a start that Plovaeben's policy makes (R334) reads start with the fields given; with a resume it makes, the saved block is read back. In another state, with a reserved bit set, or where no launch is to have the core, the write changes nothing. A saved, exited or killed record becomes idle. Once every present member's record reads start, in one quad and in their turn, the ensemble's blocks start together, each as R31 says. A running block that the policy saves stops, words that issue again leaving their places and the lease given up; once every member left of its ensemble is quiet, they are saved, or killed where their launch has a killed block (R331); a record written with kill kills its block. A block with every lane exited and nothing outstanding frees its core and counts in its launch, and its unfinished commands that name its scratchpads fail with cause 3. How the policy's choices follow from R334, and which cores are held, is log entry 67. -/
def Obligations.BindRecordsAndBlocksTakeTheirSteps : Prop :=
  (∀ (s : State) (core : Nat) (r : BindFields), core < s.cores.length →
    let k := s.core core
    (k.bind = .idle → r.reserved = 0 →
      (∀ l, s.mayPlace false core r = some l →
        exec (.bindStart core r) s = .next (s.setCore core { k with bind := .start, bindRec := r, lid := l.id, freed := false })) ∧
      (s.mayPlace false core r = none → exec (.bindStart core r) s = .next s) ∧
      (∀ l x, s.mayPlace true core r = some l → s.savedFor l r = some x → exec (.bindResume core r) s = .next (s.resumeBlock core r x)) ∧
      (s.mayPlace true core r = none → exec (.bindResume core r) s = .next s)) ∧
    (k.bind ≠ .idle ∨ r.reserved ≠ 0 → exec (.bindStart core r) s = .next s ∧ exec (.bindResume core r) s = .next s) ∧
    (k.bind = .saved ∨ k.bind = .exited ∨ k.bind = .killed → exec (.bindIdle core) s = .next (s.setCore core { k with bind := .idle })) ∧
    (k.bind ≠ .saved → k.bind ≠ .exited → k.bind ≠ .killed → exec (.bindIdle core) s = .next s) ∧
    (∀ b, k.block = some b → k.bind = .running ∨ k.bind = .saving → exec (.bindKill core) s =
      .next (State.deliver deliverFuel (s.killBlock core ⟨b.cfg.index, [], 2⟩).2 (s.killBlock core ⟨b.cfg.index, [], 2⟩).1)) ∧
    (∀ b, k.block = some b → k.bind = .running → s.maySave b = false → exec (.bindSave core) s = .next s) ∧
    (∀ b, k.block = some b → k.bind = .running → s.maySave b = true → ∃ t b', exec (.bindSave core) s = .next t ∧
      (t.core core).bind = .saving ∧ (t.core core).block = some b' ∧ b'.cfg = b.cfg ∧ b'.lease = {} ∧ b'.gangs = b.gangs.map Gang.quiet ∧
      ((∀ g ∈ b.gangs, ∀ h ∈ g.held, ∀ j, h.kind ≠ .toss j) → SameBytes s t)) ∧
    (∀ b, k.block = some b → k.bind = .saving →
      (∀ m ∈ s.membersOf b.ensemble, (s.core m).bind = .saving ∧ ∃ x, s.block? m = some x ∧ s.quiesced x.quiet = true ∧ x.finished = false) →
      exec (.contextSaveComplete core) s =
        .next ((s.membersOf b.ensemble).foldl (fun x m => x.saveOne (s.moves b) m) { s with starts := s.starts + 1 })) ∧
    (∀ b moved, k.block = some b → (s.launch? b.cfg.lid).any (·.kill.isSome) = true → s.saveOne moved core =
      State.deliver deliverFuel (s.killBlock core ⟨b.cfg.index, [], 2⟩).2 (s.killBlock core ⟨b.cfg.index, [], 2⟩).1) ∧
    (∀ b, k.block = some b → k.bind = .running ∨ k.bind = .saving → b.finished = true →
      (∀ m x, s.block? m = some x → x.cfg.lid = b.cfg.lid → x.cfg.index = b.cfg.index → m = core) →
      (∀ x ∈ s.saved, x.block.cfg.lid = b.cfg.lid → x.block.cfg.index ≠ b.cfg.index) → ∃ t, exec (.blockExit core) s = .next t ∧
      (t.core core).block = none ∧ (t.core core).bind = .exited ∧
      (∀ l, s.launch? b.cfg.lid = some l → ∃ l', t.launch? b.cfg.lid = some l' ∧ l'.exited = l.exited ++ [b.cfg.index]) ∧
      (∀ c ∈ s.commands, c.lid = b.cfg.lid → c.block = b.cfg.index → c.namesScratch = true → c.finished = false → c.failure = none →
        ∃ x ∈ t.commands, x.id = c.id ∧ x.failure = some 3 ∧ x.finished = true)) ∧
    (∀ l, k.bind = .start → s.launchOf k = some l →
      let cs := (s.startCores k).filter (fun m => (ensembleBlocks l k.bindRec.block.toNat).contains (s.core m).bindRec.block.toNat)
      let want := ensembleBlocks l k.bindRec.block.toNat
      cs.length = want.length → (cs.map (fun m => (s.core m).bindRec.block.toNat)).Nodup → want.headD 0 = l.started.length →
      (∀ m ∈ cs, m / 4 = cs.headD 0 / 4) → s.takesBlocks (cs.headD 0 / 32) = true →
      ∃ t, exec (.ensembleStart core) s = .next t ∧ (∃ l', t.launch? l.id = some l' ∧
          l'.started = l.started ++ cs.map (fun m => (s.core m).bindRec.block.toNat)) ∧
        ∀ m ∈ cs, (t.core m).bind = .running ∧ (t.core m).l1 = [] ∧ ∃ b, (t.core m).block = some b ∧
          b.cfg = cfgOf l (s.core m).bindRec ∧ b.ds = [] ∧ b.rs = [] ∧ b.teller = [] ∧ b.since = (s.core m).cycles ∧
          b.gangs = List.replicate b.cfg.nGangs
            { lanes := List.replicate 32 { pc := b.cfg.code + BitVec.ofNat 56 (bitsOf (recWord l.words 1) 31 0) }, k := l.k
              slots := List.replicate b.cfg.slots {} }))

/-- Each of a stream's stages (source, tokens, close) works unless it stalls itself, whatever the others do. With no message, an element waiting and room in its output port, a stream takes the element, pushes its start marker, and holds the message of the descriptor it names (cause 8 where that breaks R276, or where the element names no descriptor, of which no status is written). A piece decoded without a fault, within the capacity and well coded, is written as text after what was written before. Tokens that wait go to the output port as far as it has room; when none wait, the next piece of the text is tokenised. A message whose text and tokens are all delivered has its status written and its end marker pushed; one that met a fault has its status written with the cause and the offset, where it has one to write, and its abandoned marker and quarantine element pushed; none of its stages stalls then. The start marker of a message with a bad descriptor, and which cause a failed status write has, are the model's reading (log entry 41), the length of text written before a fault and an offset R282 does not fix free values (log entry 10). -/
def Obligations.IntakeStreamsTakeTheirStages : Prop :=
  ∀ (s : State) (tw st : Nat) (x : Stream), (s.tower tw).stream? st = some x → x.stopped = false →
    let write := fun (s1 : State) (f : Stream → Stream) => s1.modStream tw st f
    let word := fun (n : Nat) => BitVec.ofNat 64 n
    let works := fun (stage : IntakeStage) => ∀ p ∈ x.stalled, p.1 ≠ stage
    (∀ e rest, works .source → x.msg = none → x.inQ = e :: rest → x.outQ.length < 64 →
      let starts := fun (m : Msg) => exec (.intakeMessageStart tw st) s = .next (write s (fun y => { y with
        inQ := y.inQ.drop 1, msg := some m, outQ := y.outQ ++ [word (2 ^ 60 + e.toNat % 2 ^ 56)] }))
      (e.toNat % 64 ≠ 0 ∨ 2 ^ 56 ≤ e.toNat → starts
        { desc := e, src := 0, srclen := 0, policy := false, cs := 0, frm := 0, text := 0, cap := 0, fault := some (8, 0), noStatus := true }) ∧
      (∀ loc leaf, e.toNat % 64 = 0 → e.toNat < 2 ^ 56 → walk s (x.tlb s) x.asid e.toNat = .ok loc leaf → leaf.allows x.smode .read = true → s.locFails loc 64 = false →
        let w := fun (i : Nat) => ofLeBytes (((s.readLoc loc 64).drop (8 * i)).take 8)
        let bad := bitsOf (w 1) 63 49 ≠ 0 ∨ 5 ≤ bitsOf (w 1) 47 44 ∨ 3 ≤ bitsOf (w 1) 43 40 ∨ bitsOf (w 0) 63 56 ≠ 0 ∨ bitsOf (w 3) 63 56 ≠ 0 ∨
          bitsOf (w 4) 63 40 ≠ 0 ∨ w 5 ≠ 0 ∨ w 6 ≠ 0
        ∃ m : Msg, starts m ∧ m.desc = e ∧ m.src = bitsOf (w 0) 55 0 ∧ m.srclen = bitsOf (w 1) 39 0 ∧ m.frm = bitsOf (w 1) 43 40 ∧ m.cs = bitsOf (w 1) 47 44 ∧
          m.policy = decide (bitsOf (w 1) 48 48 = 1) ∧ m.text = bitsOf (w 3) 55 0 ∧ m.cap = bitsOf (w 4) 39 0 ∧
          (bad → m.fault = some (8, 0)) ∧ (¬ bad → m.fault = none))) ∧
    ∀ m, x.msg = some m →
      (works .source → m.decodeDone = false → m.fault = none → ∀ d, m.decode x s = .ok d →
        exec (.chunkDecodeComplete tw st) s = .next (s.commitDecoded tw x m d) ∧
        (let dec := m.decoded ++ d.bytes
         let tx := transcode m.cs m.policy (d.final && d.cause.isNone) (dec.length + 1) 0 dec
         tx.bytes.length ≤ m.cap → tx.err = none → d.cause = none → ∀ s1, x.writeText s (m.text + m.utf8.length) (tx.bytes.drop m.utf8.length) = .ok s1 →
           exec (.chunkDecodeComplete tw st) s = .next (s1.setMsg tw x.handle { m with
             decoded := dec, repl := tx.repl, utf8 := tx.bytes, chunks := m.chunks + 1, decodeDone := d.final }))) ∧
      (works .tokens → x.notok = false → m.pendingTokens ≠ [] → x.outQ.length < 64 →
        let k := min m.pendingTokens.length (64 - x.outQ.length)
        exec (.intakePieceTokenised tw st) s = .next ((s.modStream tw x.handle (fun y => { y with outQ := y.outQ ++ m.pendingTokens.take k })).setMsg tw x.handle
          { m with pendingTokens := m.pendingTokens.drop k, tokens := m.tokens + k })) ∧
      (∀ cls bnd mtab n, works .tokens → x.notok = false → m.pendingTokens = [] → m.consumed < m.utf8.length → x.tables s = .ok (cls, bnd, mtab) →
        pieceLen cls bnd (m.decodeDone && m.fault.isNone) (m.utf8.drop m.consumed) 0 0 0 = some n →
        exec (.intakePieceTokenised tw st) s = .next (({ s with freshCount := s.freshCount + 2 ^ 20 } : State).deliverTokens tw x
          { m with consumed := m.consumed + n, pendingTokens := tokensOf mtab x.mcount s.freshCount ((m.utf8.drop m.consumed).take n) })) ∧
      (∀ s1, works .close → m.decodeDone = true → m.fault = none → m.pendingTokens = [] → (x.notok = true ∨ m.utf8.length ≤ m.consumed) → x.outQ.length < 64 →
        s.writeRun (x.tlb s) x.asid x.smode (m.desc.toNat + 56) (leBytes 8 (m.utf8.length % 2 ^ 40 + min m.repl 65535 * 2 ^ 48)) = .ok s1 →
        exec (.intakeMessageEnd tw st) s = .next (write s1 (fun y => { y with
          msg := none, outQ := y.outQ ++ [word (2 * 2 ^ 60 + m.tokens % 2 ^ 32)] }))) ∧
      (∀ cause off s1, works .close → m.fault = some (cause, off) → m.pendingTokens = [] → x.outQ.length < 64 → x.quarQ.length < 16 →
        (m.noStatus = true ∧ s1 = s ∨ m.noStatus = false ∧
          s.writeRun (x.tlb s) x.asid x.smode (m.desc.toNat + 56) (leBytes 8 (off % 2 ^ 40 + cause * 2 ^ 40 + min m.repl 65535 * 2 ^ 48)) = .ok s1) →
        exec (.messageQuarantine tw st) s = .next (write (s1.freeStages tw st) (fun y => { y with
          msg := none
          outQ := y.outQ ++ [word (3 * 2 ^ 60 + m.tokens % 2 ^ 32)]
          quarQ := y.quarQ ++ [word (cause * 2 ^ 56 + m.desc.toNat % 2 ^ 56)] })))

/-- A write to FBDONE for an entry that is not valid changes nothing; for a valid one the record is freed and each requester of it walks again or fails as for a denied access. A word that walks again repeats from step 4 of R108 on with the operands it had read, or, stalled at its fetch, is fetched again; a command, a stage of a stream or the Teller goes on. A word that fails raises access-violation naming the lane and address that met the entry, with its lanes standing where they stood; a qbind gives 0. REPLAY frees every record of the tower, clears the dropped bit, and every stalled requester of the tower walks again, in a record or not. A TLBINV write sets INVSTAT's busy bit and its scope unless it is set; once no access is under way whose translation used an entry of the scope, the held entries of the scope, of one page at every level where a page is named, are gone and the bit clears; nothing happens before. TCAUSE[8] clear at such a trap, and 0 from such a qbind, are the model's readings (log entries 16 and 35). -/
def Obligations.FaultRecordsAndInvalidations : Prop :=
  (∀ (s : State) (tw e : Nat),
    ((∀ r ∈ (s.tower tw).faults, r.entry ≠ some e) → exec (.fbdoneRetry tw e) s = .next s ∧ exec (.fbdoneFail tw e) s = .next s) ∧
    (∀ r, (s.tower tw).faults.find? (fun x => x.entry == some e) = some r →
      let s1 := s.modTower tw (fun x => { x with faults := x.faults.filter (fun y => y.key != r.key) })
      exec (.fbdoneRetry tw e) s = .next (r.reqs.foldl (fun u q => u.retry tw q) s1) ∧
      exec (.fbdoneFail tw e) s = .next (r.reqs.foldl (fun u q => u.failReq tw r.key q) s1)) ∧
    (let s1 : State := { s with
      cores := s.cores.mapIdx (fun n (x : Core) =>
        if n / 32 = tw then { x with block := x.block.map (fun b => { b with tellerStall := false }) } else x)
      commands := s.commands.map (fun (c : Command) => if c.core / 32 = tw then { c with stalled := false } else c)
      towers := modAt s.towers tw (fun x => { x with
        faults := [], dropped := false, streams := x.streams.map (fun y => { y with stalled := [] }) }) }
     exec (.replay tw) s = .next ((s.stallsOf tw).foldl (fun u w => u.redo w.1 w.2.1 w.2.2) s1) ∧
     ∀ core gi id, (core, gi, id) ∈ s.stallsOf tw ↔ core / 32 = tw ∧ ∃ g, s.gang? core gi = some g ∧ ∃ h ∈ g.held, h.id = id ∧
       ∃ ws work, h.kind = .fault ws work)) ∧
  (∀ (s : State) (tw core gi id key : Nat) (b : Block) (g : Gang) (h : Held) (ws : List (Nat × Nat × Nat)) (work : Option VWork),
    s.block? core = some b → b.gangs[gi]? = some g → g.heldOf id = some h → h.kind = .fault ws work →
      let up := s.setGang core gi (g.unhold id h.lanes)
      let again : State := { up with cur := h.iss }
      s.retry tw (.word core gi id) = s.redo core gi id ∧ s.retry tw (.fetch core gi id) = s.redo core gi id ∧
      (work = none → s.redo core gi id = up) ∧
      (∀ k c u, work = some k → ctx? again = some c → c.repeatWork again k = .next u → s.redo core gi id = u.forgetReq core gi id) ∧
      (ws.find? (fun w => w.1 == key) = none → s.failReq tw key (.word core gi id) = s.redo core gi id) ∧
      (∀ d n va c e, ws.find? (fun w => w.1 == key) = some e → work = some (.bind d n va) → ctx? again = some c →
        s.failReq tw key (.word core gi id) = (c.bindResult again d 0).forgetReq core gi id) ∧
      (∀ lane info, ws.find? (fun w => w.1 == key) = some (key, lane, info) → (∀ d n va, work ≠ some (.bind d n va)) →
        (g.lane (lowLane h.lanes)).cpos ≠ 0 →
        s.failReq tw key (.word core gi id) =
          (up.trapAt core gi h.iss h.lanes none { cause := 0x0C, lane := lane, info := info }).forgetReq core gi id)) ∧
  (∀ (s : State) (c : Ctx) (w : Width) (sgn : Bool) (ord : MemOrder) (es zs : List MemElem) (op : AtomOp) (sem : ASem),
    c.repeatWork s (.load w sgn ord es zs) = c.goLoad s w sgn ord es zs ∧ c.repeatWork s (.store w ord es) = c.goStore s w ord es ∧
    c.repeatWork s (.atomic op w sem es zs) = c.goAtomic s op w sem es zs) ∧
  (∀ (s : State) (tw i : Nat),
    s.retry tw (.command i) = { s with commands := s.commands.map (fun (c : Command) => if c.id = i then { c with stalled := false } else c) } ∧
    (∀ st, s.retry tw (.intake i st) = s.modStream tw i (fun x => { x with stalled := x.stalled.filter (·.1 != st) })) ∧
    s.retry tw (.teller i) = s.modBlock i (fun b => { b with tellerStall := false })) ∧
  ∀ (s : State) (asid : BitVec 16) (page : BitVec 40),
    (s.inval = none → exec .tlbinvAll s = .next { s with inval := some none } ∧
      exec (.tlbinvAsid asid) s = .next { s with inval := some (some (asid, none)) } ∧
      exec (.tlbinvPage asid page) s = .next { s with inval := some (some (asid, some page.toNat)) }) ∧
    (s.inval ≠ none → exec .tlbinvAll s = .next s ∧ exec (.tlbinvAsid asid) s = .next s ∧ exec (.tlbinvPage asid page) s = .next s) ∧
    (∀ scope, s.inval = some scope →
      let gone := fun (x : TlbEntry) => match scope with
        | none => true
        | some (a, none) => x.asid == a
        | some (a, some p) => x.asid == a && x.page == pageAt (p * 2 ^ 16) x.level
      let used := fun (a : BitVec 16) (via : Nat × Nat) => gone (TlbEntry.mk a via.1 via.2 0) = true
      let waits := fun (o : Op) => ∃ x ∈ o.todo, (∃ l, x.spot = .vm l) ∧ ∃ a, o.asid = some a ∧ used a x.via
      let busy := ∃ k ∈ s.cores, ∃ b, k.block = some b ∧ ∃ g ∈ b.gangs, (∃ o ∈ g.ops, waits o) ∨ ∃ h ∈ g.held,
        (∃ o vas, h.kind = .peer o vas ∧ waits o) ∨ (∃ j, h.kind = .toss j ∧ ∃ v ∈ j.vias, used b.cfg.asid v) ∨
        ∃ j, h.kind = .drain j ∧ b.cfg.det = false ∧ ∃ v ∈ j.vias, used b.cfg.asid v
      (busy → exec .invalidationComplete s = .next s) ∧
      (¬ busy → exec .invalidationComplete s = .next { s with
        inval := none
        cores := s.cores.map (fun k => { k with tlb := k.tlb.filter (fun x => !gone x) })
        towers := s.towers.map (fun t => { t with tlb := t.tlb.filter (fun x => !gone x) }) }))

/-- With the device ready and not stopped, an entry whose sequence number is H2DDONE + 1 and whose kind is assigned takes effect: a launch is queued (status 0), or its queue is full (3) or absent (2); a launch queued, read by dispatch or not, is cancelled and a running one killed (0), or none has that fate record (2); a channel's retirement is pending (0), or one is already (4); an idle core's elevator map is set (0), else 4; a tower's Assay registers are returned; a partition is created, destroyed, or changed, at once or, once no ensemble of it is being placed, when no departing core has a block; a report is signed and written, the index advancing; an image that passes is written to the inactive bank and staged. Afterwards H2DDONE is the number and the response is posted. NEW_BRINGUP clears the bring-up records, and a module reset clears all but the memories and what persistent store keeps, with a new EPOCH. Writes of H2DTAIL, D2HBASE and D2HACK have their effects on the rings. What memory keeps at a reset, the signature scheme, fate 4 of an aborted queued launch, the arguments a partition message may name, the index a report has and that message 9 is not answered are the model's readings (log entries 29, 30 and 42 to 45). -/
def Obligations.HostMessagesHaveTheirEffects : Prop :=
  (∀ (s : State) (q : Word) (w : List Word) (esc : Nat) (bases : List Nat), s.nextEntry = some (q, w) → w.getD 0 0 = q →
    let W := fun (i : Nat) => (w.getD i 0).toNat
    let kind := bitsOf (W 1) 7 0
    let t := bitsOf (W 1) 10 8
    let p := bitsOf (W 1) 11 8
    let does := fun (i : Instr) (s1 : State) (status : Nat) (rest : List Nat) => exec i s = .next
      ((({ s1 with mailbox := { s1.mailbox with h2ddone := q } } : State).post (message 0x81 (status * 2 ^ 8) (q.toNat :: rest))).skimRing)
    let towers := match s.part with | .p88 => 8 | .p48 => 4 | .p28 => 2
    (kind = 1 →
      (s.partition? p = none → does .submitLaunch s 2 []) ∧
      (∀ x, s.partition? p = some x → let k := bitsOf (W 1) 18 16
        let lq := x.queues.getD k {}
        (2 ^ lq.log2 ≤ lq.tail - lq.head → does .submitLaunch s 3 []) ∧
        (lq.tail - lq.head < 2 ^ lq.log2 → does .submitLaunch ((s.writeLoc (.pkg (lq.base + 16 * (lq.tail % 2 ^ lq.log2))) (leBytes 8 (W 2) ++ leBytes 8 (W 3))).setPartition p
          { x with queues := x.queues.set k { lq with tail := lq.tail + 1 } }) 0 []))) ∧
    (kind = 2 →
      (let unread := fun (n k i : Nat) (x : Partition) (lq : LaunchQueue) => s.partition? n = some x ∧ x.queues[k]? = some lq ∧ lq.head ≤ i ∧ i < lq.tail ∧
          i ∉ lq.cancelled ∧ bitsOf (memNat s.mem (lq.base + 16 * (i % 2 ^ lq.log2) + 8) 8) 55 0 = W 2
       (∀ l ∈ s.launches, l.phase = .ended ∨ l.fateAddr = 0 ∨ l.fateAddr.toNat ≠ W 2) →
        (W 2 = 0 ∨ (∀ n k i x lq, ¬ unread n k i x lq) → does .abortLaunch s 2 []) ∧
        (W 2 ≠ 0 → (∃ n k i x lq, unread n k i x lq) → ∃ n k i x lq, unread n k i x lq ∧ does .abortLaunch
          (s.setPartition n { x with queues := x.queues.set k { lq with cancelled := i :: lq.cancelled } }) 0 [])) ∧
      (∀ l, s.launches.find? (fun l => l.phase != .ended && l.fateAddr != 0 && l.fateAddr.toNat == W 2) = some l →
        (l.phase = .queued → does .abortLaunch (s.endLaunch l.id 4 0) 0 []) ∧ (l.phase ≠ .queued → does .abortLaunch (s.killLaunch l.id) 0 []))) ∧
    (kind = 3 → t < towers →
      (((s.tower t).retired = true ∨ (s.tower t).retirePending = true) → does .retirementRequest s 4 []) ∧
      ((s.tower t).retired = false → (s.tower t).retirePending = false → does .retirementRequest
        (s.modTower t (fun x => { x with retirePending := true, channel := Fin.ofNat 8 (bitsOf (W 1) 18 16) })) 0 [])) ∧
    (kind = 3 → towers ≤ t → does .retirementRequest s 2 []) ∧
    (kind = 4 → t < towers → let c := 32 * t + bitsOf (W 1) 20 16
      let grp := BitVec.ofNat 6 (bitsOf (W 1) 29 24)
      ((s.core c).bind = .idle → does .elevatorRemapRequest (s.setCore c { s.core c with
        spare := true, grp := grp, keptMap := (true, grp), damaged := false, remap := false }) 0 []) ∧
      ((s.core c).bind ≠ .idle → does .elevatorRemapRequest s 4 [])) ∧
    (kind = 5 → t < towers → let a := fun (i : Nat) => ((s.tower t).asycnt.getD i 0).toNat
      does .assayRead s 0 [a 0 + a 1 * 2 ^ 32, a 2 + a 3 * 2 ^ 32, a 4 + a 5 * 2 ^ 32, a 6 + a 7 * 2 ^ 32, (s.tower t).asylast.toNat]) ∧
    (kind = 6 →
      let cores := (List.range 256).filter (fun c => (W (2 + c / 64)).testBit (c % 64))
      let e := bitsOf (W 6) 4 0
      let l := bitsOf (W 6) 12 8
      let P := fun (r : State × Nat × List Nat) => does (.partitionConfig esc bases) r.1 r.2.1 r.2.2
      let moved := fun (x : Partition) => if x.ring = [] then { x with escBase := esc, escLog2 := e } else x
      let stays := fun (u : State) => ∃ c, c < u.cores.length ∧ u.departs c = true ∧ (u.core c).block ≠ none
      (∀ p' cores', s.underWay = some (p', cores') → (stays s → exec (.partitionConfig esc bases) s = .next s) ∧
        (∀ x, ¬ stays s → s.partition? p' = some x → P (s.setPartition p' { moved x with cores := cores', leaving := none }, 0, []))) ∧
      (s.underWay = none →
      (bitsOf (W 1) 16 16 = 0 → s.partition? p = none → P (s, 2, [])) ∧
      (∀ x, bitsOf (W 1) 16 16 = 0 → s.partition? p = some x →
        (let inUse := s.blocksOf p ≠ [] ∨ (∃ l ∈ s.launches, l.part.val = p ∧ l.phase ≠ .ended) ∨ ∃ k ∈ x.queues, k.head ≠ k.tail
         (inUse → P (s, 4, [])) ∧ (¬ inUse → P ({ s with parts := s.parts.set p none }, 0, [])))) ∧
      (bitsOf (W 1) 16 16 = 1 → partBad (w.map (·.toNat)) s p cores = true → P (s, 2, [])) ∧
      (bitsOf (W 1) 16 16 = 1 → partBad (w.map (·.toNat)) s p cores = false → s.refusesCores p cores = true → P (s, 4, [])) ∧
      (bitsOf (W 1) 16 16 = 1 → partBad (w.map (·.toNat)) s p cores = false → s.refusesCores p cores = false → s.ringsOk esc bases e l = true →
        (s.partition? p = none → P (s.setPartition p { cores := cores, escBase := esc, escLog2 := e, queues := bases.map (fun b => { base := b, log2 := l }) }, 0, [])) ∧
        (∀ x, s.partition? p = some x →
          let begun := s.setPartition p { x with leaving := some cores }
          (s.placing p = true → exec (.partitionConfig esc bases) s = .next s) ∧
          (s.placing p = false → stays begun → exec (.partitionConfig esc bases) s = .next begun) ∧
          (s.placing p = false → ¬ stays begun → P (s.setPartition p { moved x with cores := cores }, 0, [])))))) ∧
    (kind = 7 → W 6 % 4096 = 0 → s.security.attestIndex < 65536 →
      let body := s.report ((List.range 4).flatMap (fun k => leBytes 8 (W (2 + k)))) s.security.attestIndex
      does .attestationRequest { s with
        security := { s.security with attestIndex := s.security.attestIndex + 1 }
        hostMem := cellsPut s.hostMem (W 6) (body ++ attestSign s.security.attestIndex body) } 0 []) ∧
    (kind = 7 → (W 6 % 4096 ≠ 0 → does .attestationRequest s 2 []) ∧ (W 6 % 4096 = 0 → 65536 ≤ s.security.attestIndex → does .attestationRequest s 4 [])) ∧
    (kind = 8 → let img := cellsToList s.hostMem (W 2) (bitsOf (W 3) 31 0)
      (imagePasses img s.security.fusedSvn = true → does .firmwareUpdate { s with security := { s.security with
        banks := s.security.banks.set (1 - s.security.active) img, staged := true } } 0 []) ∧
      (imagePasses img s.security.fusedSvn = false → does .firmwareUpdate s 4 [])) ∧
    (kind = 9 → exec .newBringup s = .next ({ s with towers := s.towers.map (fun (x : Tower) => { x with bringUp := {}, barred := [] }) } : State).resetModule)) ∧
  (∀ (s : State) (v : Word),
    exec (.h2dtailWrite v) s = .next (({ s with mailbox := { s.mailbox with h2dtail := v, stopped := false } } : State).skimRing) ∧
    exec (.d2hackWrite v) s = .next (({ s with mailbox := { s.mailbox with d2hack := v } } : State).pump) ∧
    exec (.d2hbaseWrite v) s = .next (({ s with mailbox := { s.mailbox with d2hbase := BitVec.ofNat 64 (v.toNat / 4096 * 4096) } } : State).rewrite 1 s.mailbox.written)) ∧
  (∀ s : State, ∃ t, exec .moduleReset s = .next t ∧ t.mem = s.mem ∧ t.hostMem = s.hostMem ∧ t.peerMem = s.peerMem ∧ t.part = s.part ∧ t.failing = s.failing ∧
    t.launches = [] ∧ t.commands = [] ∧ t.saved = [] ∧ t.parts = List.replicate 16 none ∧ t.ctxbase = 0 ∧ t.inval = none ∧ t.hostReply = .none ∧
    t.pwrlim = 5500 ∧ t.tlim = 95 ∧ t.thrcnt = 0 ∧ t.cores = s.cores.map (fun c => { keptMap := c.keptMap }) ∧
    t.towers = s.towers.map (fun x => { bringUp := x.bringUp, barred := x.barred, keptChannel := x.keptChannel }) ∧
    t.mailbox = { epoch := t.mailbox.epoch } ∧ t.mailbox.epoch ≠ 0 ∧ t.mailbox.epoch ≠ s.mailbox.epoch ∧
    t.security = if s.security.staged then { s.security with active := 1 - s.security.active, staged := false } else s.security)

/-- A host or management store writes its bytes of package memory and a host read answers with them; an AtomicOp is refused. A write to a register sets its writable fields, out-of-range limits being clamped. A peer's write stores its enabled bytes and its atomic, any of R195, acts at the home; a peer transaction of this module that fails traps its word with uncorrectable-data, lets a store's operation go on, or fails its command with cause 5 (its object's update with 9). A link that falls sets STATUS[2] and kills every live launch, and a lane repair is logged. The Assay's counter clears; a requested retirement takes effect with no block of the tower running, and is recorded; an idle core's elevator map is set. A millisecond moves each tower's duty by one; a thermal trip stops every clock. A failed elevator group damages the elements of its beat that arrive, and logs kind 8; an upset damages its granule, group or residue. A tower passes or fails its bring-up stage, stage 1 as its image does, the service clock rises in full service, and an unassigned encoding raises illegal-encoding. What is left open there, or read, is in log entries 9, 46 to 49, 57 and 61. -/
def Obligations.ManagementAndReliabilityStepsHaveTheirEffects : Prop :=
  (∀ (s : State) (a n : Nat) (bs : List Byte) (v : Word) (t ch : Nat),
    let base := s.mailbox.apbase.toNat
    let bytes := s.part.towers * Config.towerBytes
    (a + n ≤ 2 ^ 36 → base + a + n ≤ bytes → s.granulesFail (base + a) n = false →
      exec (.hostApertureRead a n) s = .next { s with hostReply := .data (cellGetList s.mem (base + a) n) }) ∧
    (a + bs.length ≤ 2 ^ 36 → base + a + bs.length ≤ bytes → exec (.hostApertureWrite a bs) s = .next (s.writeLoc (.pkg (base + a)) bs)) ∧
    exec .hostAtomicopReject s = .next { s with hostReply := .unsupportedRequest } ∧
    (a + bs.length ≤ bytes → exec (.managementCoreStore a bs) s = .next (s.writeLoc (.pkg a) bs)) ∧
    (∀ es : List (Option Byte), a + es.length ≤ bytes → s.Inv → s.granulesFail a es.length = false →
      ∃ t, exec (.peerRequest (.write a es)) s = .next t ∧ t.hostMem = s.hostMem ∧ t.peerMem = s.peerMem ∧
        ∀ x, cellGet t.mem x = if x < a then cellGet s.mem x else ((es.getD (x - a) none).getD (cellGet s.mem x))) ∧
    (a + n ≤ bytes → s.granulesFail a n = false → exec (.peerRequest (.read a n)) s = .next s) ∧
    (∀ (op : AtomOp) (wide : Bool) (x k : Word), let m := if wide then 8 else 4
      a % m = 0 → a + m ≤ bytes → s.granulesFail a m = false → exec (.peerRequest (.atomic op wide a x k)) s =
        .next (s.writeLoc (.pkg a) (leBytes m (atomNew op (8 * m) (memNat s.mem a m) (x.toNat % 2 ^ (8 * m)) (k.toNat % 2 ^ (8 * m)))))) ∧
    exec (.peerRequest .message) s = .next s ∧ exec (.flitCrcRetry t) s = .next s ∧ exec .thrcntClear s = .next { s with thrcnt := 0 } ∧
    exec (.asycntClear t ch) s = .next (s.modTower t (fun x => { x with asycnt := x.asycnt.set ch 0, asyLogged := x.asyLogged &&& ~~~ (BitVec.ofNat 8 (2 ^ ch)) })) ∧
    (v.getLsbD 8 = false ∨ (s.tower t).retired = true ∨ (s.tower t).retirePending = true → exec (.containRetireRequest t v) s = .next s) ∧
    (v.getLsbD 8 = true → (s.tower t).retired = false → (s.tower t).retirePending = false → exec (.containRetireRequest t v) s =
      .next (s.modTower t (fun x => { x with retirePending := true, channel := Fin.ofNat 8 (v.toNat % 8) }))) ∧
    ((s.tower t).retirePending = true → s.towerRuns t = false → exec (.channelRetirement t) s =
      .next (s.modTower t (fun x => { x with retirePending := false, retired := true, keptChannel := some x.channel }))) ∧
    ((s.core n).bind = .idle → exec (.elvmapWrite n v) s = .next (s.setCore n { s.core n with
      spare := v.getLsbD 63, grp := v.setWidth 6, keptMap := (v.getLsbD 63, v.setWidth 6), damaged := false, remap := false })) ∧
    ((s.core n).bind ≠ .idle → exec (.elvmapWrite n v) s = .next s) ∧
    exec (.registerWrite .ctxbase v) s = .next { s with ctxbase := BitVec.ofNat 64 (bitsOf v.toNat 51 19 * 2 ^ 19) } ∧
    exec (.registerWrite .pwrlim v) s = .next { s with pwrlim := min 5500 (max 1000 (v.toNat % 2 ^ 16)) } ∧
    exec (.registerWrite .tlim v) s = .next { s with tlim := min 100 (max 70 (v.toNat % 2 ^ 8)) } ∧
    (∀ i, exec (.registerWrite (.asythr i) v) s = .next (s.modTower i (fun x => { x with asythr := v.setWidth 32 }))) ∧
    (∀ i, exec (.registerWrite (.flogged i) v) s = .next (s.modTower i (fun x => { x with flogged := v })) ∧
      exec (.registerWrite (.fdropped i) v) s = .next (s.modTower i (fun x => { x with fdropped := v }))) ∧
    (let box := fun (m : Mailbox) => Host.Outcome.next (φ := Fault) ({ s with mailbox := m } : State)
     let size := v.toNat % 16
     exec (.registerWrite .apbase v) s = box { s.mailbox with apbase := BitVec.ofNat 64 (bitsOf v.toNat 51 36 * 2 ^ 36) } ∧
     exec (.registerWrite .h2dbase v) s = box { s.mailbox with h2dbase := BitVec.ofNat 64 (v.toNat / 4096 * 4096) } ∧
     exec (.registerWrite .h2dsize v) s = box { s.mailbox with h2dsize := if 4 ≤ size ∧ size ≤ 12 then size else s.mailbox.h2dsize } ∧
     exec (.registerWrite .d2hsize v) s = box { s.mailbox with d2hsize := if 4 ≤ size ∧ size ≤ 12 then size else s.mailbox.d2hsize }) ∧
    exec (.registerWrite .bar0Other v) s = .next s) ∧
  (∀ (s : State) (x : PeerTx) (core gi lane op id : Nat) (g : Gang), s.gang? core gi = some g →
    (∀ h o vas y m p, x = .word core gi lane →
      g.held.find? (fun h => h.lanes.getLsbD lane && !g.pending.any (fun p => p.heldId == h.id)) = some h → h.kind = .peer o vas →
      o.todo.find? (fun x => x.lane == lane && x.spot.isPeer && x.reads) = some y → y.spot = .vm (.peer m p) →
      let va := ((vas.find? (fun p => p.1 == lane)).map (·.2)).getD 0
      let t := ((s.log (core / 32) { kind := 5, addr := p }).trapAt core gi h.iss h.lanes (some h.id)
        { cause := 0x0D, lane := lane, info := va % 2 ^ 56 }).leaveToss (core, gi, h.id)
      exec (.peerTransactionTimeout x) s = .next t ∧ exec (.peerErrorResponse x) s = .next t) ∧
    (∀ o, x = .store core gi op → g.ops.find? (·.id == op) = some o →
      let fails := fun (y : Access) => y.spot.isPeer && y.writes && !s.mustWait core gi g op y
      (∃ y ∈ o.todo, fails y = true) → ∃ (t : State) (g' : Gang) (o' : Op), exec (.peerTransactionTimeout x) s = .next (t.wakeGang core gi) ∧
        exec (.peerErrorResponse x) s = .next (t.wakeGang core gi) ∧ t.gang? core gi = some g' ∧ t.mem = s.mem ∧
        g'.ops.find? (·.id == op) = some o' ∧ o'.todo = o.todo.filter (fun y => !fails y) ∧ g'.pending = g.pending) ∧
    (∀ c, x = .command id → s.command? id = some c → c.stalled = false → c.stopped = false →
      (∀ a, c.finished = false → c.skipped = false → c.failure = none → c.kind ≠ .coll → c.started = true ∨ s.mayStart c = true ∧ c.startBad s = none →
        c.peerAddr s (c.runs s) = some a →
        let t := (c.leaveFree (s.log (c.core / 32) { kind := 5, addr := a })).failCommand { c with started := true } 5
        exec (.peerTransactionTimeout x) s = .next t ∧ exec (.peerErrorResponse x) s = .next t) ∧
      (∀ a, c.finished = true → c.reg 3 ≠ 0 → (∀ y ∈ s.commands, y.lid = c.lid → y.block = c.block → y.queue = c.queue → c.id ≤ y.id) →
        c.peerAddr s [(c.reg 3, 8)] = some a →
        let c1 := { c with failure := some 9 }
        let t := (((s.log (c.core / 32) { kind := 5, addr := a }).setCommand c1).failQueue c1 9).retireCommand c1
        exec (.peerTransactionTimeout x) s = .next t ∧ exec (.peerErrorResponse x) s = .next t))) ∧
  (∀ (s : State) (t p : Nat), t < s.part.towers → p < s.part.towers → t ≠ p →
    exec (.linkDown t p) s = .next (({ s.modTower t (fun x => { x with linkDown := x.linkDown ||| BitVec.ofNat 8 (2 ^ p) }) with
      mailbox := { s.mailbox with fatal := true } } : State).killAll.log t { kind := 7, loc := p }) ∧
    ∃ half : Bool, exec (.laneRepair t p) s = .next ((({ s with freshCount := s.freshCount + 1 } : State).modTower t (fun x =>
      if half then { x with linkHalf := x.linkHalf ||| BitVec.ofNat 8 (2 ^ p) } else x)).log t { kind := 6, loc := p })) ∧
  (∀ (s : State) (power : BitVec 16) (tj : List Byte) (t : Nat), tj.length = 8 → t < s.part.towers → t < s.towers.length → ∃ u, exec (.dutyTick power tj) s = .next u ∧
    u.pwrnow = power ∧ u.thrcnt = s.thrcnt + (if ∃ i, i < s.part.towers ∧ (s.tower i).duty < 16 then 1 else 0) ∧ (u.tower t).tj = tj.getD t 0 ∧
    (u.tower t).duty = if s.pwrlim < power.toNat ∨ s.tlim < (tj.getD t 0).toNat then max 1 ((s.tower t).duty - 1) else min 16 ((s.tower t).duty + 1)) ∧
  (∀ (s : State) (t : Nat), t < s.part.towers → 110 ≤ (s.tower t).tj.toNat → exec (.thermalTrip t) s =
    .next (let u := ({ s with mailbox := { s.mailbox with fatal := true } } : State).killAll
      ({ u with towers := u.towers.map (fun x => { x with clockStopped := true }) } : State).log t { kind := 10, loc := t })) ∧
  (∀ (s : State) (core gi slot grp row col : Nat) (v : Byte) (b : Block) (g : Gang) (x ch : Nat), s.block? core = some b → b.gangs[gi]? = some g →
    (∀ (vs : List Byte) (beat : Nat), grp < 64 → vs.length = 8 →
      let logged := fun (u : State) =>
        (u.setCore core { u.core core with damaged := true }).log (core / 32) { kind := 8, loc := core % 32 + grp * 2 ^ 8 }
      let errs := fun (l : Lift) (u : State) => exec (.elevatorGroupError core grp gi l x beat vs) s = .next (logged u)
      let hits := fun (c e : Nat) => c = grp / 8 ∧ e / 8 = 8 * beat + grp % 8
      let seen := { g.slot slot with res := ((g.slot slot).damage grp beat vs).res }
      (b.rs.wf = true → ∀ r n c e, c < 8 → let i := 2048 * (e / 256) + 256 * c + e % 256
        cellGet (b.damageRs r n grp beat vs).rs i =
          if hits c e ∧ e < 256 * b.cfg.rsp ∧ r ≤ i ∧ i < r + n then vs.getD (e % 8) 0 else cellGet b.rs i) ∧
      (Memory.wf (g.slot slot).res = true → ∀ c e, c < 8 → e < 1024 → cellGet seen.res (1024 * c + e) =
        if hits c e then vs.getD (e % 8) 0 else cellGet (g.slot slot).res (1024 * c + e)) ∧
      (∀ o k y r, g.openOps.find? (·.id == x) = some o → o.todo[k]? = some y → (∀ z ∈ o.groupOf y, s.mustWait core gi g x z = false) →
        (y.act = .fill r ∨ y.spot = .rs r ∧ (∃ w, y.act = .store w) →
          errs (.up k) (((s.performIn core gi o (o.groupOf y)).modBlock core (fun z => z.damageRs r y.n grp beat vs)).wakeGang core gi)) ∧
        (y.act = .spill r ∨ y.act = .reduce r →
          errs (.down k) ((((s.setBlock core (b.damageRs r y.n grp beat vs)).performIn core gi o (o.groupOf y)).modBlock core
            (fun z => { z with rs := b.rs })).wakeGang core gi))) ∧
      (∀ o p, g.ops.find? (·.id == x) = some o → o.staged = some p → errs .staged (s.modBlock core (fun z => { z with
        teller := z.teller.map (·.damage gi p.1 p.2.1 p.2.2.1 p.2.2.2 grp beat vs) }))) ∧
      (∀ h j u, g.heldOf x = some h → h.kind = .drain j → j.slot = slot → tryDrainDecision core gi x (s.setGang core gi (g.setSlot slot seen)) = some u →
        errs .drain (u.modGang core gi (fun y => y.setSlot slot { y.slot slot with res := (g.slot slot).res }))) ∧
      (s.inTransit core b = true → errs .area (s.setBlock core (b.damageRs 0 (2048 * b.cfg.rsp) grp beat vs)) ∧
        (slot < g.slots.length → x = slot → errs .areaSlot (s.setGang core gi (g.setSlot slot seen)))) ∧
      (s.inTransit core b = false → ∀ l, l = .area ∨ l = .areaSlot → exec (.elevatorGroupError core grp gi l x beat vs) s = .next s)) ∧
    exec (.softError (.corrected x)) s = .next s ∧
    (32 * x + 32 ≤ s.part.towers * Config.towerBytes → x ∉ s.failing → exec (.softError (.uncorrectable x)) s = .next { s with failing := s.failing ++ [x] }) ∧
    (8 * x + 8 ≤ 1024 * b.cfg.dsp → x ∉ b.dsFail → exec (.softError (.scratchGroup core x)) s = .next (s.setBlock core { b with dsFail := b.dsFail ++ [x] })) ∧
    (x < 256 * b.cfg.rsp → ch < 8 → exec (.softError (.residue core ch x v)) s =
      .next (s.setBlock core { b with rs := cellSet b.rs (2048 * (x / 256) + 256 * ch + x % 256) v })) ∧
    (slot < g.slots.length → ch < 8 → row < 32 → col < 32 → exec (.softError (.slot core gi slot ch row col v)) s =
      .next (s.setGang core gi (g.setSlot slot { g.slot slot with res := cellSet (g.slot slot).res (1024 * ch + 32 * row + col) v })))) ∧
  (∀ (s : State) (t : Nat) (detail : BitVec 16), t < s.part.towers → (s.tower t).stage < 8 → (s.tower t).stage ∉ (s.tower t).barred →
    let n := (s.tower t).stage
    let image := imagePasses (s.security.banks.getD (if (s.tower t).otherBank then 1 - s.security.active else s.security.active) []) s.security.fusedSvn
    ((n = 1 → image = true) → (n ≠ 5 ∨ (∃ i, i < s.part.towers ∧ (s.tower i).inService = true) ∨
        (∀ i, i < t → ¬ (5 ≤ (s.tower i).stage ∧ (s.tower i).stage ≠ 9))) →
      exec (.bringupStageComplete t true detail) s = .next (s.passStage t).checkLost) ∧
    (n ≠ 5 → (n = 1 → image = false) → exec (.bringupStageComplete t false detail) s = .next (s.failStage t detail).checkLost) ∧
    (n = 1 → exec (.bringupStageComplete t (!image) detail) s = .next s) ∧
    (n ≠ 1 → n < 4 → s.passStage t = s.modTower t (fun x => { x with stage := n + 1 })) ∧
    (n = 1 → s.passStage t = s.modTower t (fun x => { x with
      stage := 2, image := s.security.banks.getD (if x.otherBank then 1 - s.security.active else s.security.active) [] })) ∧
    (n = 4 → s.passStage t = ({ s with
      cores := s.cores.mapIdx (fun i (c : Core) => if i / 32 = t then { c with spare := c.keptMap.1, grp := c.keptMap.2 } else c)
      towers := modAt s.towers t (fun x => match x.keptChannel with
        | some c => { x with retired := true, channel := c, stage := 5 }
        | none => { x with stage := 5 }) } : State)) ∧
    (let enters := fun (x : Tower) => { x with
       inService := true, stage := 7, bringUp := if x.bringUp.step = 7 then x.bringUp else {} }
     let served := ∃ i, i < s.part.towers ∧ (s.tower i).inService = true
     (n = 5 → served → s.passStage t = s.modTower t (fun x => { x with stage := 6 })) ∧
     (n = 5 → ¬ served → s.passStage t =
       ({ s.modTower t enters with mailbox := { s.mailbox with ready := true, reduced := true } } : State).pump.skimRing) ∧
     (n = 6 → s.passStage t = s.modTower t (fun x => { enters x with mhz := 3000 }))) ∧
    (n = 7 → ∃ m d, 1 ≤ d ∧ d ≤ 512 ∧ m < d ∧
      let u : State := { s.modTower t (fun x => { x with stage := 8, bringUp := {} }) with moduleNum := BitVec.ofNat 9 m, domainSize := d }
      let full := ∀ i, i < s.part.towers → (u.tower i).stage = 8
      (¬ full → s.passStage t = u) ∧
      let svn := (List.range s.part.towers).foldl (fun m i => max m (imageSvn (u.tower i).image)) s.security.fusedSvn
      (full → s.passStage t = ({ u with security := { s.security with fusedSvn := svn } } : State))) ∧
    (2 ≤ n → let before := if (s.tower t).bringUp.step = n then (s.tower t).bringUp.tries else 0
      let tries := min 255 (before + 1)
      s.failStage t detail = s.modTower t (fun x => { x with
        bringUp := ⟨tries, n, before % 4, detail⟩
        barred := if 4 ≤ tries then n :: x.barred else x.barred
        stage := if n = 7 then 7 else if 4 ≤ tries then n else 2 }))) ∧
  (∀ (s : State) (t : Nat), s.serviceTower = some t → (∀ i, i < s.part.towers → (s.tower i).stage = 8) → s.mailbox.reduced = true → s.towerRuns t = false →
    exec .serviceClockRise s = .next { s.modTower t (fun x => { x with mhz := 3000 }) with mailbox := { s.mailbox with reduced := false } }) ∧
  (∀ (s : State) (c : Ctx) (w : BitVec 32), ctx? s = some c → Traps s (.unassignedEncodingIssue w) { cause := 0x01, lane := lowLane c.iss.active })
end

