-- ==== Sys2Proof/Laws/Cells.lean ====
section
/-! SUPPORT. The laws of sparse storage: a read after a write, and the canonical form kept by every operation. -/
namespace Sys2Proof.Machine

variable {w : Nat}

theorem cellsWfFrom_mono {c : List (Nat × BitVec w)} {lo hi : Nat} (h : cellsWfFrom hi c = true) (le : lo ≤ hi) :
    cellsWfFrom lo c = true := by
  cases c with
  | nil => rfl
  | cons p r => simp only [cellsWfFrom, Bool.and_eq_true, decide_eq_true_eq] at h ⊢; exact ⟨⟨Nat.le_trans le h.1.1, h.1.2⟩, h.2⟩

theorem cellsWfFrom_cons {lo k : Nat} {v : BitVec w} {r : List (Nat × BitVec w)} :
    cellsWfFrom lo ((k, v) :: r) = true ↔ lo ≤ k ∧ v ≠ 0 ∧ cellsWfFrom (k + 1) r = true := by
  simp [cellsWfFrom, and_assoc]

/-- Below its first address a canonical storage reads as zero. -/
theorem cellGet_below {c : List (Nat × BitVec w)} {lo a : Nat} (h : cellsWfFrom lo c = true) (lt : a < lo) :
    cellGet c a = 0 := by
  cases c with
  | nil => rfl
  | cons p r =>
    obtain ⟨k, v⟩ := p
    have hk := (cellsWfFrom_cons.mp h).1
    simp only [cellGet, if_neg (by omega : ¬ a = k), if_pos (by omega : a < k)]

theorem cellSet_wfFrom {c : List (Nat × BitVec w)} {lo a : Nat} (v : BitVec w) (h : cellsWfFrom lo c = true) (le : lo ≤ a) :
    cellsWfFrom lo (cellSet c a v) = true := by
  induction c generalizing lo with
  | nil =>
    simp only [cellSet]
    split
    · rfl
    · exact cellsWfFrom_cons.mpr ⟨le, ‹_›, rfl⟩
  | cons p r ih =>
    obtain ⟨k, x⟩ := p
    obtain ⟨hk, hx, hr⟩ := cellsWfFrom_cons.mp h
    simp only [cellSet]
    split
    · split
      · exact h
      · exact cellsWfFrom_cons.mpr ⟨le, ‹_›, cellsWfFrom_cons.mpr ⟨by omega, hx, hr⟩⟩
    · split
      · subst_vars
        split
        · exact cellsWfFrom_mono hr (by omega)
        · exact cellsWfFrom_cons.mpr ⟨hk, ‹_›, hr⟩
      · exact cellsWfFrom_cons.mpr ⟨hk, hx, ih hr (by omega)⟩

/-- Storing a value keeps the canonical form. -/
theorem cellSet_wf {c : List (Nat × BitVec w)} (a : Nat) (v : BitVec w) (h : cellsWf c = true) : cellsWf (cellSet c a v) = true :=
  cellSet_wfFrom v h (Nat.zero_le a)

theorem cellGet_cellSet_from {c : List (Nat × BitVec w)} {lo : Nat} (a b : Nat) (v : BitVec w) (h : cellsWfFrom lo c = true) :
    cellGet (cellSet c a v) b = if b = a then v else cellGet c b := by
  induction c generalizing lo with
  | nil => simp only [cellSet]; split <;> simp only [cellGet] <;> grind
  | cons p r ih =>
    obtain ⟨k, x⟩ := p
    obtain ⟨-, -, hr⟩ := cellsWfFrom_cons.mp h
    have low : ∀ y, y ≤ k → cellGet r y = 0 := fun y hy => cellGet_below hr (by omega)
    simp only [cellSet]
    split
    · split <;> simp only [cellGet] <;> grind
    · split
      · split <;> simp only [cellGet] <;> grind
      · simp only [cellGet, ih hr]; grind

/-- A read after a write: the value at the address written, and what stood there before at every other. -/
theorem cellGet_cellSet {c : List (Nat × BitVec w)} (a b : Nat) (v : BitVec w) (h : cellsWf c = true) :
    cellGet (cellSet c a v) b = if b = a then v else cellGet c b :=
  cellGet_cellSet_from a b v h

/-- Storing a run keeps the canonical form. -/
theorem cellSetList_wf {c : List (Nat × BitVec w)} (a : Nat) (vs : List (BitVec w)) (h : cellsWf c = true) :
    cellsWf (cellSetList c a vs) = true := by
  induction vs generalizing c a with
  | nil => exact h
  | cons v r ih => exact ih (a + 1) (cellSet_wf a v h)

/-- A run stored leaves every address outside it as it was. -/
theorem cellGet_cellSetList_outside {c : List (Nat × BitVec w)} (a b : Nat) (vs : List (BitVec w)) (h : cellsWf c = true)
    (out : b < a ∨ a + vs.length ≤ b) : cellGet (cellSetList c a vs) b = cellGet c b := by
  induction vs generalizing c a with
  | nil => rfl
  | cons v r ih =>
    simp only [List.length_cons] at out
    rw [cellSetList, ih (a + 1) (cellSet_wf a v h) (by omega), cellGet_cellSet a b v h, if_neg (by omega)]

/-- A run stored reads back. -/
theorem cellGet_cellSetList_inside {c : List (Nat × BitVec w)} (a i : Nat) (vs : List (BitVec w)) (h : cellsWf c = true)
    (lt : i < vs.length) : cellGet (cellSetList c a vs) (a + i) = vs[i] := by
  induction vs generalizing c a i with
  | nil => simp at lt
  | cons v r ih =>
    rw [cellSetList]
    cases i with
    | zero => rw [cellGet_cellSetList_outside _ _ _ (cellSet_wf a v h) (by omega), cellGet_cellSet _ _ _ h]; simp
    | succ n =>
      have := ih (a + 1) n (cellSet_wf a v h) (by simpa using lt)
      rw [show a + (n + 1) = a + 1 + n by omega, this]; rfl

/-- Storing a number keeps the canonical form. -/
theorem memSetNat_wf {m : Memory} (a n v : Nat) (h : m.wf = true) : Memory.wf (memSetNat m a n v) = true :=
  cellSetList_wf a _ h

/-- Every entry of a canonical storage lies at its bound or above and is not zero, and later entries lie higher. -/
theorem cellsWfFrom_iff {c : List (Nat × BitVec w)} {lo : Nat} :
    cellsWfFrom lo c = true ↔ (∀ p ∈ c, lo ≤ p.1 ∧ p.2 ≠ 0) ∧ c.Pairwise (fun p q => p.1 < q.1) := by
  induction c generalizing lo with
  | nil => simp [cellsWfFrom]
  | cons p r ih =>
    obtain ⟨k, v⟩ := p
    rw [cellsWfFrom_cons, ih]
    simp only [List.mem_cons, List.pairwise_cons, forall_eq_or_imp]
    constructor
    · rintro ⟨low, nz, rest, up⟩
      have past : ∀ p ∈ r, k < p.1 := fun p hp => (rest p hp).1
      exact ⟨⟨⟨low, nz⟩, fun p hp => ⟨Nat.le_trans low (Nat.le_of_lt (past p hp)), (rest p hp).2⟩⟩, past, up⟩
    · rintro ⟨⟨⟨low, nz⟩, all⟩, past, up⟩
      exact ⟨low, nz, fun p hp => ⟨past p hp, (all p hp).2⟩, up⟩

/-- Leaving entries out keeps the canonical form. -/
theorem filter_wf {c : List (Nat × BitVec w)} (p : Nat × BitVec w → Bool) (h : cellsWf c = true) : cellsWf (c.filter p) = true := by
  rw [cellsWf, cellsWfFrom_iff] at h ⊢
  exact ⟨fun q hq => h.1 q ((List.mem_filter.mp hq).1), h.2.filter _⟩

theorem cellsOfList_mem {a : Nat} {vs : List (BitVec w)} {p : Nat × BitVec w} (h : p ∈ cellsOfList a vs) :
    a ≤ p.1 ∧ p.1 < a + vs.length ∧ p.2 ≠ 0 := by
  simp only [cellsOfList, List.mem_filter, List.mem_mapIdx, bne_iff_ne] at h
  obtain ⟨⟨i, hi, rfl⟩, hv⟩ := h
  exact ⟨by simp, by simpa using hi, hv⟩

theorem cellsOfList_pairwise (a : Nat) (vs : List (BitVec w)) : (cellsOfList a vs).Pairwise (fun p q => p.1 < q.1) := by
  refine List.Pairwise.filter _ ?_
  rw [List.pairwise_iff_getElem]
  intro i j hi hj lt
  simpa using lt

/-- Storing a long run keeps the canonical form. -/
theorem cellsPut_wf {c : List (Nat × BitVec w)} (a : Nat) (vs : List (BitVec w)) (h : cellsWf c = true) :
    cellsWf (cellsPut c a vs) = true := by
  rw [cellsWf, cellsWfFrom_iff] at h ⊢
  obtain ⟨h1, h2⟩ := h
  constructor
  · intro p hp
    simp only [cellsPut, List.mem_append, List.mem_filter] at hp
    rcases hp with (hp | hp) | hp
    · exact h1 p hp.1
    · exact ⟨Nat.zero_le _, (cellsOfList_mem hp).2.2⟩
    · exact h1 p hp.1
  · rw [cellsPut, List.pairwise_append, List.pairwise_append]
    refine ⟨⟨h2.filter _, cellsOfList_pairwise a vs, ?_⟩, h2.filter _, ?_⟩
    · intro p hp q hq
      have := (List.mem_filter.mp hp).2; have := (cellsOfList_mem hq).1
      simp only [decide_eq_true_eq] at *; omega
    · intro p hp q hq
      have hq := (List.mem_filter.mp hq).2
      simp only [List.mem_append, List.mem_filter, decide_eq_true_eq] at hp hq
      rcases hp with hp | hp
      · omega
      · have := (cellsOfList_mem hp).2.1; omega


/-! ### Registers by number -/

/-- A register read after a write of a register: the value written if it is the same one, else what it held. -/
theorem regGet_regSet (r : List Word) (i j : Nat) (v : Word) : regGet (regSet r i v) j = if j = i then v else regGet r j := by
  induction i generalizing r j with
  | zero => cases r <;> cases j <;> simp [regSet, regGet]
  | succ n ih =>
    cases r with
    | nil =>
      cases j with
      | zero => simp [regSet, regGet]
      | succ m => have := ih [] m; simpa [regSet, regGet] using this
    | cons x r =>
      cases j with
      | zero => simp [regSet, regGet]
      | succ m => have := ih r m; simpa [regSet, regGet] using this

end Sys2Proof.Machine
end

