-- ==== Sys2Proof/Laws/State.lean ====
section
/-! SUPPORT. What each update of a record leaves of every other field, one lemma a field, and what a replaced part reads as. -/
namespace Sys2Proof.Machine

/-! ### Updates of the module -/

@[simp] theorem State.setCore_part (s : State) (c : Nat) (x : Core) : (s.setCore c x).part = s.part := rfl
@[simp] theorem State.setCore_mem (s : State) (c : Nat) (x : Core) : (s.setCore c x).mem = s.mem := rfl
@[simp] theorem State.setCore_failing (s : State) (c : Nat) (x : Core) : (s.setCore c x).failing = s.failing := rfl
@[simp] theorem State.setCore_hostMem (s : State) (c : Nat) (x : Core) : (s.setCore c x).hostMem = s.hostMem := rfl
@[simp] theorem State.setCore_peerMem (s : State) (c : Nat) (x : Core) : (s.setCore c x).peerMem = s.peerMem := rfl
@[simp] theorem State.setCore_towers (s : State) (c : Nat) (x : Core) : (s.setCore c x).towers = s.towers := rfl
@[simp] theorem State.setCore_parts (s : State) (c : Nat) (x : Core) : (s.setCore c x).parts = s.parts := rfl
@[simp] theorem State.setCore_launches (s : State) (c : Nat) (x : Core) : (s.setCore c x).launches = s.launches := rfl
@[simp] theorem State.setCore_nextLaunch (s : State) (c : Nat) (x : Core) : (s.setCore c x).nextLaunch = s.nextLaunch := rfl
@[simp] theorem State.setCore_commands (s : State) (c : Nat) (x : Core) : (s.setCore c x).commands = s.commands := rfl
@[simp] theorem State.setCore_nextCommand (s : State) (c : Nat) (x : Core) : (s.setCore c x).nextCommand = s.nextCommand := rfl
@[simp] theorem State.setCore_saved (s : State) (c : Nat) (x : Core) : (s.setCore c x).saved = s.saved := rfl
@[simp] theorem State.setCore_starts (s : State) (c : Nat) (x : Core) : (s.setCore c x).starts = s.starts := rfl
@[simp] theorem State.setCore_dequeues (s : State) (c : Nat) (x : Core) : (s.setCore c x).dequeues = s.dequeues := rfl
@[simp] theorem State.setCore_ctxbase (s : State) (c : Nat) (x : Core) : (s.setCore c x).ctxbase = s.ctxbase := rfl
@[simp] theorem State.setCore_inval (s : State) (c : Nat) (x : Core) : (s.setCore c x).inval = s.inval := rfl
@[simp] theorem State.setCore_farPub (s : State) (c : Nat) (x : Core) : (s.setCore c x).farPub = s.farPub := rfl
@[simp] theorem State.setCore_syncPub (s : State) (c : Nat) (x : Core) : (s.setCore c x).syncPub = s.syncPub := rfl
@[simp] theorem State.setCore_homeLog (s : State) (c : Nat) (x : Core) : (s.setCore c x).homeLog = s.homeLog := rfl
@[simp] theorem State.setCore_moduleNum (s : State) (c : Nat) (x : Core) : (s.setCore c x).moduleNum = s.moduleNum := rfl
@[simp] theorem State.setCore_domainSize (s : State) (c : Nat) (x : Core) : (s.setCore c x).domainSize = s.domainSize := rfl
@[simp] theorem State.setCore_mailbox (s : State) (c : Nat) (x : Core) : (s.setCore c x).mailbox = s.mailbox := rfl
@[simp] theorem State.setCore_hostReply (s : State) (c : Nat) (x : Core) : (s.setCore c x).hostReply = s.hostReply := rfl
@[simp] theorem State.setCore_pwrlim (s : State) (c : Nat) (x : Core) : (s.setCore c x).pwrlim = s.pwrlim := rfl
@[simp] theorem State.setCore_pwrnow (s : State) (c : Nat) (x : Core) : (s.setCore c x).pwrnow = s.pwrnow := rfl
@[simp] theorem State.setCore_tlim (s : State) (c : Nat) (x : Core) : (s.setCore c x).tlim = s.tlim := rfl
@[simp] theorem State.setCore_thrcnt (s : State) (c : Nat) (x : Core) : (s.setCore c x).thrcnt = s.thrcnt := rfl
@[simp] theorem State.setCore_security (s : State) (c : Nat) (x : Core) : (s.setCore c x).security = s.security := rfl
@[simp] theorem State.setCore_cur (s : State) (c : Nat) (x : Core) : (s.setCore c x).cur = s.cur := rfl
@[simp] theorem State.setCore_second (s : State) (c : Nat) (x : Core) : (s.setCore c x).second = s.second := rfl
@[simp] theorem State.setCore_turns (s : State) (c : Nat) (x : Core) : (s.setCore c x).turns = s.turns := rfl
@[simp] theorem State.setCore_freshCount (s : State) (c : Nat) (x : Core) : (s.setCore c x).freshCount = s.freshCount := rfl

@[simp] theorem State.setTower_part (s : State) (t : Nat) (x : Tower) : (s.setTower t x).part = s.part := rfl
@[simp] theorem State.setTower_mem (s : State) (t : Nat) (x : Tower) : (s.setTower t x).mem = s.mem := rfl
@[simp] theorem State.setTower_failing (s : State) (t : Nat) (x : Tower) : (s.setTower t x).failing = s.failing := rfl
@[simp] theorem State.setTower_hostMem (s : State) (t : Nat) (x : Tower) : (s.setTower t x).hostMem = s.hostMem := rfl
@[simp] theorem State.setTower_peerMem (s : State) (t : Nat) (x : Tower) : (s.setTower t x).peerMem = s.peerMem := rfl
@[simp] theorem State.setTower_cores (s : State) (t : Nat) (x : Tower) : (s.setTower t x).cores = s.cores := rfl
@[simp] theorem State.setTower_parts (s : State) (t : Nat) (x : Tower) : (s.setTower t x).parts = s.parts := rfl
@[simp] theorem State.setTower_launches (s : State) (t : Nat) (x : Tower) : (s.setTower t x).launches = s.launches := rfl
@[simp] theorem State.setTower_nextLaunch (s : State) (t : Nat) (x : Tower) : (s.setTower t x).nextLaunch = s.nextLaunch := rfl
@[simp] theorem State.setTower_commands (s : State) (t : Nat) (x : Tower) : (s.setTower t x).commands = s.commands := rfl
@[simp] theorem State.setTower_nextCommand (s : State) (t : Nat) (x : Tower) : (s.setTower t x).nextCommand = s.nextCommand := rfl
@[simp] theorem State.setTower_saved (s : State) (t : Nat) (x : Tower) : (s.setTower t x).saved = s.saved := rfl
@[simp] theorem State.setTower_starts (s : State) (t : Nat) (x : Tower) : (s.setTower t x).starts = s.starts := rfl
@[simp] theorem State.setTower_dequeues (s : State) (t : Nat) (x : Tower) : (s.setTower t x).dequeues = s.dequeues := rfl
@[simp] theorem State.setTower_ctxbase (s : State) (t : Nat) (x : Tower) : (s.setTower t x).ctxbase = s.ctxbase := rfl
@[simp] theorem State.setTower_inval (s : State) (t : Nat) (x : Tower) : (s.setTower t x).inval = s.inval := rfl
@[simp] theorem State.setTower_farPub (s : State) (t : Nat) (x : Tower) : (s.setTower t x).farPub = s.farPub := rfl
@[simp] theorem State.setTower_syncPub (s : State) (t : Nat) (x : Tower) : (s.setTower t x).syncPub = s.syncPub := rfl
@[simp] theorem State.setTower_homeLog (s : State) (t : Nat) (x : Tower) : (s.setTower t x).homeLog = s.homeLog := rfl
@[simp] theorem State.setTower_moduleNum (s : State) (t : Nat) (x : Tower) : (s.setTower t x).moduleNum = s.moduleNum := rfl
@[simp] theorem State.setTower_domainSize (s : State) (t : Nat) (x : Tower) : (s.setTower t x).domainSize = s.domainSize := rfl
@[simp] theorem State.setTower_mailbox (s : State) (t : Nat) (x : Tower) : (s.setTower t x).mailbox = s.mailbox := rfl
@[simp] theorem State.setTower_hostReply (s : State) (t : Nat) (x : Tower) : (s.setTower t x).hostReply = s.hostReply := rfl
@[simp] theorem State.setTower_pwrlim (s : State) (t : Nat) (x : Tower) : (s.setTower t x).pwrlim = s.pwrlim := rfl
@[simp] theorem State.setTower_pwrnow (s : State) (t : Nat) (x : Tower) : (s.setTower t x).pwrnow = s.pwrnow := rfl
@[simp] theorem State.setTower_tlim (s : State) (t : Nat) (x : Tower) : (s.setTower t x).tlim = s.tlim := rfl
@[simp] theorem State.setTower_thrcnt (s : State) (t : Nat) (x : Tower) : (s.setTower t x).thrcnt = s.thrcnt := rfl
@[simp] theorem State.setTower_security (s : State) (t : Nat) (x : Tower) : (s.setTower t x).security = s.security := rfl
@[simp] theorem State.setTower_cur (s : State) (t : Nat) (x : Tower) : (s.setTower t x).cur = s.cur := rfl
@[simp] theorem State.setTower_second (s : State) (t : Nat) (x : Tower) : (s.setTower t x).second = s.second := rfl
@[simp] theorem State.setTower_turns (s : State) (t : Nat) (x : Tower) : (s.setTower t x).turns = s.turns := rfl
@[simp] theorem State.setTower_freshCount (s : State) (t : Nat) (x : Tower) : (s.setTower t x).freshCount = s.freshCount := rfl

@[simp] theorem State.modTower_part (s : State) (t : Nat) (f : Tower → Tower) : (s.modTower t f).part = s.part := rfl
@[simp] theorem State.modTower_mem (s : State) (t : Nat) (f : Tower → Tower) : (s.modTower t f).mem = s.mem := rfl
@[simp] theorem State.modTower_failing (s : State) (t : Nat) (f : Tower → Tower) : (s.modTower t f).failing = s.failing := rfl
@[simp] theorem State.modTower_hostMem (s : State) (t : Nat) (f : Tower → Tower) : (s.modTower t f).hostMem = s.hostMem := rfl
@[simp] theorem State.modTower_peerMem (s : State) (t : Nat) (f : Tower → Tower) : (s.modTower t f).peerMem = s.peerMem := rfl
@[simp] theorem State.modTower_cores (s : State) (t : Nat) (f : Tower → Tower) : (s.modTower t f).cores = s.cores := rfl
@[simp] theorem State.modTower_parts (s : State) (t : Nat) (f : Tower → Tower) : (s.modTower t f).parts = s.parts := rfl
@[simp] theorem State.modTower_launches (s : State) (t : Nat) (f : Tower → Tower) : (s.modTower t f).launches = s.launches := rfl
@[simp] theorem State.modTower_nextLaunch (s : State) (t : Nat) (f : Tower → Tower) : (s.modTower t f).nextLaunch = s.nextLaunch := rfl
@[simp] theorem State.modTower_commands (s : State) (t : Nat) (f : Tower → Tower) : (s.modTower t f).commands = s.commands := rfl
@[simp] theorem State.modTower_nextCommand (s : State) (t : Nat) (f : Tower → Tower) : (s.modTower t f).nextCommand = s.nextCommand := rfl
@[simp] theorem State.modTower_saved (s : State) (t : Nat) (f : Tower → Tower) : (s.modTower t f).saved = s.saved := rfl
@[simp] theorem State.modTower_starts (s : State) (t : Nat) (f : Tower → Tower) : (s.modTower t f).starts = s.starts := rfl
@[simp] theorem State.modTower_dequeues (s : State) (t : Nat) (f : Tower → Tower) : (s.modTower t f).dequeues = s.dequeues := rfl
@[simp] theorem State.modTower_ctxbase (s : State) (t : Nat) (f : Tower → Tower) : (s.modTower t f).ctxbase = s.ctxbase := rfl
@[simp] theorem State.modTower_inval (s : State) (t : Nat) (f : Tower → Tower) : (s.modTower t f).inval = s.inval := rfl
@[simp] theorem State.modTower_farPub (s : State) (t : Nat) (f : Tower → Tower) : (s.modTower t f).farPub = s.farPub := rfl
@[simp] theorem State.modTower_syncPub (s : State) (t : Nat) (f : Tower → Tower) : (s.modTower t f).syncPub = s.syncPub := rfl
@[simp] theorem State.modTower_homeLog (s : State) (t : Nat) (f : Tower → Tower) : (s.modTower t f).homeLog = s.homeLog := rfl
@[simp] theorem State.modTower_moduleNum (s : State) (t : Nat) (f : Tower → Tower) : (s.modTower t f).moduleNum = s.moduleNum := rfl
@[simp] theorem State.modTower_domainSize (s : State) (t : Nat) (f : Tower → Tower) : (s.modTower t f).domainSize = s.domainSize := rfl
@[simp] theorem State.modTower_mailbox (s : State) (t : Nat) (f : Tower → Tower) : (s.modTower t f).mailbox = s.mailbox := rfl
@[simp] theorem State.modTower_hostReply (s : State) (t : Nat) (f : Tower → Tower) : (s.modTower t f).hostReply = s.hostReply := rfl
@[simp] theorem State.modTower_pwrlim (s : State) (t : Nat) (f : Tower → Tower) : (s.modTower t f).pwrlim = s.pwrlim := rfl
@[simp] theorem State.modTower_pwrnow (s : State) (t : Nat) (f : Tower → Tower) : (s.modTower t f).pwrnow = s.pwrnow := rfl
@[simp] theorem State.modTower_tlim (s : State) (t : Nat) (f : Tower → Tower) : (s.modTower t f).tlim = s.tlim := rfl
@[simp] theorem State.modTower_thrcnt (s : State) (t : Nat) (f : Tower → Tower) : (s.modTower t f).thrcnt = s.thrcnt := rfl
@[simp] theorem State.modTower_security (s : State) (t : Nat) (f : Tower → Tower) : (s.modTower t f).security = s.security := rfl
@[simp] theorem State.modTower_cur (s : State) (t : Nat) (f : Tower → Tower) : (s.modTower t f).cur = s.cur := rfl
@[simp] theorem State.modTower_second (s : State) (t : Nat) (f : Tower → Tower) : (s.modTower t f).second = s.second := rfl
@[simp] theorem State.modTower_turns (s : State) (t : Nat) (f : Tower → Tower) : (s.modTower t f).turns = s.turns := rfl
@[simp] theorem State.modTower_freshCount (s : State) (t : Nat) (f : Tower → Tower) : (s.modTower t f).freshCount = s.freshCount := rfl

@[simp] theorem State.setPartition_part (s : State) (p : Nat) (x : Partition) : (s.setPartition p x).part = s.part := rfl
@[simp] theorem State.setPartition_mem (s : State) (p : Nat) (x : Partition) : (s.setPartition p x).mem = s.mem := rfl
@[simp] theorem State.setPartition_failing (s : State) (p : Nat) (x : Partition) : (s.setPartition p x).failing = s.failing := rfl
@[simp] theorem State.setPartition_hostMem (s : State) (p : Nat) (x : Partition) : (s.setPartition p x).hostMem = s.hostMem := rfl
@[simp] theorem State.setPartition_peerMem (s : State) (p : Nat) (x : Partition) : (s.setPartition p x).peerMem = s.peerMem := rfl
@[simp] theorem State.setPartition_cores (s : State) (p : Nat) (x : Partition) : (s.setPartition p x).cores = s.cores := rfl
@[simp] theorem State.setPartition_towers (s : State) (p : Nat) (x : Partition) : (s.setPartition p x).towers = s.towers := rfl
@[simp] theorem State.setPartition_launches (s : State) (p : Nat) (x : Partition) : (s.setPartition p x).launches = s.launches := rfl
@[simp] theorem State.setPartition_nextLaunch (s : State) (p : Nat) (x : Partition) : (s.setPartition p x).nextLaunch = s.nextLaunch := rfl
@[simp] theorem State.setPartition_commands (s : State) (p : Nat) (x : Partition) : (s.setPartition p x).commands = s.commands := rfl
@[simp] theorem State.setPartition_nextCommand (s : State) (p : Nat) (x : Partition) : (s.setPartition p x).nextCommand = s.nextCommand := rfl
@[simp] theorem State.setPartition_saved (s : State) (p : Nat) (x : Partition) : (s.setPartition p x).saved = s.saved := rfl
@[simp] theorem State.setPartition_starts (s : State) (p : Nat) (x : Partition) : (s.setPartition p x).starts = s.starts := rfl
@[simp] theorem State.setPartition_dequeues (s : State) (p : Nat) (x : Partition) : (s.setPartition p x).dequeues = s.dequeues := rfl
@[simp] theorem State.setPartition_ctxbase (s : State) (p : Nat) (x : Partition) : (s.setPartition p x).ctxbase = s.ctxbase := rfl
@[simp] theorem State.setPartition_inval (s : State) (p : Nat) (x : Partition) : (s.setPartition p x).inval = s.inval := rfl
@[simp] theorem State.setPartition_farPub (s : State) (p : Nat) (x : Partition) : (s.setPartition p x).farPub = s.farPub := rfl
@[simp] theorem State.setPartition_syncPub (s : State) (p : Nat) (x : Partition) : (s.setPartition p x).syncPub = s.syncPub := rfl
@[simp] theorem State.setPartition_homeLog (s : State) (p : Nat) (x : Partition) : (s.setPartition p x).homeLog = s.homeLog := rfl
@[simp] theorem State.setPartition_moduleNum (s : State) (p : Nat) (x : Partition) : (s.setPartition p x).moduleNum = s.moduleNum := rfl
@[simp] theorem State.setPartition_domainSize (s : State) (p : Nat) (x : Partition) : (s.setPartition p x).domainSize = s.domainSize := rfl
@[simp] theorem State.setPartition_mailbox (s : State) (p : Nat) (x : Partition) : (s.setPartition p x).mailbox = s.mailbox := rfl
@[simp] theorem State.setPartition_hostReply (s : State) (p : Nat) (x : Partition) : (s.setPartition p x).hostReply = s.hostReply := rfl
@[simp] theorem State.setPartition_pwrlim (s : State) (p : Nat) (x : Partition) : (s.setPartition p x).pwrlim = s.pwrlim := rfl
@[simp] theorem State.setPartition_pwrnow (s : State) (p : Nat) (x : Partition) : (s.setPartition p x).pwrnow = s.pwrnow := rfl
@[simp] theorem State.setPartition_tlim (s : State) (p : Nat) (x : Partition) : (s.setPartition p x).tlim = s.tlim := rfl
@[simp] theorem State.setPartition_thrcnt (s : State) (p : Nat) (x : Partition) : (s.setPartition p x).thrcnt = s.thrcnt := rfl
@[simp] theorem State.setPartition_security (s : State) (p : Nat) (x : Partition) : (s.setPartition p x).security = s.security := rfl
@[simp] theorem State.setPartition_cur (s : State) (p : Nat) (x : Partition) : (s.setPartition p x).cur = s.cur := rfl
@[simp] theorem State.setPartition_second (s : State) (p : Nat) (x : Partition) : (s.setPartition p x).second = s.second := rfl
@[simp] theorem State.setPartition_turns (s : State) (p : Nat) (x : Partition) : (s.setPartition p x).turns = s.turns := rfl
@[simp] theorem State.setPartition_freshCount (s : State) (p : Nat) (x : Partition) : (s.setPartition p x).freshCount = s.freshCount := rfl

@[simp] theorem State.setLaunch_part (s : State) (x : Launch) : (s.setLaunch x).part = s.part := rfl
@[simp] theorem State.setLaunch_mem (s : State) (x : Launch) : (s.setLaunch x).mem = s.mem := rfl
@[simp] theorem State.setLaunch_failing (s : State) (x : Launch) : (s.setLaunch x).failing = s.failing := rfl
@[simp] theorem State.setLaunch_hostMem (s : State) (x : Launch) : (s.setLaunch x).hostMem = s.hostMem := rfl
@[simp] theorem State.setLaunch_peerMem (s : State) (x : Launch) : (s.setLaunch x).peerMem = s.peerMem := rfl
@[simp] theorem State.setLaunch_cores (s : State) (x : Launch) : (s.setLaunch x).cores = s.cores := rfl
@[simp] theorem State.setLaunch_towers (s : State) (x : Launch) : (s.setLaunch x).towers = s.towers := rfl
@[simp] theorem State.setLaunch_parts (s : State) (x : Launch) : (s.setLaunch x).parts = s.parts := rfl
@[simp] theorem State.setLaunch_nextLaunch (s : State) (x : Launch) : (s.setLaunch x).nextLaunch = s.nextLaunch := rfl
@[simp] theorem State.setLaunch_commands (s : State) (x : Launch) : (s.setLaunch x).commands = s.commands := rfl
@[simp] theorem State.setLaunch_nextCommand (s : State) (x : Launch) : (s.setLaunch x).nextCommand = s.nextCommand := rfl
@[simp] theorem State.setLaunch_saved (s : State) (x : Launch) : (s.setLaunch x).saved = s.saved := rfl
@[simp] theorem State.setLaunch_starts (s : State) (x : Launch) : (s.setLaunch x).starts = s.starts := rfl
@[simp] theorem State.setLaunch_dequeues (s : State) (x : Launch) : (s.setLaunch x).dequeues = s.dequeues := rfl
@[simp] theorem State.setLaunch_ctxbase (s : State) (x : Launch) : (s.setLaunch x).ctxbase = s.ctxbase := rfl
@[simp] theorem State.setLaunch_inval (s : State) (x : Launch) : (s.setLaunch x).inval = s.inval := rfl
@[simp] theorem State.setLaunch_farPub (s : State) (x : Launch) : (s.setLaunch x).farPub = s.farPub := rfl
@[simp] theorem State.setLaunch_syncPub (s : State) (x : Launch) : (s.setLaunch x).syncPub = s.syncPub := rfl
@[simp] theorem State.setLaunch_homeLog (s : State) (x : Launch) : (s.setLaunch x).homeLog = s.homeLog := rfl
@[simp] theorem State.setLaunch_moduleNum (s : State) (x : Launch) : (s.setLaunch x).moduleNum = s.moduleNum := rfl
@[simp] theorem State.setLaunch_domainSize (s : State) (x : Launch) : (s.setLaunch x).domainSize = s.domainSize := rfl
@[simp] theorem State.setLaunch_mailbox (s : State) (x : Launch) : (s.setLaunch x).mailbox = s.mailbox := rfl
@[simp] theorem State.setLaunch_hostReply (s : State) (x : Launch) : (s.setLaunch x).hostReply = s.hostReply := rfl
@[simp] theorem State.setLaunch_pwrlim (s : State) (x : Launch) : (s.setLaunch x).pwrlim = s.pwrlim := rfl
@[simp] theorem State.setLaunch_pwrnow (s : State) (x : Launch) : (s.setLaunch x).pwrnow = s.pwrnow := rfl
@[simp] theorem State.setLaunch_tlim (s : State) (x : Launch) : (s.setLaunch x).tlim = s.tlim := rfl
@[simp] theorem State.setLaunch_thrcnt (s : State) (x : Launch) : (s.setLaunch x).thrcnt = s.thrcnt := rfl
@[simp] theorem State.setLaunch_security (s : State) (x : Launch) : (s.setLaunch x).security = s.security := rfl
@[simp] theorem State.setLaunch_cur (s : State) (x : Launch) : (s.setLaunch x).cur = s.cur := rfl
@[simp] theorem State.setLaunch_second (s : State) (x : Launch) : (s.setLaunch x).second = s.second := rfl
@[simp] theorem State.setLaunch_turns (s : State) (x : Launch) : (s.setLaunch x).turns = s.turns := rfl
@[simp] theorem State.setLaunch_freshCount (s : State) (x : Launch) : (s.setLaunch x).freshCount = s.freshCount := rfl

@[simp] theorem State.setBlock_part (s : State) (c : Nat) (b : Block) : (s.setBlock c b).part = s.part := rfl
@[simp] theorem State.setBlock_mem (s : State) (c : Nat) (b : Block) : (s.setBlock c b).mem = s.mem := rfl
@[simp] theorem State.setBlock_failing (s : State) (c : Nat) (b : Block) : (s.setBlock c b).failing = s.failing := rfl
@[simp] theorem State.setBlock_hostMem (s : State) (c : Nat) (b : Block) : (s.setBlock c b).hostMem = s.hostMem := rfl
@[simp] theorem State.setBlock_peerMem (s : State) (c : Nat) (b : Block) : (s.setBlock c b).peerMem = s.peerMem := rfl
@[simp] theorem State.setBlock_towers (s : State) (c : Nat) (b : Block) : (s.setBlock c b).towers = s.towers := rfl
@[simp] theorem State.setBlock_parts (s : State) (c : Nat) (b : Block) : (s.setBlock c b).parts = s.parts := rfl
@[simp] theorem State.setBlock_launches (s : State) (c : Nat) (b : Block) : (s.setBlock c b).launches = s.launches := rfl
@[simp] theorem State.setBlock_nextLaunch (s : State) (c : Nat) (b : Block) : (s.setBlock c b).nextLaunch = s.nextLaunch := rfl
@[simp] theorem State.setBlock_commands (s : State) (c : Nat) (b : Block) : (s.setBlock c b).commands = s.commands := rfl
@[simp] theorem State.setBlock_nextCommand (s : State) (c : Nat) (b : Block) : (s.setBlock c b).nextCommand = s.nextCommand := rfl
@[simp] theorem State.setBlock_saved (s : State) (c : Nat) (b : Block) : (s.setBlock c b).saved = s.saved := rfl
@[simp] theorem State.setBlock_starts (s : State) (c : Nat) (b : Block) : (s.setBlock c b).starts = s.starts := rfl
@[simp] theorem State.setBlock_dequeues (s : State) (c : Nat) (b : Block) : (s.setBlock c b).dequeues = s.dequeues := rfl
@[simp] theorem State.setBlock_ctxbase (s : State) (c : Nat) (b : Block) : (s.setBlock c b).ctxbase = s.ctxbase := rfl
@[simp] theorem State.setBlock_inval (s : State) (c : Nat) (b : Block) : (s.setBlock c b).inval = s.inval := rfl
@[simp] theorem State.setBlock_farPub (s : State) (c : Nat) (b : Block) : (s.setBlock c b).farPub = s.farPub := rfl
@[simp] theorem State.setBlock_syncPub (s : State) (c : Nat) (b : Block) : (s.setBlock c b).syncPub = s.syncPub := rfl
@[simp] theorem State.setBlock_homeLog (s : State) (c : Nat) (b : Block) : (s.setBlock c b).homeLog = s.homeLog := rfl
@[simp] theorem State.setBlock_moduleNum (s : State) (c : Nat) (b : Block) : (s.setBlock c b).moduleNum = s.moduleNum := rfl
@[simp] theorem State.setBlock_domainSize (s : State) (c : Nat) (b : Block) : (s.setBlock c b).domainSize = s.domainSize := rfl
@[simp] theorem State.setBlock_mailbox (s : State) (c : Nat) (b : Block) : (s.setBlock c b).mailbox = s.mailbox := rfl
@[simp] theorem State.setBlock_hostReply (s : State) (c : Nat) (b : Block) : (s.setBlock c b).hostReply = s.hostReply := rfl
@[simp] theorem State.setBlock_pwrlim (s : State) (c : Nat) (b : Block) : (s.setBlock c b).pwrlim = s.pwrlim := rfl
@[simp] theorem State.setBlock_pwrnow (s : State) (c : Nat) (b : Block) : (s.setBlock c b).pwrnow = s.pwrnow := rfl
@[simp] theorem State.setBlock_tlim (s : State) (c : Nat) (b : Block) : (s.setBlock c b).tlim = s.tlim := rfl
@[simp] theorem State.setBlock_thrcnt (s : State) (c : Nat) (b : Block) : (s.setBlock c b).thrcnt = s.thrcnt := rfl
@[simp] theorem State.setBlock_security (s : State) (c : Nat) (b : Block) : (s.setBlock c b).security = s.security := rfl
@[simp] theorem State.setBlock_cur (s : State) (c : Nat) (b : Block) : (s.setBlock c b).cur = s.cur := rfl
@[simp] theorem State.setBlock_second (s : State) (c : Nat) (b : Block) : (s.setBlock c b).second = s.second := rfl
@[simp] theorem State.setBlock_turns (s : State) (c : Nat) (b : Block) : (s.setBlock c b).turns = s.turns := rfl
@[simp] theorem State.setBlock_freshCount (s : State) (c : Nat) (b : Block) : (s.setBlock c b).freshCount = s.freshCount := rfl

theorem State.setGang_eq (s : State) (c gi : Nat) (g : Gang) : s.setGang c gi g = s ∨ ∃ x, s.setGang c gi g = s.setCore c x := by
  simp only [State.setGang, State.modBlock]; split
  · exact .inl rfl
  · exact .inr ⟨_, rfl⟩

@[simp] theorem State.setGang_part (s : State) (c gi : Nat) (g : Gang) : (s.setGang c gi g).part = s.part := by
  obtain h | ⟨x, h⟩ := s.setGang_eq c gi g <;> rw [h]; rfl
@[simp] theorem State.setGang_mem (s : State) (c gi : Nat) (g : Gang) : (s.setGang c gi g).mem = s.mem := by
  obtain h | ⟨x, h⟩ := s.setGang_eq c gi g <;> rw [h]; rfl
@[simp] theorem State.setGang_failing (s : State) (c gi : Nat) (g : Gang) : (s.setGang c gi g).failing = s.failing := by
  obtain h | ⟨x, h⟩ := s.setGang_eq c gi g <;> rw [h]; rfl
@[simp] theorem State.setGang_hostMem (s : State) (c gi : Nat) (g : Gang) : (s.setGang c gi g).hostMem = s.hostMem := by
  obtain h | ⟨x, h⟩ := s.setGang_eq c gi g <;> rw [h]; rfl
@[simp] theorem State.setGang_peerMem (s : State) (c gi : Nat) (g : Gang) : (s.setGang c gi g).peerMem = s.peerMem := by
  obtain h | ⟨x, h⟩ := s.setGang_eq c gi g <;> rw [h]; rfl
@[simp] theorem State.setGang_towers (s : State) (c gi : Nat) (g : Gang) : (s.setGang c gi g).towers = s.towers := by
  obtain h | ⟨x, h⟩ := s.setGang_eq c gi g <;> rw [h]; rfl
@[simp] theorem State.setGang_parts (s : State) (c gi : Nat) (g : Gang) : (s.setGang c gi g).parts = s.parts := by
  obtain h | ⟨x, h⟩ := s.setGang_eq c gi g <;> rw [h]; rfl
@[simp] theorem State.setGang_launches (s : State) (c gi : Nat) (g : Gang) : (s.setGang c gi g).launches = s.launches := by
  obtain h | ⟨x, h⟩ := s.setGang_eq c gi g <;> rw [h]; rfl
@[simp] theorem State.setGang_nextLaunch (s : State) (c gi : Nat) (g : Gang) : (s.setGang c gi g).nextLaunch = s.nextLaunch := by
  obtain h | ⟨x, h⟩ := s.setGang_eq c gi g <;> rw [h]; rfl
@[simp] theorem State.setGang_commands (s : State) (c gi : Nat) (g : Gang) : (s.setGang c gi g).commands = s.commands := by
  obtain h | ⟨x, h⟩ := s.setGang_eq c gi g <;> rw [h]; rfl
@[simp] theorem State.setGang_nextCommand (s : State) (c gi : Nat) (g : Gang) : (s.setGang c gi g).nextCommand = s.nextCommand := by
  obtain h | ⟨x, h⟩ := s.setGang_eq c gi g <;> rw [h]; rfl
@[simp] theorem State.setGang_saved (s : State) (c gi : Nat) (g : Gang) : (s.setGang c gi g).saved = s.saved := by
  obtain h | ⟨x, h⟩ := s.setGang_eq c gi g <;> rw [h]; rfl
@[simp] theorem State.setGang_starts (s : State) (c gi : Nat) (g : Gang) : (s.setGang c gi g).starts = s.starts := by
  obtain h | ⟨x, h⟩ := s.setGang_eq c gi g <;> rw [h]; rfl
@[simp] theorem State.setGang_dequeues (s : State) (c gi : Nat) (g : Gang) : (s.setGang c gi g).dequeues = s.dequeues := by
  obtain h | ⟨x, h⟩ := s.setGang_eq c gi g <;> rw [h]; rfl
@[simp] theorem State.setGang_ctxbase (s : State) (c gi : Nat) (g : Gang) : (s.setGang c gi g).ctxbase = s.ctxbase := by
  obtain h | ⟨x, h⟩ := s.setGang_eq c gi g <;> rw [h]; rfl
@[simp] theorem State.setGang_inval (s : State) (c gi : Nat) (g : Gang) : (s.setGang c gi g).inval = s.inval := by
  obtain h | ⟨x, h⟩ := s.setGang_eq c gi g <;> rw [h]; rfl
@[simp] theorem State.setGang_farPub (s : State) (c gi : Nat) (g : Gang) : (s.setGang c gi g).farPub = s.farPub := by
  obtain h | ⟨x, h⟩ := s.setGang_eq c gi g <;> rw [h]; rfl
@[simp] theorem State.setGang_syncPub (s : State) (c gi : Nat) (g : Gang) : (s.setGang c gi g).syncPub = s.syncPub := by
  obtain h | ⟨x, h⟩ := s.setGang_eq c gi g <;> rw [h]; rfl
@[simp] theorem State.setGang_homeLog (s : State) (c gi : Nat) (g : Gang) : (s.setGang c gi g).homeLog = s.homeLog := by
  obtain h | ⟨x, h⟩ := s.setGang_eq c gi g <;> rw [h]; rfl
@[simp] theorem State.setGang_moduleNum (s : State) (c gi : Nat) (g : Gang) : (s.setGang c gi g).moduleNum = s.moduleNum := by
  obtain h | ⟨x, h⟩ := s.setGang_eq c gi g <;> rw [h]; rfl
@[simp] theorem State.setGang_domainSize (s : State) (c gi : Nat) (g : Gang) : (s.setGang c gi g).domainSize = s.domainSize := by
  obtain h | ⟨x, h⟩ := s.setGang_eq c gi g <;> rw [h]; rfl
@[simp] theorem State.setGang_mailbox (s : State) (c gi : Nat) (g : Gang) : (s.setGang c gi g).mailbox = s.mailbox := by
  obtain h | ⟨x, h⟩ := s.setGang_eq c gi g <;> rw [h]; rfl
@[simp] theorem State.setGang_hostReply (s : State) (c gi : Nat) (g : Gang) : (s.setGang c gi g).hostReply = s.hostReply := by
  obtain h | ⟨x, h⟩ := s.setGang_eq c gi g <;> rw [h]; rfl
@[simp] theorem State.setGang_pwrlim (s : State) (c gi : Nat) (g : Gang) : (s.setGang c gi g).pwrlim = s.pwrlim := by
  obtain h | ⟨x, h⟩ := s.setGang_eq c gi g <;> rw [h]; rfl
@[simp] theorem State.setGang_pwrnow (s : State) (c gi : Nat) (g : Gang) : (s.setGang c gi g).pwrnow = s.pwrnow := by
  obtain h | ⟨x, h⟩ := s.setGang_eq c gi g <;> rw [h]; rfl
@[simp] theorem State.setGang_tlim (s : State) (c gi : Nat) (g : Gang) : (s.setGang c gi g).tlim = s.tlim := by
  obtain h | ⟨x, h⟩ := s.setGang_eq c gi g <;> rw [h]; rfl
@[simp] theorem State.setGang_thrcnt (s : State) (c gi : Nat) (g : Gang) : (s.setGang c gi g).thrcnt = s.thrcnt := by
  obtain h | ⟨x, h⟩ := s.setGang_eq c gi g <;> rw [h]; rfl
@[simp] theorem State.setGang_security (s : State) (c gi : Nat) (g : Gang) : (s.setGang c gi g).security = s.security := by
  obtain h | ⟨x, h⟩ := s.setGang_eq c gi g <;> rw [h]; rfl
@[simp] theorem State.setGang_cur (s : State) (c gi : Nat) (g : Gang) : (s.setGang c gi g).cur = s.cur := by
  obtain h | ⟨x, h⟩ := s.setGang_eq c gi g <;> rw [h]; rfl
@[simp] theorem State.setGang_second (s : State) (c gi : Nat) (g : Gang) : (s.setGang c gi g).second = s.second := by
  obtain h | ⟨x, h⟩ := s.setGang_eq c gi g <;> rw [h]; rfl
@[simp] theorem State.setGang_turns (s : State) (c gi : Nat) (g : Gang) : (s.setGang c gi g).turns = s.turns := by
  obtain h | ⟨x, h⟩ := s.setGang_eq c gi g <;> rw [h]; rfl
@[simp] theorem State.setGang_freshCount (s : State) (c gi : Nat) (g : Gang) : (s.setGang c gi g).freshCount = s.freshCount := by
  obtain h | ⟨x, h⟩ := s.setGang_eq c gi g <;> rw [h]; rfl

/-! ### Updates of a block and of a gang -/

@[simp] theorem Block.setGang_cfg (b : Block) (i : Nat) (g : Gang) : (b.setGang i g).cfg = b.cfg := rfl
@[simp] theorem Block.setGang_ds (b : Block) (i : Nat) (g : Gang) : (b.setGang i g).ds = b.ds := rfl
@[simp] theorem Block.setGang_dsFail (b : Block) (i : Nat) (g : Gang) : (b.setGang i g).dsFail = b.dsFail := rfl
@[simp] theorem Block.setGang_rs (b : Block) (i : Nat) (g : Gang) : (b.setGang i g).rs = b.rs := rfl
@[simp] theorem Block.setGang_rsLog (b : Block) (i : Nat) (g : Gang) : (b.setGang i g).rsLog = b.rsLog := rfl
@[simp] theorem Block.setGang_dsLog (b : Block) (i : Nat) (g : Gang) : (b.setGang i g).dsLog = b.dsLog := rfl
@[simp] theorem Block.setGang_drains (b : Block) (i : Nat) (g : Gang) : (b.setGang i g).drains = b.drains := rfl
@[simp] theorem Block.setGang_barB (b : Block) (i : Nat) (g : Gang) : (b.setGang i g).barB = b.barB := rfl
@[simp] theorem Block.setGang_barE (b : Block) (i : Nat) (g : Gang) : (b.setGang i g).barE = b.barE := rfl
@[simp] theorem Block.setGang_teller (b : Block) (i : Nat) (g : Gang) : (b.setGang i g).teller = b.teller := rfl
@[simp] theorem Block.setGang_tfl (b : Block) (i : Nat) (g : Gang) : (b.setGang i g).tfl = b.tfl := rfl
@[simp] theorem Block.setGang_tellerStall (b : Block) (i : Nat) (g : Gang) : (b.setGang i g).tellerStall = b.tellerStall := rfl
@[simp] theorem Block.setGang_queues (b : Block) (i : Nat) (g : Gang) : (b.setGang i g).queues = b.queues := rfl
@[simp] theorem Block.setGang_binds (b : Block) (i : Nat) (g : Gang) : (b.setGang i g).binds = b.binds := rfl
@[simp] theorem Block.setGang_lease (b : Block) (i : Nat) (g : Gang) : (b.setGang i g).lease = b.lease := rfl
@[simp] theorem Block.setGang_since (b : Block) (i : Nat) (g : Gang) : (b.setGang i g).since = b.since := rfl
@[simp] theorem Block.setGang_seq (b : Block) (i : Nat) (g : Gang) : (b.setGang i g).seq = b.seq := rfl
@[simp] theorem Block.setGang_quantumPassed (b : Block) (i : Nat) (g : Gang) : (b.setGang i g).quantumPassed = b.quantumPassed := rfl
@[simp] theorem Block.setGang_rmask (b : Block) (i : Nat) (g : Gang) : (b.setGang i g).rmask = b.rmask := rfl

@[simp] theorem Gang.modLanes_wb (g : Gang) (act : LaneBits) (f : Nat → Lane → Lane) : (g.modLanes act f).wb = g.wb := rfl
@[simp] theorem Gang.modLanes_k (g : Gang) (act : LaneBits) (f : Nat → Lane → Lane) : (g.modLanes act f).k = g.k := rfl
@[simp] theorem Gang.modLanes_m (g : Gang) (act : LaneBits) (f : Nat → Lane → Lane) : (g.modLanes act f).m = g.m := rfl
@[simp] theorem Gang.modLanes_j (g : Gang) (act : LaneBits) (f : Nat → Lane → Lane) : (g.modLanes act f).j = g.j := rfl
@[simp] theorem Gang.modLanes_flags (g : Gang) (act : LaneBits) (f : Nat → Lane → Lane) : (g.modLanes act f).flags = g.flags := rfl
@[simp] theorem Gang.modLanes_lm (g : Gang) (act : LaneBits) (f : Nat → Lane → Lane) : (g.modLanes act f).lm = g.lm := rfl
@[simp] theorem Gang.modLanes_amax (g : Gang) (act : LaneBits) (f : Nat → Lane → Lane) : (g.modLanes act f).amax = g.amax := rfl
@[simp] theorem Gang.modLanes_amaxNan (g : Gang) (act : LaneBits) (f : Nat → Lane → Lane) : (g.modLanes act f).amaxNan = g.amaxNan := rfl
@[simp] theorem Gang.modLanes_tcause (g : Gang) (act : LaneBits) (f : Nat → Lane → Lane) : (g.modLanes act f).tcause = g.tcause := rfl
@[simp] theorem Gang.modLanes_taddr (g : Gang) (act : LaneBits) (f : Nat → Lane → Lane) : (g.modLanes act f).taddr = g.taddr := rfl
@[simp] theorem Gang.modLanes_tlane (g : Gang) (act : LaneBits) (f : Nat → Lane → Lane) : (g.modLanes act f).tlane = g.tlane := rfl
@[simp] theorem Gang.modLanes_tinfo (g : Gang) (act : LaneBits) (f : Nat → Lane → Lane) : (g.modLanes act f).tinfo = g.tinfo := rfl
@[simp] theorem Gang.modLanes_tkeep0 (g : Gang) (act : LaneBits) (f : Nat → Lane → Lane) : (g.modLanes act f).tkeep0 = g.tkeep0 := rfl
@[simp] theorem Gang.modLanes_tkeep1 (g : Gang) (act : LaneBits) (f : Nat → Lane → Lane) : (g.modLanes act f).tkeep1 = g.tkeep1 := rfl
@[simp] theorem Gang.modLanes_inHandler (g : Gang) (act : LaneBits) (f : Nat → Lane → Lane) : (g.modLanes act f).inHandler = g.inHandler := rfl
@[simp] theorem Gang.modLanes_resume (g : Gang) (act : LaneBits) (f : Nat → Lane → Lane) : (g.modLanes act f).resume = g.resume := rfl
@[simp] theorem Gang.modLanes_pending (g : Gang) (act : LaneBits) (f : Nat → Lane → Lane) : (g.modLanes act f).pending = g.pending := rfl
@[simp] theorem Gang.modLanes_depth (g : Gang) (act : LaneBits) (f : Nat → Lane → Lane) : (g.modLanes act f).depth = g.depth := rfl
@[simp] theorem Gang.modLanes_entryGen (g : Gang) (act : LaneBits) (f : Nat → Lane → Lane) : (g.modLanes act f).entryGen = g.entryGen := rfl
@[simp] theorem Gang.modLanes_commit (g : Gang) (act : LaneBits) (f : Nat → Lane → Lane) : (g.modLanes act f).commit = g.commit := rfl
@[simp] theorem Gang.modLanes_tlast (g : Gang) (act : LaneBits) (f : Nat → Lane → Lane) : (g.modLanes act f).tlast = g.tlast := rfl
@[simp] theorem Gang.modLanes_flush (g : Gang) (act : LaneBits) (f : Nat → Lane → Lane) : (g.modLanes act f).flush = g.flush := rfl
@[simp] theorem Gang.modLanes_stagedSeq (g : Gang) (act : LaneBits) (f : Nat → Lane → Lane) : (g.modLanes act f).stagedSeq = g.stagedSeq := rfl
@[simp] theorem Gang.modLanes_clauses (g : Gang) (act : LaneBits) (f : Nat → Lane → Lane) : (g.modLanes act f).clauses = g.clauses := rfl
@[simp] theorem Gang.modLanes_ops (g : Gang) (act : LaneBits) (f : Nat → Lane → Lane) : (g.modLanes act f).ops = g.ops := rfl
@[simp] theorem Gang.modLanes_held (g : Gang) (act : LaneBits) (f : Nat → Lane → Lane) : (g.modLanes act f).held = g.held := rfl
@[simp] theorem Gang.modLanes_nextId (g : Gang) (act : LaneBits) (f : Nat → Lane → Lane) : (g.modLanes act f).nextId = g.nextId := rfl
@[simp] theorem Gang.modLanes_slots (g : Gang) (act : LaneBits) (f : Nat → Lane → Lane) : (g.modLanes act f).slots = g.slots := rfl
@[simp] theorem Gang.modLanes_rsMark (g : Gang) (act : LaneBits) (f : Nat → Lane → Lane) : (g.modLanes act f).rsMark = g.rsMark := rfl
@[simp] theorem Gang.modLanes_dsMark (g : Gang) (act : LaneBits) (f : Nat → Lane → Lane) : (g.modLanes act f).dsMark = g.dsMark := rfl
@[simp] theorem Gang.modLanes_ready (g : Gang) (act : LaneBits) (f : Nat → Lane → Lane) : (g.modLanes act f).ready = g.ready := rfl
@[simp] theorem Gang.modLanes_yielded (g : Gang) (act : LaneBits) (f : Nat → Lane → Lane) : (g.modLanes act f).yielded = g.yielded := rfl

@[simp] theorem Gang.setMask_lanes (g : Gang) (n : MaskNo) (v : MaskBits) : (g.setMask n v).lanes = g.lanes := rfl
@[simp] theorem Gang.setMask_wb (g : Gang) (n : MaskNo) (v : MaskBits) : (g.setMask n v).wb = g.wb := rfl
@[simp] theorem Gang.setMask_k (g : Gang) (n : MaskNo) (v : MaskBits) : (g.setMask n v).k = g.k := rfl
@[simp] theorem Gang.setMask_j (g : Gang) (n : MaskNo) (v : MaskBits) : (g.setMask n v).j = g.j := rfl
@[simp] theorem Gang.setMask_flags (g : Gang) (n : MaskNo) (v : MaskBits) : (g.setMask n v).flags = g.flags := rfl
@[simp] theorem Gang.setMask_lm (g : Gang) (n : MaskNo) (v : MaskBits) : (g.setMask n v).lm = g.lm := rfl
@[simp] theorem Gang.setMask_amax (g : Gang) (n : MaskNo) (v : MaskBits) : (g.setMask n v).amax = g.amax := rfl
@[simp] theorem Gang.setMask_amaxNan (g : Gang) (n : MaskNo) (v : MaskBits) : (g.setMask n v).amaxNan = g.amaxNan := rfl
@[simp] theorem Gang.setMask_tcause (g : Gang) (n : MaskNo) (v : MaskBits) : (g.setMask n v).tcause = g.tcause := rfl
@[simp] theorem Gang.setMask_taddr (g : Gang) (n : MaskNo) (v : MaskBits) : (g.setMask n v).taddr = g.taddr := rfl
@[simp] theorem Gang.setMask_tlane (g : Gang) (n : MaskNo) (v : MaskBits) : (g.setMask n v).tlane = g.tlane := rfl
@[simp] theorem Gang.setMask_tinfo (g : Gang) (n : MaskNo) (v : MaskBits) : (g.setMask n v).tinfo = g.tinfo := rfl
@[simp] theorem Gang.setMask_tkeep0 (g : Gang) (n : MaskNo) (v : MaskBits) : (g.setMask n v).tkeep0 = g.tkeep0 := rfl
@[simp] theorem Gang.setMask_tkeep1 (g : Gang) (n : MaskNo) (v : MaskBits) : (g.setMask n v).tkeep1 = g.tkeep1 := rfl
@[simp] theorem Gang.setMask_inHandler (g : Gang) (n : MaskNo) (v : MaskBits) : (g.setMask n v).inHandler = g.inHandler := rfl
@[simp] theorem Gang.setMask_resume (g : Gang) (n : MaskNo) (v : MaskBits) : (g.setMask n v).resume = g.resume := rfl
@[simp] theorem Gang.setMask_pending (g : Gang) (n : MaskNo) (v : MaskBits) : (g.setMask n v).pending = g.pending := rfl
@[simp] theorem Gang.setMask_depth (g : Gang) (n : MaskNo) (v : MaskBits) : (g.setMask n v).depth = g.depth := rfl
@[simp] theorem Gang.setMask_entryGen (g : Gang) (n : MaskNo) (v : MaskBits) : (g.setMask n v).entryGen = g.entryGen := rfl
@[simp] theorem Gang.setMask_commit (g : Gang) (n : MaskNo) (v : MaskBits) : (g.setMask n v).commit = g.commit := rfl
@[simp] theorem Gang.setMask_tlast (g : Gang) (n : MaskNo) (v : MaskBits) : (g.setMask n v).tlast = g.tlast := rfl
@[simp] theorem Gang.setMask_flush (g : Gang) (n : MaskNo) (v : MaskBits) : (g.setMask n v).flush = g.flush := rfl
@[simp] theorem Gang.setMask_stagedSeq (g : Gang) (n : MaskNo) (v : MaskBits) : (g.setMask n v).stagedSeq = g.stagedSeq := rfl
@[simp] theorem Gang.setMask_clauses (g : Gang) (n : MaskNo) (v : MaskBits) : (g.setMask n v).clauses = g.clauses := rfl
@[simp] theorem Gang.setMask_ops (g : Gang) (n : MaskNo) (v : MaskBits) : (g.setMask n v).ops = g.ops := rfl
@[simp] theorem Gang.setMask_held (g : Gang) (n : MaskNo) (v : MaskBits) : (g.setMask n v).held = g.held := rfl
@[simp] theorem Gang.setMask_nextId (g : Gang) (n : MaskNo) (v : MaskBits) : (g.setMask n v).nextId = g.nextId := rfl
@[simp] theorem Gang.setMask_slots (g : Gang) (n : MaskNo) (v : MaskBits) : (g.setMask n v).slots = g.slots := rfl
@[simp] theorem Gang.setMask_rsMark (g : Gang) (n : MaskNo) (v : MaskBits) : (g.setMask n v).rsMark = g.rsMark := rfl
@[simp] theorem Gang.setMask_dsMark (g : Gang) (n : MaskNo) (v : MaskBits) : (g.setMask n v).dsMark = g.dsMark := rfl
@[simp] theorem Gang.setMask_ready (g : Gang) (n : MaskNo) (v : MaskBits) : (g.setMask n v).ready = g.ready := rfl
@[simp] theorem Gang.setMask_yielded (g : Gang) (n : MaskNo) (v : MaskBits) : (g.setMask n v).yielded = g.yielded := rfl

@[simp] theorem Gang.addOp_lanes (g : Gang) (o : Op) : (g.addOp o).lanes = g.lanes := rfl
@[simp] theorem Gang.addOp_wb (g : Gang) (o : Op) : (g.addOp o).wb = g.wb := rfl
@[simp] theorem Gang.addOp_k (g : Gang) (o : Op) : (g.addOp o).k = g.k := rfl
@[simp] theorem Gang.addOp_m (g : Gang) (o : Op) : (g.addOp o).m = g.m := rfl
@[simp] theorem Gang.addOp_j (g : Gang) (o : Op) : (g.addOp o).j = g.j := rfl
@[simp] theorem Gang.addOp_flags (g : Gang) (o : Op) : (g.addOp o).flags = g.flags := rfl
@[simp] theorem Gang.addOp_lm (g : Gang) (o : Op) : (g.addOp o).lm = g.lm := rfl
@[simp] theorem Gang.addOp_amax (g : Gang) (o : Op) : (g.addOp o).amax = g.amax := rfl
@[simp] theorem Gang.addOp_amaxNan (g : Gang) (o : Op) : (g.addOp o).amaxNan = g.amaxNan := rfl
@[simp] theorem Gang.addOp_tcause (g : Gang) (o : Op) : (g.addOp o).tcause = g.tcause := rfl
@[simp] theorem Gang.addOp_taddr (g : Gang) (o : Op) : (g.addOp o).taddr = g.taddr := rfl
@[simp] theorem Gang.addOp_tlane (g : Gang) (o : Op) : (g.addOp o).tlane = g.tlane := rfl
@[simp] theorem Gang.addOp_tinfo (g : Gang) (o : Op) : (g.addOp o).tinfo = g.tinfo := rfl
@[simp] theorem Gang.addOp_tkeep0 (g : Gang) (o : Op) : (g.addOp o).tkeep0 = g.tkeep0 := rfl
@[simp] theorem Gang.addOp_tkeep1 (g : Gang) (o : Op) : (g.addOp o).tkeep1 = g.tkeep1 := rfl
@[simp] theorem Gang.addOp_inHandler (g : Gang) (o : Op) : (g.addOp o).inHandler = g.inHandler := rfl
@[simp] theorem Gang.addOp_resume (g : Gang) (o : Op) : (g.addOp o).resume = g.resume := rfl
@[simp] theorem Gang.addOp_pending (g : Gang) (o : Op) : (g.addOp o).pending = g.pending := rfl
@[simp] theorem Gang.addOp_depth (g : Gang) (o : Op) : (g.addOp o).depth = g.depth := rfl
@[simp] theorem Gang.addOp_entryGen (g : Gang) (o : Op) : (g.addOp o).entryGen = g.entryGen := rfl
@[simp] theorem Gang.addOp_commit (g : Gang) (o : Op) : (g.addOp o).commit = g.commit := rfl
@[simp] theorem Gang.addOp_tlast (g : Gang) (o : Op) : (g.addOp o).tlast = g.tlast := rfl
@[simp] theorem Gang.addOp_flush (g : Gang) (o : Op) : (g.addOp o).flush = g.flush := rfl
@[simp] theorem Gang.addOp_stagedSeq (g : Gang) (o : Op) : (g.addOp o).stagedSeq = g.stagedSeq := rfl
@[simp] theorem Gang.addOp_clauses (g : Gang) (o : Op) : (g.addOp o).clauses = g.clauses := rfl
@[simp] theorem Gang.addOp_held (g : Gang) (o : Op) : (g.addOp o).held = g.held := rfl
@[simp] theorem Gang.addOp_slots (g : Gang) (o : Op) : (g.addOp o).slots = g.slots := rfl
@[simp] theorem Gang.addOp_rsMark (g : Gang) (o : Op) : (g.addOp o).rsMark = g.rsMark := rfl
@[simp] theorem Gang.addOp_dsMark (g : Gang) (o : Op) : (g.addOp o).dsMark = g.dsMark := rfl
@[simp] theorem Gang.addOp_ready (g : Gang) (o : Op) : (g.addOp o).ready = g.ready := rfl
@[simp] theorem Gang.addOp_yielded (g : Gang) (o : Op) : (g.addOp o).yielded = g.yielded := rfl

@[simp] theorem Gang.setSlot_lanes (g : Gang) (n : Nat) (x : Slot) : (g.setSlot n x).lanes = g.lanes := rfl
@[simp] theorem Gang.setSlot_wb (g : Gang) (n : Nat) (x : Slot) : (g.setSlot n x).wb = g.wb := rfl
@[simp] theorem Gang.setSlot_k (g : Gang) (n : Nat) (x : Slot) : (g.setSlot n x).k = g.k := rfl
@[simp] theorem Gang.setSlot_m (g : Gang) (n : Nat) (x : Slot) : (g.setSlot n x).m = g.m := rfl
@[simp] theorem Gang.setSlot_j (g : Gang) (n : Nat) (x : Slot) : (g.setSlot n x).j = g.j := rfl
@[simp] theorem Gang.setSlot_flags (g : Gang) (n : Nat) (x : Slot) : (g.setSlot n x).flags = g.flags := rfl
@[simp] theorem Gang.setSlot_lm (g : Gang) (n : Nat) (x : Slot) : (g.setSlot n x).lm = g.lm := rfl
@[simp] theorem Gang.setSlot_amax (g : Gang) (n : Nat) (x : Slot) : (g.setSlot n x).amax = g.amax := rfl
@[simp] theorem Gang.setSlot_amaxNan (g : Gang) (n : Nat) (x : Slot) : (g.setSlot n x).amaxNan = g.amaxNan := rfl
@[simp] theorem Gang.setSlot_tcause (g : Gang) (n : Nat) (x : Slot) : (g.setSlot n x).tcause = g.tcause := rfl
@[simp] theorem Gang.setSlot_taddr (g : Gang) (n : Nat) (x : Slot) : (g.setSlot n x).taddr = g.taddr := rfl
@[simp] theorem Gang.setSlot_tlane (g : Gang) (n : Nat) (x : Slot) : (g.setSlot n x).tlane = g.tlane := rfl
@[simp] theorem Gang.setSlot_tinfo (g : Gang) (n : Nat) (x : Slot) : (g.setSlot n x).tinfo = g.tinfo := rfl
@[simp] theorem Gang.setSlot_tkeep0 (g : Gang) (n : Nat) (x : Slot) : (g.setSlot n x).tkeep0 = g.tkeep0 := rfl
@[simp] theorem Gang.setSlot_tkeep1 (g : Gang) (n : Nat) (x : Slot) : (g.setSlot n x).tkeep1 = g.tkeep1 := rfl
@[simp] theorem Gang.setSlot_inHandler (g : Gang) (n : Nat) (x : Slot) : (g.setSlot n x).inHandler = g.inHandler := rfl
@[simp] theorem Gang.setSlot_resume (g : Gang) (n : Nat) (x : Slot) : (g.setSlot n x).resume = g.resume := rfl
@[simp] theorem Gang.setSlot_pending (g : Gang) (n : Nat) (x : Slot) : (g.setSlot n x).pending = g.pending := rfl
@[simp] theorem Gang.setSlot_depth (g : Gang) (n : Nat) (x : Slot) : (g.setSlot n x).depth = g.depth := rfl
@[simp] theorem Gang.setSlot_entryGen (g : Gang) (n : Nat) (x : Slot) : (g.setSlot n x).entryGen = g.entryGen := rfl
@[simp] theorem Gang.setSlot_commit (g : Gang) (n : Nat) (x : Slot) : (g.setSlot n x).commit = g.commit := rfl
@[simp] theorem Gang.setSlot_tlast (g : Gang) (n : Nat) (x : Slot) : (g.setSlot n x).tlast = g.tlast := rfl
@[simp] theorem Gang.setSlot_flush (g : Gang) (n : Nat) (x : Slot) : (g.setSlot n x).flush = g.flush := rfl
@[simp] theorem Gang.setSlot_stagedSeq (g : Gang) (n : Nat) (x : Slot) : (g.setSlot n x).stagedSeq = g.stagedSeq := rfl
@[simp] theorem Gang.setSlot_clauses (g : Gang) (n : Nat) (x : Slot) : (g.setSlot n x).clauses = g.clauses := rfl
@[simp] theorem Gang.setSlot_ops (g : Gang) (n : Nat) (x : Slot) : (g.setSlot n x).ops = g.ops := rfl
@[simp] theorem Gang.setSlot_held (g : Gang) (n : Nat) (x : Slot) : (g.setSlot n x).held = g.held := rfl
@[simp] theorem Gang.setSlot_nextId (g : Gang) (n : Nat) (x : Slot) : (g.setSlot n x).nextId = g.nextId := rfl
@[simp] theorem Gang.setSlot_rsMark (g : Gang) (n : Nat) (x : Slot) : (g.setSlot n x).rsMark = g.rsMark := rfl
@[simp] theorem Gang.setSlot_dsMark (g : Gang) (n : Nat) (x : Slot) : (g.setSlot n x).dsMark = g.dsMark := rfl
@[simp] theorem Gang.setSlot_ready (g : Gang) (n : Nat) (x : Slot) : (g.setSlot n x).ready = g.ready := rfl
@[simp] theorem Gang.setSlot_yielded (g : Gang) (n : Nat) (x : Slot) : (g.setSlot n x).yielded = g.yielded := rfl

/-! ### What a replaced part reads as -/

theorem State.core_setCore (s : State) (c d : Nat) (x : Core) (h : c < s.cores.length) :
    (s.setCore c x).core d = if d = c then x else s.core d := by
  simp only [State.core, State.setCore, List.getD_eq_getElem?_getD, List.getElem?_set]
  split
  · rename_i he; subst he; simp
  · rename_i hn; simp [Ne.symm hn]

theorem State.lt_of_block? (s : State) (c : Nat) (b : Block) (h : s.block? c = some b) : c < s.cores.length := by
  cases Nat.lt_or_ge c s.cores.length with
  | inl hl => exact hl
  | inr hn =>
    have : s.core c = {} := by simp [State.core, List.getD_eq_getElem?_getD, List.getElem?_eq_none hn]
    simp [State.block?, this] at h

theorem State.block?_setBlock (s : State) (c d : Nat) (b b' : Block) (h : s.block? c = some b') :
    (s.setBlock c b).block? d = if d = c then some b else s.block? d := by
  simp only [State.setBlock, State.block?, s.core_setCore c d _ (s.lt_of_block? c b' h)]; split <;> rfl

theorem State.setGang_of (s : State) (c gi : Nat) (g : Gang) (b : Block) (h : s.block? c = some b) :
    s.setGang c gi g = s.setBlock c (b.setGang gi g) := by simp [State.setGang, State.modBlock, h]

theorem State.block?_setGang (s : State) (c d gi : Nat) (g : Gang) (b : Block) (h : s.block? c = some b) :
    (s.setGang c gi g).block? d = if d = c then some (b.setGang gi g) else s.block? d := by
  rw [s.setGang_of c gi g b h, s.block?_setBlock c d _ b h]

theorem State.gang?_setGang (s : State) (c gi : Nat) (g x : Gang) (h : s.gang? c gi = some x) : (s.setGang c gi g).gang? c gi = some g := by
  simp only [State.gang?] at h ⊢
  split at h
  · simp at h
  · rename_i b hb
    rw [s.block?_setGang c c gi g b hb]
    have hl : gi < b.gangs.length := (List.getElem?_eq_some_iff.mp h).1
    simp [Block.setGang, hl]

theorem Block.gangs_setGang (b : Block) (i j : Nat) (g : Gang) (h : i ≠ j) : (b.setGang i g).gangs[j]? = b.gangs[j]? := by
  simp [Block.setGang, h]

theorem Gang.lane_modLanes (g : Gang) (act : LaneBits) (f : Nat → Lane → Lane) (l : Nat) (h : l < g.lanes.length) :
    (g.modLanes act f).lane l = if act.getLsbD l then f l (g.lane l) else g.lane l := by
  simp [Gang.lane, Gang.modLanes, List.getD_eq_getElem?_getD, h]

theorem Gang.lane_modLanes_off (g : Gang) (act : LaneBits) (f : Nat → Lane → Lane) (l : Nat) (h : act.getLsbD l = false) :
    (g.modLanes act f).lane l = g.lane l := by
  simp only [Gang.lane, Gang.modLanes, List.getD_eq_getElem?_getD, List.getElem?_mapIdx]
  cases g.lanes[l]? <;> simp [h]

end Sys2Proof.Machine
end

