-- ==== Sys2Proof/Laws/Words.lean ====
section
/-! SUPPORT. What the shared operations of the words do: the checks of operands, writing destinations, settling flags, and going
on. -/
namespace Sys2Proof.Machine

/-! ### The order-4 checks (R51, R54, R66) -/

theorem Ctx.windowBad_none (c : Ctx) (r : Src) (h : c.SrcOk r) : c.windowBad r = none := by
  cases r <;> simp_all [Ctx.SrcOk, Ctx.windowBad]

theorem Ctx.indirectBad_none (c : Ctx) (r : Src) (h : c.SrcOk r) : c.indirectBad r = none := by
  cases r with
  | ix n =>
    simp only [Ctx.indirectBad, List.find?_eq_none, List.mem_map]
    rintro _ ⟨l, hl, rfl⟩
    simpa using h l hl
  | _ => rfl

/-- Operands inside the allotment pass the checks (R51, R54). -/
theorem Ctx.check_ok (c : Ctx) (rs : List Src) (h : c.Ok rs) : c.check rs = .ok () := by
  have h1 : rs.findSome? c.windowBad = none := List.findSome?_eq_none_iff.mpr fun r hr => c.windowBad_none r (h r hr)
  have h2 : rs.filterMap c.indirectBad = [] := List.filterMap_eq_nil_iff.mpr fun r hr => c.indirectBad_none r (h r hr)
  simp [Ctx.check, h1, h2, minBy?]

/-- Operands and a slot inside the allotment pass the checks (R44, R51, R54). -/
theorem Ctx.check_slot_ok (c : Ctx) (rs : List Src) (n : Nat) (h : c.Ok rs) (hn : n < c.blk.cfg.slots) : c.check rs (some n) = .ok () := by
  have h1 : rs.findSome? c.windowBad = none := List.findSome?_eq_none_iff.mpr fun r hr => c.windowBad_none r (h r hr)
  have h2 : rs.filterMap c.indirectBad = [] := List.filterMap_eq_nil_iff.mpr fun r hr => c.indirectBad_none r (h r hr)
  simp [Ctx.check, h1, h2, hn, minBy?]

/-- The context of a word: its block, its gang and the issue data (log entry 3). -/
theorem ctx?_some (s : State) (c : Ctx) (h : ctx? s = some c) :
    s.block? s.cur.core = some c.blk ∧ c.blk.gangs[s.cur.gang]? = some c.g ∧ c.iss = s.cur := by
  unfold ctx? at h
  split at h
  · simp at h
  · split at h
    · simp at h
    · simp only [Option.some.injEq] at h; subst h; exact ⟨‹_›, ‹_›, rfl⟩

theorem withCtx_some (s : State) (c : Ctx) (k : Ctx → Out) (h : ctx? s = some c) : withCtx s k = k c := by simp [withCtx, h]

theorem gangWord_ok (s : State) (c : Ctx) (chk : Ctx → Except Trap Unit) (f : Ctx → Gang) (h : ctx? s = some c) (hc : chk c = .ok ()) :
    gangWord s chk f = .next (s.retire (f c)) := by simp [gangWord, withCtx, h, hc]

theorem elemWord_ok (s : State) (c : Ctx) (w : Width) (d : Dst) (srcs : Ctx → List Src) (f : Ctx → Nat → Nat → Nat)
    (h : ctx? s = some c) (hc : c.Ok (d.src :: srcs c)) : elemWord s w d srcs f = .next (s.retire (c.writeElems w d (f c))) :=
  gangWord_ok s c _ _ h (c.check_ok _ hc)

theorem compareWord_ok (s : State) (c : Ctx) (w : Width) (d : MaskNo) (a b : Src) (p : Nat → Nat → Bool) (h : ctx? s = some c)
    (hc : c.Ok [a, b]) : compareWord s w d a b p =
      .next (s.retire (c.g.setMask d (c.compared w (c.g.mask d) (fun l e => p (c.elem w a l e) (c.elem w b l e))))) :=
  gangWord_ok s c _ _ h (c.check_ok _ hc)

/-! ### Settling (R39) and going on (R49) -/

/-- Settling changes the counts of flags and the clause instances, and nothing else (R39). -/
theorem Gang.settle_eq (g : Gang) : g.settle = { g with flags := g.settle.flags, clauses := g.settle.clauses } := by
  have key : ∀ (cs : List Clause) (g : Gang), cs.foldl Gang.settleOne g =
      { g with flags := (cs.foldl Gang.settleOne g).flags, clauses := (cs.foldl Gang.settleOne g).clauses } := by
    intro cs
    induction cs with
    | nil => intro g; rfl
    | cons c cs ih =>
      intro g
      have h1 : g.settleOne c = { g with flags := (g.settleOne c).flags, clauses := (g.settleOne c).clauses } := rfl
      rw [List.foldl_cons, ih (g.settleOne c)]
      rw [h1]
  exact key g.clauses g

@[simp] theorem Gang.settle_lanes (g : Gang) : g.settle.lanes = g.lanes := by rw [g.settle_eq]
@[simp] theorem Gang.settle_lane (g : Gang) (l : Nat) : g.settle.lane l = g.lane l := by simp [Gang.lane]

/-- After a word its gang has gone on, and nothing else has changed. -/
theorem State.retire_eq (s : State) (g : Gang) : s.retire g = s.setGang s.cur.core s.cur.gang (g.advance s.cur s.cur.active) := rfl

theorem Gang.advance_eq (g : Gang) (iss : Issue) (act : LaneBits) : g.advance iss act =
    { g with lanes := (g.advance iss act).lanes, flags := (g.advance iss act).flags, clauses := (g.advance iss act).clauses } := by
  unfold Gang.advance; rw [Gang.settle_eq]; rfl

theorem Gang.lane_advance (g : Gang) (iss : Issue) (act : LaneBits) (l : Nat) (h : l < g.lanes.length) :
    (g.advance iss act).lane l = if act.getLsbD l then (g.lane l).next iss.addr iss.words else g.lane l := by
  simp [Gang.advance, g.lane_modLanes act _ l h]

theorem Gang.lane_advance_off (g : Gang) (iss : Issue) (act : LaneBits) (l : Nat) (h : act.getLsbD l = false) :
    (g.advance iss act).lane l = g.lane l := by
  simp [Gang.advance, g.lane_modLanes_off act _ l h]

/-! ### Writing a destination (R53, R54) -/

@[simp] theorem Gang.length_modLanes (g : Gang) (act : LaneBits) (f : Nat → Lane → Lane) :
    (g.modLanes act f).lanes.length = g.lanes.length := by simp [Gang.modLanes]

theorem Lane.write_eq (x : Lane) (wb : Nat) (d : Dst) (v : Word) : x.write wb d v = { x with regs := (x.write wb d v).regs } := by
  cases d <;> rfl

theorem Gang.lane_writeDst (g : Gang) (act : LaneBits) (d : Dst) (val : Nat → Word) (l : Nat) (h : l < g.lanes.length) :
    (g.writeDst act d val).lane l = if act.getLsbD l then (g.lane l).write g.wb d (val l) else g.lane l := by
  simp [Gang.writeDst, g.lane_modLanes act _ l h]

/-- The register a destination names takes the value; every other keeps its own (R53, R54). -/
theorem Gang.regGet_write (g : Gang) (l r : Nat) (d : Dst) (v : Word) :
    regGet ((g.lane l).write g.wb d v).regs r = if g.dstIndex l d = some r then v else regGet (g.lane l).regs r := by
  cases d with
  | v i => simp only [Lane.write, Gang.dstIndex, regGet_regSet]; simp [eq_comm]
  | z => simp [Lane.write, Gang.dstIndex]
  | ix n => simp only [Lane.write, Gang.dstIndex, regGet_regSet]; simp [eq_comm]

end Sys2Proof.Machine
end

