-- ==== Sys2Proof/Laws/Integer.lean ====
section
/-! SUPPORT. The integer arithmetic of the machine, written on natural numbers, is that of bit vectors. -/
namespace Sys2Proof.Machine

theorem subElem_lt (w : Width) (x : Word) (e : Nat) : subElem w x e < 2 ^ w.bits := Nat.mod_lt _ (Nat.two_pow_pos _)

@[simp] theorem Ctx.bv_toNat (c : Ctx) (w : Width) (r : Src) (l e : Nat) : (c.bv w r l e).toNat = c.elem w r l e := by
  simp only [Ctx.bv, BitVec.toNat_ofNat]; exact Nat.mod_eq_of_lt (subElem_lt _ _ _)

theorem Ctx.elem_lt (c : Ctx) (w : Width) (r : Src) (l e : Nat) : c.elem w r l e < 2 ^ w.bits := subElem_lt _ _ _

theorem Width.bits_pos (w : Width) : 0 < w.bits := by cases w <;> decide

/-- A word computed element by element gives the bits of its function (R155). -/
theorem elem_gives (s : State) (c : Ctx) (i : Instr) (w : Width) (d : Dst) (srcs : Ctx → List Src) (f : Ctx → Nat → Nat → Nat)
    (g : Nat → Nat → BitVec w.bits) (hi : exec i s = elemWord s w d srcs f) (h : ctx? s = some c) (hc : c.Ok (d.src :: srcs c))
    (hfg : ∀ l e, f c l e = (g l e).toNat) : c.Gives s i w d g := by
  rw [Ctx.Gives, hi, elemWord_ok s c w d srcs f h hc]
  have : f c = fun l e => (g l e).toNat := by funext l e; exact hfg l e
  rw [this]

/-- A compare word gives the bits of its relation (R169). -/
theorem compare_gives (s : State) (c : Ctx) (i : Instr) (w : Width) (m : MaskNo) (a b : Src) (p : Nat → Nat → Bool) (q : Nat → Nat → Bool)
    (hi : exec i s = compareWord s w m a b p) (h : ctx? s = some c) (hc : c.Ok [a, b])
    (hpq : ∀ l e, p (c.elem w a l e) (c.elem w b l e) = q l e) : c.Compares s i w m q := by
  rw [Ctx.Compares, hi, compareWord_ok s c w m a b p h hc]
  have : (fun l e => p (c.elem w a l e) (c.elem w b l e)) = q := by funext l e; exact hpq l e
  rw [this]

theorem lowBits_eq (n : Nat) (x : Int) : lowBits n x = (BitVec.ofInt n x).toNat := by
  simp [lowBits, BitVec.toNat_ofInt]

theorem sintN_eq (n : Nat) (v : BitVec n) (hn : 0 < n) : sintN n v.toNat = v.toInt := by
  have h := v.isLt
  have h2 : 2 ^ n = 2 * 2 ^ (n - 1) := by
    cases n with
    | zero => omega
    | succ n => simp [Nat.pow_succ, Nat.mul_comm]
  simp only [sintN, Nat.mod_eq_of_lt h, BitVec.toInt]
  by_cases h1 : v.toNat < 2 ^ (n - 1)
  · rw [if_pos h1, if_pos (by omega)]
  · rw [if_neg h1, if_neg (by omega)]

theorem clampInt_eq (lo hi x : Int) (h : lo ≤ hi) : clampInt lo hi x = max lo (min hi x) := by
  simp only [clampInt]; split
  · omega
  · split <;> omega

theorem satI_eq (n : Nat) (x : Int) : satI n x = (satSigned n x).toNat := by
  have : 0 < 2 ^ (n - 1) := Nat.two_pow_pos _
  rw [satI, satSigned, lowBits_eq, clampInt_eq _ _ _ (by omega)]

theorem satN_eq (n : Nat) (x : Int) : satN n x = (satUnsigned n x).toNat := by
  have : 0 < 2 ^ n := Nat.two_pow_pos _
  rw [satN, satUnsigned, lowBits_eq, clampInt_eq _ _ _ (by omega)]

theorem intAdd_eq (n : Nat) (x y : BitVec n) : intAdd n x.toNat y.toNat = (x + y).toNat := by simp [intAdd]

theorem intSub_eq (n : Nat) (x y : BitVec n) : intSub n x.toNat y.toNat = (x - y).toNat := by
  simp only [intSub, BitVec.toNat_sub]; congr 1; omega

theorem toInt_natAbs_lt (n : Nat) (v : BitVec n) : v.toInt.natAbs < 2 ^ n := by
  have h := v.isLt
  simp only [BitVec.toInt]; split <;> omega

theorem toInt_sub_natAbs_lt (n : Nat) (x y : BitVec n) : (x.toInt - y.toInt).natAbs < 2 ^ n := by
  have hx := x.isLt; have hy := y.isLt
  simp only [BitVec.toInt]; split <;> split <;> omega

theorem not_eq (n : Nat) (x : BitVec n) : notN n x.toNat = (~~~x).toNat := by simp [notN, BitVec.toNat_not]

theorem shl_eq (n s : Nat) (x : BitVec n) : shlN n x.toNat s = (x <<< s).toNat := by
  simp only [shlN, BitVec.toNat_shiftLeft, Nat.shiftLeft_eq]
  split
  · rfl
  · rename_i h
    have : 2 ^ n ∣ 2 ^ s := Nat.pow_dvd_pow 2 (Nat.le_of_not_lt h)
    exact (Nat.mod_eq_zero_of_dvd (Nat.dvd_trans this (Nat.dvd_mul_left _ _))).symm

theorem shr_eq (n s : Nat) (x : BitVec n) : shrN n x.toNat s = (x >>> s).toNat := by
  simp only [shrN, BitVec.toNat_ushiftRight, Nat.shiftRight_eq_div_pow]
  split
  · rfl
  · rename_i h
    exact (Nat.div_eq_of_lt (Nat.lt_of_lt_of_le x.isLt (Nat.pow_le_pow_right (by decide) (Nat.le_of_not_lt h)))).symm

end Sys2Proof.Machine
end

