-- ==== Sys2Proof/Laws/Memory.lean ====
section
/-! SUPPORT. Every operation over the module's memories keeps their canonical form. -/
namespace Sys2Proof.Machine

/-! ### Operations over one memory -/

/-- A run stored under R127 keeps the canonical form. -/
theorem putRun_wf (failing : List Nat) (lo n : Nat) {m : Memory} (a : Nat) (bytes : List Byte) (h : m.wf = true) :
    Memory.wf (putRun failing lo n m a bytes) = true := by
  induction bytes generalizing m a with
  | nil => exact h
  | cons v r ih =>
    refine ih _ ?_
    unfold putByte
    split
    · exact h
    · exact cellSet_wf _ _ h

/-- A run stored under R127 leaves every address outside it as it was. -/
theorem cellGet_putRun_outside (failing : List Nat) (lo n : Nat) {m : Memory} (a b : Nat) (bytes : List Byte) (h : m.wf = true)
    (out : b < a ∨ a + bytes.length ≤ b) : cellGet (putRun failing lo n m a bytes) b = cellGet m b := by
  induction bytes generalizing m a with
  | nil => rfl
  | cons v r ih =>
    simp only [List.length_cons] at out
    have byte : Memory.wf (putByte failing lo n m a v) = true ∧ cellGet (putByte failing lo n m a v) b = cellGet m b := by
      unfold putByte
      split
      · exact ⟨h, rfl⟩
      · exact ⟨cellSet_wf _ _ h, by rw [cellGet_cellSet _ _ _ h, if_neg (by omega)]⟩
    rw [putRun, ih (a + 1) byte.1 (by omega), byte.2]

/-- Where no granule fails, a run stored under R127 is stored whole. -/
theorem putRun_of_none_failing (lo n : Nat) (m : Memory) (a : Nat) (bytes : List Byte) :
    putRun [] lo n m a bytes = cellSetList m a bytes := by
  induction bytes generalizing m a with
  | nil => rfl
  | cons v r ih => simpa [putRun, putByte, cellSetList] using ih _ _

theorem clearRegion_wf {m : Memory} (a n : Nat) (h : m.wf = true) : Memory.wf (clearRegion m a n) = true := filter_wf _ h

/-- The runs of a block's area, stored one after another, keep the canonical form. -/
theorem foldl_cellSetList_wf {m : Memory} (a : Nat) (ps : List (Nat × List Byte)) (h : m.wf = true) :
    Memory.wf (ps.foldl (fun m p => cellSetList m (a + p.1) p.2) m) = true := by
  induction ps generalizing m with
  | nil => exact h
  | cons p r ih => exact ih (cellSetList_wf _ _ h)

/-- A region moved to offset 0 is canonical. -/
theorem regionOf_wf {m : Memory} (a n : Nat) (h : m.wf = true) : Memory.wf (regionOf m a n) = true := by
  simp only [Memory.wf, cellsWf, cellsWfFrom_iff] at h ⊢
  have low : ∀ p ∈ m.filter (fun p => decide (a ≤ p.1) && decide (p.1 < a + n)), a ≤ p.1 := fun p hp =>
    (show a ≤ p.1 ∧ p.1 < a + n by simpa using (List.mem_filter.mp hp).2).1
  refine ⟨List.forall_mem_map.mpr fun q hq => ⟨Nat.zero_le _, (h.1 q ((List.mem_filter.mp hq).left)).2⟩, ?_⟩
  rw [regionOf, List.pairwise_map]
  refine (h.2.filter _).imp_of_mem (fun hp hq lt => ?_)
  have := low _ hp
  have := low _ hq
  simp only
  omega

/-! ### Operations over the module -/

/-- Each of the three memories is in its canonical form. -/
def State.CanonicalMemories (s : State) : Prop := s.mem.wf = true ∧ s.hostMem.wf = true ∧ s.peerMem.wf = true

/-- Reset has its memories in canonical form. -/
theorem State.reset_canonicalMemories : State.reset.CanonicalMemories := ⟨rfl, rfl, rfl⟩

/-- A tower changed leaves the memories as they are. -/
@[simp] theorem State.modTower_canonicalMemories (s : State) (t : Nat) (f : Tower → Tower) :
    (s.modTower t f).CanonicalMemories ↔ s.CanonicalMemories := Iff.rfl

theorem State.putEntry_canonicalMemories {s : State} (seq : Word) (words : List Word) (h : s.CanonicalMemories) :
    (s.putEntry seq words).CanonicalMemories := ⟨h.1, cellSetList_wf _ _ h.2.1, h.2.2⟩

theorem State.sendEntry_canonicalMemories {s : State} (words : List Word) (h : s.CanonicalMemories) :
    (s.sendEntry words).CanonicalMemories := by
  have := State.putEntry_canonicalMemories (s.mailbox.d2hseq + 1) words h
  unfold State.sendEntry State.CanonicalMemories
  exact this

theorem State.pumpN_canonicalMemories (n : Nat) {s : State} (h : s.CanonicalMemories) : (State.pumpN n s).CanonicalMemories := by
  induction n generalizing s with
  | zero => exact h
  | succ n ih =>
    rw [State.pumpN]
    split
    · split
      · exact ih (State.sendEntry_canonicalMemories _ h)
      · split
        · exact h
        · exact ih (State.sendEntry_canonicalMemories _ h)
    · exact h

/-- A message to the host keeps the memories canonical. -/
theorem State.post_canonicalMemories {s : State} (words : List Word) (h : s.CanonicalMemories) :
    (s.post words).CanonicalMemories := by
  unfold State.post State.pump
  exact State.pumpN_canonicalMemories _ h

/-- An event in an error log keeps the memories canonical. -/
theorem State.log_canonicalMemories {s : State} (t : Nat) (e : LogEntry) (h : s.CanonicalMemories) :
    (s.log t e).CanonicalMemories := by
  unfold State.log State.pump
  exact State.pumpN_canonicalMemories _ h

/-- A run stored into package memory (R114, R127) keeps the memories canonical, with the events it logs. -/
theorem State.writePkg_canonicalMemories {s : State} (a : Nat) (bytes : List Byte) (h : s.CanonicalMemories) :
    (s.writePkg a bytes).CanonicalMemories := by
  have logs (gs : List Nat) : ∀ {u : State}, u.CanonicalMemories →
      (gs.foldl (fun s g => s.log (32 * g / Config.towerBytes) { kind := 2, addr := 32 * g }) u).CanonicalMemories := by
    induction gs with
    | nil => exact id
    | cons g r ih => exact fun hu => ih (State.log_canonicalMemories _ _ hu)
  unfold State.writePkg
  exact logs _ ⟨putRun_wf _ _ _ _ _ h.1, h.2⟩

/-- A tower that learns of updates leaves the memories as they are. -/
@[simp] theorem State.learn_canonicalMemories (s : State) (t : Nat) (clock : List Nat) :
    (s.learn t clock).CanonicalMemories ↔ s.CanonicalMemories := by
  unfold State.learn
  split <;> exact Iff.rfl

/-- A line's update sent leaves the memories as they are. -/
@[simp] theorem State.sendLine_canonicalMemories (s : State) (w : Option Who) (line : Nat) :
    (s.sendLine w line).CanonicalMemories ↔ s.CanonicalMemories := Iff.rfl

/-- The lines of a run sent out leave the memories as they are. -/
@[simp] theorem State.sendLines_canonicalMemories (s : State) (t : Option Nat) (w : Option Who) (knows carry : List Nat) (a n : Nat) :
    (s.sendLines t w knows carry a n).CanonicalMemories ↔ s.CanonicalMemories := by
  unfold State.sendLines
  induction linesOf a n generalizing s with
  | nil => exact Iff.rfl
  | cons line r ih =>
    rw [List.foldl_cons, ih]
    cases t <;> simp only [State.modTower_canonicalMemories, State.sendLine_canonicalMemories, State.learn_canonicalMemories]

/-- What a write is about to replace, noted, leaves the memories as they are. -/
@[simp] theorem State.noteWrite_canonicalMemories (s : State) (l : Loc) (n : Nat) :
    (s.noteWrite l n).CanonicalMemories ↔ s.CanonicalMemories := by
  unfold State.noteWrite
  split <;> exact Iff.rfl

/-- A run stored at its home, in the package, at a peer or at the host, keeps the memories canonical. -/
theorem State.writeHome_canonicalMemories {s : State} (l : Loc) (bytes : List Byte) (h : s.CanonicalMemories) :
    (s.writeHome l bytes).CanonicalMemories := by
  have h1 := (State.noteWrite_canonicalMemories s l bytes.length).mpr h
  unfold State.writeHome
  cases l with
  | pkg a => exact State.writePkg_canonicalMemories a bytes h1
  | peer m a => exact ⟨h1.1, h1.2.1, cellSetList_wf _ _ h1.2.2⟩
  | host a => exact ⟨h1.1, cellSetList_wf _ _ h1.2.1, h1.2.2⟩

/-- A run written by an agent that is no unit of a tower keeps the memories canonical. -/
theorem State.writeLoc_canonicalMemories {s : State} (l : Loc) (bytes : List Byte) (h : s.CanonicalMemories) :
    (s.writeLoc l bytes).CanonicalMemories := by
  have h1 := State.writeHome_canonicalMemories l bytes h
  unfold State.writeLoc
  split
  · cases l <;> first | exact (State.sendLines_canonicalMemories ..).mpr h1 | exact h1
  · exact h1

/-- A run written by a tower keeps the memories canonical. -/
theorem State.towerWrite_canonicalMemories {s : State} (t : Nat) (w : Option Who) (m : MemOrder) (l : Loc) (bytes : List Byte)
    (h : s.CanonicalMemories) : (s.towerWrite t w m l bytes).CanonicalMemories := by
  have h1 := State.writeHome_canonicalMemories l bytes h
  unfold State.towerWrite
  split
  · cases l <;> first | exact (State.sendLines_canonicalMemories ..).mpr h1 | exact h1
  · exact h1

/-- A block's area written whole (R313, R315) keeps the memories canonical. -/
theorem State.writeArea_canonicalMemories {s : State} (a : Nat) (b : Block) (ret : Option Nat) (h : s.CanonicalMemories) :
    (s.writeArea a b ret).CanonicalMemories := by
  have area := foldl_cellSetList_wf a (b.puts ret) (clearRegion_wf a b.cfg.areaSize h.1)
  unfold State.writeArea State.CanonicalMemories
  generalize b.puts ret = runs at *
  exact ⟨area, h.2⟩

end Sys2Proof.Machine
end

