-- ==== Sys2Proof/Laws/PerInstr.lean ====
section
/-! SUPPORT. The Encoding family: what holds of the word of every instruction, as syntax: it is 32 bits long, and its major
opcode is one that R64 gives to instruction words (0x01 to 0xEF), so no instruction word is a prefix word (R61). -/
namespace Sys2Proof.Laws.Encoding

/-- The word of an instruction, if it has one, is 32 bits, and its major opcode lies in 0x01 to 0xEF. -/
def Statement (i : Instr) : Prop := ∀ w, encode i = some w → w < 2 ^ 32 ∧ 1 ≤ opOf w ∧ opOf w < 0xF0

theorem src_lt (a : Src) : srcCode a < 128 := by cases a <;> simp only [srcCode] <;> omega
theorem dst_lt (a : Dst) : dstCode a < 128 := by cases a <;> simp only [dstCode] <;> omega
theorem bool_lt (a : Bool) : boolCode a < 2 := by cases a <;> decide
theorem rejoin_lt (a : Option JNo) : rejoinCode a < 16 := by cases a <;> simp only [rejoinCode] <;> omega
theorem width_lt (a : Width) : widthCode a < 4 := by cases a <;> decide
theorem fmt_lt (a : FFmt) : fmtCode a < 2 := by cases a <;> decide
theorem asem_lt (a : ASem) : asemCode a < 4 := by cases a <;> decide
theorem scope_lt (a : Scope) : scopeCode a < 6 := by cases a <;> decide
theorem sem_lt (a : Sem) : semCode a < 4 := by cases a <;> decide
theorem cond_lt (a : Cond) : condCode a < 6 := by cases a <;> decide
theorem cvt_lt (a : CvtFmt) : cvtCode a < 12 := by cases a <;> decide
theorem rmode_lt (a : RMode) : rmodeCode a < 4 := by cases a <;> decide
theorem cls_lt (a : Cls) : clsCode a < 4 := by cases a <;> decide
theorem ofmt_lt (a : Ofmt) : ofmtCode a < 4 := by cases a <;> decide

theorem packR_ok (i : Instr) (op fn d a b : Nat) (h : encode i = some (packR op fn d a b)) (h1 : 1 ≤ op ∧ op < 0xF0)
    (hf : fn < 8) (hd : d < 128) (ha : a < 128) (hb : b < 128) : Statement i := by
  intro w hw; rw [h] at hw; cases hw; simp only [packR, opOf]; omega
theorem packI_ok (i : Instr) (op fn d a m : Nat) (h : encode i = some (packI op fn d a m)) (h1 : 1 ≤ op ∧ op < 0xF0)
    (hf : fn < 4) (hd : d < 128) (ha : a < 128) (hm : m < 256) : Statement i := by
  intro w hw; rw [h] at hw; cases hw; simp only [packI, opOf]; omega
theorem packB_ok (i : Instr) (op m v j p : Nat) (h : encode i = some (packB op m v j p)) (h1 : 1 ≤ op ∧ op < 0xF0)
    (hm : m < 8) (hv : v < 2) (hj : j < 16) (hp : p < 65536) : Statement i := by
  intro w hw; rw [h] at hw; cases hw; simp only [packB, opOf]; omega
theorem packL_ok (i : Instr) (fn c p : Nat) (h : encode i = some (packL fn c p)) (hf : fn < 4) (hc : c < 128) (hp : p < 32768) :
    Statement i := by
  intro w hw; rw [h] at hw; cases hw; simp only [packL, opOf]; omega
theorem none_ok (i : Instr) (h : encode i = none) : Statement i := by intro w hw; rw [h] at hw; cases hw

theorem br (m : MaskNo) (inv : Bool) (rejoin : Option JNo) (disp : BitVec 16) : Statement (.br m inv rejoin disp) :=
  packB_ok _ _ _ _ _ _ rfl (by omega) (by omega) (Nat.lt_of_lt_of_le (bool_lt inv) (by decide)) (Nat.lt_of_lt_of_le (rejoin_lt rejoin) (by decide)) (by omega)
theorem jmp (rejoin : Option JNo) (disp : BitVec 16) : Statement (.jmp rejoin disp) :=
  packB_ok _ _ _ _ _ _ rfl (by omega) (by omega) (by omega) (Nat.lt_of_lt_of_le (rejoin_lt rejoin) (by decide)) (by omega)
theorem call (rejoin : Option JNo) (disp : BitVec 16) : Statement (.call rejoin disp) :=
  packB_ok _ _ _ _ _ _ rfl (by omega) (by omega) (by omega) (Nat.lt_of_lt_of_le (rejoin_lt rejoin) (by decide)) (by omega)
theorem jr (a : Src) : Statement (.jr a) :=
  packR_ok _ _ _ _ _ _ rfl (by omega) (by omega) (by omega) (Nat.lt_of_lt_of_le (src_lt a) (by decide)) (by omega)
theorem calr (a : Src) : Statement (.calr a) :=
  packR_ok _ _ _ _ _ _ rfl (by omega) (by omega) (by omega) (Nat.lt_of_lt_of_le (src_lt a) (by decide)) (by omega)
theorem ret : Statement .ret :=
  packR_ok _ _ _ _ _ _ rfl (by omega) (by omega) (by omega) (by omega) (by omega)
theorem exit : Statement .exit :=
  packR_ok _ _ _ _ _ _ rfl (by omega) (by omega) (by omega) (by omega) (by omega)
theorem nop : Statement .nop :=
  packR_ok _ _ _ _ _ _ rfl (by omega) (by omega) (by omega) (by omega) (by omega)
theorem yield : Statement .yield :=
  packR_ok _ _ _ _ _ _ rfl (by omega) (by omega) (by omega) (by omega) (by omega)
theorem trap (i : BitVec 8) : Statement (.trap i) :=
  packI_ok _ _ _ _ _ _ rfl (by omega) (by omega) (by omega) (by omega) (by omega)
theorem brk (i : BitVec 8) : Statement (.brk i) :=
  packI_ok _ _ _ _ _ _ rfl (by omega) (by omega) (by omega) (by omega) (by omega)
theorem loopt (c : Dst) (disp : BitVec 15) : Statement (.loopt c disp) :=
  packL_ok _ _ _ _ rfl (by omega) (Nat.lt_of_lt_of_le (dst_lt c) (by decide)) (by omega)
theorem looptB (c : Src) (disp : BitVec 15) : Statement (.looptB c disp) :=
  packL_ok _ _ _ _ rfl (by omega) (Nat.lt_of_lt_of_le (src_lt c) (by decide)) (by omega)
theorem split (n : JNo) : Statement (.split n) :=
  packR_ok _ _ _ _ _ _ rfl (by omega) (by omega) (by omega) (by omega) (by omega)
theorem join (n : JNo) : Statement (.join n) :=
  packR_ok _ _ _ _ _ _ rfl (by omega) (by omega) (by omega) (by omega) (by omega)
theorem waitj (n : JNo) : Statement (.waitj n) :=
  packR_ok _ _ _ _ _ _ rfl (by omega) (by omega) (by omega) (by omega) (by omega)
theorem jget (d : Dst) (n : JNo) : Statement (.jget d n) :=
  packR_ok _ _ _ _ _ _ rfl (by omega) (by omega) (Nat.lt_of_lt_of_le (dst_lt d) (by decide)) (by omega) (by omega)
theorem jset (n : JNo) (a : Src) : Statement (.jset n a) :=
  packR_ok _ _ _ _ _ _ rfl (by omega) (by omega) (by omega) (Nat.lt_of_lt_of_le (src_lt a) (by decide)) (by omega)
theorem add (w : Width) (d : Dst) (a : Src) (b : Src) : Statement (.add w d a b) :=
  packR_ok _ _ _ _ _ _ rfl (by have := width_lt w; omega) (by omega) (Nat.lt_of_lt_of_le (dst_lt d) (by decide)) (Nat.lt_of_lt_of_le (src_lt a) (by decide)) (Nat.lt_of_lt_of_le (src_lt b) (by decide))
theorem sub (w : Width) (d : Dst) (a : Src) (b : Src) : Statement (.sub w d a b) :=
  packR_ok _ _ _ _ _ _ rfl (by have := width_lt w; omega) (by omega) (Nat.lt_of_lt_of_le (dst_lt d) (by decide)) (Nat.lt_of_lt_of_le (src_lt a) (by decide)) (Nat.lt_of_lt_of_le (src_lt b) (by decide))
theorem addsI (w : Width) (d : Dst) (a : Src) (b : Src) : Statement (.addsI w d a b) :=
  packR_ok _ _ _ _ _ _ rfl (by have := width_lt w; omega) (by omega) (Nat.lt_of_lt_of_le (dst_lt d) (by decide)) (Nat.lt_of_lt_of_le (src_lt a) (by decide)) (Nat.lt_of_lt_of_le (src_lt b) (by decide))
theorem addsN (w : Width) (d : Dst) (a : Src) (b : Src) : Statement (.addsN w d a b) :=
  packR_ok _ _ _ _ _ _ rfl (by have := width_lt w; omega) (by omega) (Nat.lt_of_lt_of_le (dst_lt d) (by decide)) (Nat.lt_of_lt_of_le (src_lt a) (by decide)) (Nat.lt_of_lt_of_le (src_lt b) (by decide))
theorem subsI (w : Width) (d : Dst) (a : Src) (b : Src) : Statement (.subsI w d a b) :=
  packR_ok _ _ _ _ _ _ rfl (by have := width_lt w; omega) (by omega) (Nat.lt_of_lt_of_le (dst_lt d) (by decide)) (Nat.lt_of_lt_of_le (src_lt a) (by decide)) (Nat.lt_of_lt_of_le (src_lt b) (by decide))
theorem subsN (w : Width) (d : Dst) (a : Src) (b : Src) : Statement (.subsN w d a b) :=
  packR_ok _ _ _ _ _ _ rfl (by have := width_lt w; omega) (by omega) (Nat.lt_of_lt_of_le (dst_lt d) (by decide)) (Nat.lt_of_lt_of_le (src_lt a) (by decide)) (Nat.lt_of_lt_of_le (src_lt b) (by decide))
theorem absdI (w : Width) (d : Dst) (a : Src) (b : Src) : Statement (.absdI w d a b) :=
  packR_ok _ _ _ _ _ _ rfl (by have := width_lt w; omega) (by omega) (Nat.lt_of_lt_of_le (dst_lt d) (by decide)) (Nat.lt_of_lt_of_le (src_lt a) (by decide)) (Nat.lt_of_lt_of_le (src_lt b) (by decide))
theorem absdN (w : Width) (d : Dst) (a : Src) (b : Src) : Statement (.absdN w d a b) :=
  packR_ok _ _ _ _ _ _ rfl (by have := width_lt w; omega) (by omega) (Nat.lt_of_lt_of_le (dst_lt d) (by decide)) (Nat.lt_of_lt_of_le (src_lt a) (by decide)) (Nat.lt_of_lt_of_le (src_lt b) (by decide))
theorem mul (w : Width) (d : Dst) (a : Src) (b : Src) : Statement (.mul w d a b) :=
  packR_ok _ _ _ _ _ _ rfl (by have := width_lt w; omega) (by omega) (Nat.lt_of_lt_of_le (dst_lt d) (by decide)) (Nat.lt_of_lt_of_le (src_lt a) (by decide)) (Nat.lt_of_lt_of_le (src_lt b) (by decide))
theorem mulhI (w : Width) (d : Dst) (a : Src) (b : Src) : Statement (.mulhI w d a b) :=
  packR_ok _ _ _ _ _ _ rfl (by have := width_lt w; omega) (by omega) (Nat.lt_of_lt_of_le (dst_lt d) (by decide)) (Nat.lt_of_lt_of_le (src_lt a) (by decide)) (Nat.lt_of_lt_of_le (src_lt b) (by decide))
theorem mulhN (w : Width) (d : Dst) (a : Src) (b : Src) : Statement (.mulhN w d a b) :=
  packR_ok _ _ _ _ _ _ rfl (by have := width_lt w; omega) (by omega) (Nat.lt_of_lt_of_le (dst_lt d) (by decide)) (Nat.lt_of_lt_of_le (src_lt a) (by decide)) (Nat.lt_of_lt_of_le (src_lt b) (by decide))
theorem mulsI (w : Width) (d : Dst) (a : Src) (b : Src) : Statement (.mulsI w d a b) :=
  packR_ok _ _ _ _ _ _ rfl (by have := width_lt w; omega) (by omega) (Nat.lt_of_lt_of_le (dst_lt d) (by decide)) (Nat.lt_of_lt_of_le (src_lt a) (by decide)) (Nat.lt_of_lt_of_le (src_lt b) (by decide))
theorem mad (w : Width) (d : Dst) (a : Src) (b : Src) : Statement (.mad w d a b) :=
  packR_ok _ _ _ _ _ _ rfl (by have := width_lt w; omega) (by omega) (Nat.lt_of_lt_of_le (dst_lt d) (by decide)) (Nat.lt_of_lt_of_le (src_lt a) (by decide)) (Nat.lt_of_lt_of_le (src_lt b) (by decide))
theorem mulsN (w : Width) (d : Dst) (a : Src) (b : Src) : Statement (.mulsN w d a b) :=
  packR_ok _ _ _ _ _ _ rfl (by have := width_lt w; omega) (by omega) (Nat.lt_of_lt_of_le (dst_lt d) (by decide)) (Nat.lt_of_lt_of_le (src_lt a) (by decide)) (Nat.lt_of_lt_of_le (src_lt b) (by decide))
theorem minI (w : Width) (d : Dst) (a : Src) (b : Src) : Statement (.minI w d a b) :=
  packR_ok _ _ _ _ _ _ rfl (by have := width_lt w; omega) (by omega) (Nat.lt_of_lt_of_le (dst_lt d) (by decide)) (Nat.lt_of_lt_of_le (src_lt a) (by decide)) (Nat.lt_of_lt_of_le (src_lt b) (by decide))
theorem minN (w : Width) (d : Dst) (a : Src) (b : Src) : Statement (.minN w d a b) :=
  packR_ok _ _ _ _ _ _ rfl (by have := width_lt w; omega) (by omega) (Nat.lt_of_lt_of_le (dst_lt d) (by decide)) (Nat.lt_of_lt_of_le (src_lt a) (by decide)) (Nat.lt_of_lt_of_le (src_lt b) (by decide))
theorem maxI (w : Width) (d : Dst) (a : Src) (b : Src) : Statement (.maxI w d a b) :=
  packR_ok _ _ _ _ _ _ rfl (by have := width_lt w; omega) (by omega) (Nat.lt_of_lt_of_le (dst_lt d) (by decide)) (Nat.lt_of_lt_of_le (src_lt a) (by decide)) (Nat.lt_of_lt_of_le (src_lt b) (by decide))
theorem maxN (w : Width) (d : Dst) (a : Src) (b : Src) : Statement (.maxN w d a b) :=
  packR_ok _ _ _ _ _ _ rfl (by have := width_lt w; omega) (by omega) (Nat.lt_of_lt_of_le (dst_lt d) (by decide)) (Nat.lt_of_lt_of_le (src_lt a) (by decide)) (Nat.lt_of_lt_of_le (src_lt b) (by decide))
theorem absI (w : Width) (d : Dst) (a : Src) : Statement (.absI w d a) :=
  packR_ok _ _ _ _ _ _ rfl (by have := width_lt w; omega) (by omega) (Nat.lt_of_lt_of_le (dst_lt d) (by decide)) (Nat.lt_of_lt_of_le (src_lt a) (by decide)) (by omega)
theorem abss (w : Width) (d : Dst) (a : Src) : Statement (.abss w d a) :=
  packR_ok _ _ _ _ _ _ rfl (by have := width_lt w; omega) (by omega) (Nat.lt_of_lt_of_le (dst_lt d) (by decide)) (Nat.lt_of_lt_of_le (src_lt a) (by decide)) (by omega)
theorem neg (w : Width) (d : Dst) (a : Src) : Statement (.neg w d a) :=
  packR_ok _ _ _ _ _ _ rfl (by have := width_lt w; omega) (by omega) (Nat.lt_of_lt_of_le (dst_lt d) (by decide)) (Nat.lt_of_lt_of_le (src_lt a) (by decide)) (by omega)
theorem negs (w : Width) (d : Dst) (a : Src) : Statement (.negs w d a) :=
  packR_ok _ _ _ _ _ _ rfl (by have := width_lt w; omega) (by omega) (Nat.lt_of_lt_of_le (dst_lt d) (by decide)) (Nat.lt_of_lt_of_le (src_lt a) (by decide)) (by omega)
theorem divI (w : Width) (d : Dst) (a : Src) (b : Src) : Statement (.divI w d a b) :=
  packR_ok _ _ _ _ _ _ rfl (by have := width_lt w; omega) (by omega) (Nat.lt_of_lt_of_le (dst_lt d) (by decide)) (Nat.lt_of_lt_of_le (src_lt a) (by decide)) (Nat.lt_of_lt_of_le (src_lt b) (by decide))
theorem divN (w : Width) (d : Dst) (a : Src) (b : Src) : Statement (.divN w d a b) :=
  packR_ok _ _ _ _ _ _ rfl (by have := width_lt w; omega) (by omega) (Nat.lt_of_lt_of_le (dst_lt d) (by decide)) (Nat.lt_of_lt_of_le (src_lt a) (by decide)) (Nat.lt_of_lt_of_le (src_lt b) (by decide))
theorem remI (w : Width) (d : Dst) (a : Src) (b : Src) : Statement (.remI w d a b) :=
  packR_ok _ _ _ _ _ _ rfl (by have := width_lt w; omega) (by omega) (Nat.lt_of_lt_of_le (dst_lt d) (by decide)) (Nat.lt_of_lt_of_le (src_lt a) (by decide)) (Nat.lt_of_lt_of_le (src_lt b) (by decide))
theorem remN (w : Width) (d : Dst) (a : Src) (b : Src) : Statement (.remN w d a b) :=
  packR_ok _ _ _ _ _ _ rfl (by have := width_lt w; omega) (by omega) (Nat.lt_of_lt_of_le (dst_lt d) (by decide)) (Nat.lt_of_lt_of_le (src_lt a) (by decide)) (Nat.lt_of_lt_of_le (src_lt b) (by decide))
theorem and (w : Width) (d : Dst) (a : Src) (b : Src) : Statement (.and w d a b) :=
  packR_ok _ _ _ _ _ _ rfl (by have := width_lt w; omega) (by omega) (Nat.lt_of_lt_of_le (dst_lt d) (by decide)) (Nat.lt_of_lt_of_le (src_lt a) (by decide)) (Nat.lt_of_lt_of_le (src_lt b) (by decide))
theorem or (w : Width) (d : Dst) (a : Src) (b : Src) : Statement (.or w d a b) :=
  packR_ok _ _ _ _ _ _ rfl (by have := width_lt w; omega) (by omega) (Nat.lt_of_lt_of_le (dst_lt d) (by decide)) (Nat.lt_of_lt_of_le (src_lt a) (by decide)) (Nat.lt_of_lt_of_le (src_lt b) (by decide))
theorem xor (w : Width) (d : Dst) (a : Src) (b : Src) : Statement (.xor w d a b) :=
  packR_ok _ _ _ _ _ _ rfl (by have := width_lt w; omega) (by omega) (Nat.lt_of_lt_of_le (dst_lt d) (by decide)) (Nat.lt_of_lt_of_le (src_lt a) (by decide)) (Nat.lt_of_lt_of_le (src_lt b) (by decide))
theorem andn (w : Width) (d : Dst) (a : Src) (b : Src) : Statement (.andn w d a b) :=
  packR_ok _ _ _ _ _ _ rfl (by have := width_lt w; omega) (by omega) (Nat.lt_of_lt_of_le (dst_lt d) (by decide)) (Nat.lt_of_lt_of_le (src_lt a) (by decide)) (Nat.lt_of_lt_of_le (src_lt b) (by decide))
theorem orn (w : Width) (d : Dst) (a : Src) (b : Src) : Statement (.orn w d a b) :=
  packR_ok _ _ _ _ _ _ rfl (by have := width_lt w; omega) (by omega) (Nat.lt_of_lt_of_le (dst_lt d) (by decide)) (Nat.lt_of_lt_of_le (src_lt a) (by decide)) (Nat.lt_of_lt_of_le (src_lt b) (by decide))
theorem xnor (w : Width) (d : Dst) (a : Src) (b : Src) : Statement (.xnor w d a b) :=
  packR_ok _ _ _ _ _ _ rfl (by have := width_lt w; omega) (by omega) (Nat.lt_of_lt_of_le (dst_lt d) (by decide)) (Nat.lt_of_lt_of_le (src_lt a) (by decide)) (Nat.lt_of_lt_of_le (src_lt b) (by decide))
theorem not (w : Width) (d : Dst) (a : Src) : Statement (.not w d a) :=
  packR_ok _ _ _ _ _ _ rfl (by have := width_lt w; omega) (by omega) (Nat.lt_of_lt_of_le (dst_lt d) (by decide)) (Nat.lt_of_lt_of_le (src_lt a) (by decide)) (by omega)
theorem bsel (w : Width) (d : Dst) (a : Src) (b : Src) : Statement (.bsel w d a b) :=
  packR_ok _ _ _ _ _ _ rfl (by have := width_lt w; omega) (by omega) (Nat.lt_of_lt_of_le (dst_lt d) (by decide)) (Nat.lt_of_lt_of_le (src_lt a) (by decide)) (Nat.lt_of_lt_of_le (src_lt b) (by decide))
theorem shl (w : Width) (d : Dst) (a : Src) (b : Src) : Statement (.shl w d a b) :=
  packR_ok _ _ _ _ _ _ rfl (by have := width_lt w; omega) (by omega) (Nat.lt_of_lt_of_le (dst_lt d) (by decide)) (Nat.lt_of_lt_of_le (src_lt a) (by decide)) (Nat.lt_of_lt_of_le (src_lt b) (by decide))
theorem shrN (w : Width) (d : Dst) (a : Src) (b : Src) : Statement (.shrN w d a b) :=
  packR_ok _ _ _ _ _ _ rfl (by have := width_lt w; omega) (by omega) (Nat.lt_of_lt_of_le (dst_lt d) (by decide)) (Nat.lt_of_lt_of_le (src_lt a) (by decide)) (Nat.lt_of_lt_of_le (src_lt b) (by decide))
theorem shrI (w : Width) (d : Dst) (a : Src) (b : Src) : Statement (.shrI w d a b) :=
  packR_ok _ _ _ _ _ _ rfl (by have := width_lt w; omega) (by omega) (Nat.lt_of_lt_of_le (dst_lt d) (by decide)) (Nat.lt_of_lt_of_le (src_lt a) (by decide)) (Nat.lt_of_lt_of_le (src_lt b) (by decide))
theorem rol (w : Width) (d : Dst) (a : Src) (b : Src) : Statement (.rol w d a b) :=
  packR_ok _ _ _ _ _ _ rfl (by have := width_lt w; omega) (by omega) (Nat.lt_of_lt_of_le (dst_lt d) (by decide)) (Nat.lt_of_lt_of_le (src_lt a) (by decide)) (Nat.lt_of_lt_of_le (src_lt b) (by decide))
theorem ror (w : Width) (d : Dst) (a : Src) (b : Src) : Statement (.ror w d a b) :=
  packR_ok _ _ _ _ _ _ rfl (by have := width_lt w; omega) (by omega) (Nat.lt_of_lt_of_le (dst_lt d) (by decide)) (Nat.lt_of_lt_of_le (src_lt a) (by decide)) (Nat.lt_of_lt_of_le (src_lt b) (by decide))
theorem shli (w : Width) (d : Dst) (a : Src) (i : BitVec 8) : Statement (.shli w d a i) :=
  packI_ok _ _ _ _ _ _ rfl (by have := width_lt w; omega) (by omega) (Nat.lt_of_lt_of_le (dst_lt d) (by decide)) (Nat.lt_of_lt_of_le (src_lt a) (by decide)) (by omega)
theorem shriN (w : Width) (d : Dst) (a : Src) (i : BitVec 8) : Statement (.shriN w d a i) :=
  packI_ok _ _ _ _ _ _ rfl (by have := width_lt w; omega) (by omega) (Nat.lt_of_lt_of_le (dst_lt d) (by decide)) (Nat.lt_of_lt_of_le (src_lt a) (by decide)) (by omega)
theorem shriI (w : Width) (d : Dst) (a : Src) (i : BitVec 8) : Statement (.shriI w d a i) :=
  packI_ok _ _ _ _ _ _ rfl (by have := width_lt w; omega) (by omega) (Nat.lt_of_lt_of_le (dst_lt d) (by decide)) (Nat.lt_of_lt_of_le (src_lt a) (by decide)) (by omega)
theorem rori (w : Width) (d : Dst) (a : Src) (i : BitVec 8) : Statement (.rori w d a i) :=
  packI_ok _ _ _ _ _ _ rfl (by have := width_lt w; omega) (by omega) (Nat.lt_of_lt_of_le (dst_lt d) (by decide)) (Nat.lt_of_lt_of_le (src_lt a) (by decide)) (by omega)
theorem popc (w : Width) (d : Dst) (a : Src) : Statement (.popc w d a) :=
  packR_ok _ _ _ _ _ _ rfl (by have := width_lt w; omega) (by omega) (Nat.lt_of_lt_of_le (dst_lt d) (by decide)) (Nat.lt_of_lt_of_le (src_lt a) (by decide)) (by omega)
theorem clz (w : Width) (d : Dst) (a : Src) : Statement (.clz w d a) :=
  packR_ok _ _ _ _ _ _ rfl (by have := width_lt w; omega) (by omega) (Nat.lt_of_lt_of_le (dst_lt d) (by decide)) (Nat.lt_of_lt_of_le (src_lt a) (by decide)) (by omega)
theorem ctz (w : Width) (d : Dst) (a : Src) : Statement (.ctz w d a) :=
  packR_ok _ _ _ _ _ _ rfl (by have := width_lt w; omega) (by omega) (Nat.lt_of_lt_of_le (dst_lt d) (by decide)) (Nat.lt_of_lt_of_le (src_lt a) (by decide)) (by omega)
theorem brev (w : Width) (d : Dst) (a : Src) : Statement (.brev w d a) :=
  packR_ok _ _ _ _ _ _ rfl (by have := width_lt w; omega) (by omega) (Nat.lt_of_lt_of_le (dst_lt d) (by decide)) (Nat.lt_of_lt_of_le (src_lt a) (by decide)) (by omega)
theorem bfxN (w : Width) (d : Dst) (a : Src) (b : Src) : Statement (.bfxN w d a b) :=
  packR_ok _ _ _ _ _ _ rfl (by have := width_lt w; omega) (by omega) (Nat.lt_of_lt_of_le (dst_lt d) (by decide)) (Nat.lt_of_lt_of_le (src_lt a) (by decide)) (Nat.lt_of_lt_of_le (src_lt b) (by decide))
theorem bfxI (w : Width) (d : Dst) (a : Src) (b : Src) : Statement (.bfxI w d a b) :=
  packR_ok _ _ _ _ _ _ rfl (by have := width_lt w; omega) (by omega) (Nat.lt_of_lt_of_le (dst_lt d) (by decide)) (Nat.lt_of_lt_of_le (src_lt a) (by decide)) (Nat.lt_of_lt_of_le (src_lt b) (by decide))
theorem bfi (w : Width) (d : Dst) (a : Src) (b : Src) : Statement (.bfi w d a b) :=
  packR_ok _ _ _ _ _ _ rfl (by have := width_lt w; omega) (by omega) (Nat.lt_of_lt_of_le (dst_lt d) (by decide)) (Nat.lt_of_lt_of_le (src_lt a) (by decide)) (Nat.lt_of_lt_of_le (src_lt b) (by decide))
theorem ceq (w : Width) (d : MaskNo) (a : Src) (b : Src) : Statement (.ceq w d a b) :=
  packR_ok _ _ _ _ _ _ rfl (by have := width_lt w; omega) (by omega) (by omega) (Nat.lt_of_lt_of_le (src_lt a) (by decide)) (Nat.lt_of_lt_of_le (src_lt b) (by decide))
theorem cne (w : Width) (d : MaskNo) (a : Src) (b : Src) : Statement (.cne w d a b) :=
  packR_ok _ _ _ _ _ _ rfl (by have := width_lt w; omega) (by omega) (by omega) (Nat.lt_of_lt_of_le (src_lt a) (by decide)) (Nat.lt_of_lt_of_le (src_lt b) (by decide))
theorem cltI (w : Width) (d : MaskNo) (a : Src) (b : Src) : Statement (.cltI w d a b) :=
  packR_ok _ _ _ _ _ _ rfl (by have := width_lt w; omega) (by omega) (by omega) (Nat.lt_of_lt_of_le (src_lt a) (by decide)) (Nat.lt_of_lt_of_le (src_lt b) (by decide))
theorem cgeI (w : Width) (d : MaskNo) (a : Src) (b : Src) : Statement (.cgeI w d a b) :=
  packR_ok _ _ _ _ _ _ rfl (by have := width_lt w; omega) (by omega) (by omega) (Nat.lt_of_lt_of_le (src_lt a) (by decide)) (Nat.lt_of_lt_of_le (src_lt b) (by decide))
theorem cltN (w : Width) (d : MaskNo) (a : Src) (b : Src) : Statement (.cltN w d a b) :=
  packR_ok _ _ _ _ _ _ rfl (by have := width_lt w; omega) (by omega) (by omega) (Nat.lt_of_lt_of_le (src_lt a) (by decide)) (Nat.lt_of_lt_of_le (src_lt b) (by decide))
theorem cgeN (w : Width) (d : MaskNo) (a : Src) (b : Src) : Statement (.cgeN w d a b) :=
  packR_ok _ _ _ _ _ _ rfl (by have := width_lt w; omega) (by omega) (by omega) (Nat.lt_of_lt_of_le (src_lt a) (by decide)) (Nat.lt_of_lt_of_le (src_lt b) (by decide))
theorem ctst (w : Width) (d : MaskNo) (a : Src) (b : Src) : Statement (.ctst w d a b) :=
  packR_ok _ _ _ _ _ _ rfl (by have := width_lt w; omega) (by omega) (by omega) (Nat.lt_of_lt_of_le (src_lt a) (by decide)) (Nat.lt_of_lt_of_le (src_lt b) (by decide))
theorem sel (w : Width) (m : MaskNo) (d : Dst) (a : Src) (b : Src) : Statement (.sel w m d a b) :=
  packR_ok _ _ _ _ _ _ rfl (by have := width_lt w; omega) (by omega) (Nat.lt_of_lt_of_le (dst_lt d) (by decide)) (Nat.lt_of_lt_of_le (src_lt a) (by decide)) (Nat.lt_of_lt_of_le (src_lt b) (by decide))
theorem addi (w : Width) (d : Dst) (a : Src) (i : BitVec 8) : Statement (.addi w d a i) :=
  packI_ok _ _ _ _ _ _ rfl (by have := width_lt w; omega) (by omega) (Nat.lt_of_lt_of_le (dst_lt d) (by decide)) (Nat.lt_of_lt_of_le (src_lt a) (by decide)) (by omega)
theorem andi (w : Width) (d : Dst) (a : Src) (i : BitVec 8) : Statement (.andi w d a i) :=
  packI_ok _ _ _ _ _ _ rfl (by have := width_lt w; omega) (by omega) (Nat.lt_of_lt_of_le (dst_lt d) (by decide)) (Nat.lt_of_lt_of_le (src_lt a) (by decide)) (by omega)
theorem ori (w : Width) (d : Dst) (a : Src) (i : BitVec 8) : Statement (.ori w d a i) :=
  packI_ok _ _ _ _ _ _ rfl (by have := width_lt w; omega) (by omega) (Nat.lt_of_lt_of_le (dst_lt d) (by decide)) (Nat.lt_of_lt_of_le (src_lt a) (by decide)) (by omega)
theorem movi (w : Width) (d : Dst) (i : BitVec 8) : Statement (.movi w d i) :=
  packI_ok _ _ _ _ _ _ rfl (by have := width_lt w; omega) (by omega) (Nat.lt_of_lt_of_le (dst_lt d) (by decide)) (by omega) (by omega)
theorem lea (s : Fin 4) (d : Dst) (a : Src) (b : Src) : Statement (.lea s d a b) :=
  packR_ok _ _ _ _ _ _ rfl (by omega) (by omega) (Nat.lt_of_lt_of_le (dst_lt d) (by decide)) (Nat.lt_of_lt_of_le (src_lt a) (by decide)) (Nat.lt_of_lt_of_le (src_lt b) (by decide))
theorem leai (s : Fin 4) (d : Dst) (a : Src) (i : BitVec 8) : Statement (.leai s d a i) :=
  packI_ok _ _ _ _ _ _ rfl (by omega) (by omega) (Nat.lt_of_lt_of_le (dst_lt d) (by decide)) (Nat.lt_of_lt_of_le (src_lt a) (by decide)) (by omega)
theorem mov (d : Dst) (a : Src) : Statement (.mov d a) :=
  packR_ok _ _ _ _ _ _ rfl (by omega) (by omega) (Nat.lt_of_lt_of_le (dst_lt d) (by decide)) (Nat.lt_of_lt_of_le (src_lt a) (by decide)) (by omega)
theorem addF (t : FFmt) (d : Dst) (a : Src) (b : Src) : Statement (.addF t d a b) :=
  packR_ok _ _ _ _ _ _ rfl (by have := fmt_lt t; omega) (by omega) (Nat.lt_of_lt_of_le (dst_lt d) (by decide)) (Nat.lt_of_lt_of_le (src_lt a) (by decide)) (Nat.lt_of_lt_of_le (src_lt b) (by decide))
theorem subF (t : FFmt) (d : Dst) (a : Src) (b : Src) : Statement (.subF t d a b) :=
  packR_ok _ _ _ _ _ _ rfl (by have := fmt_lt t; omega) (by omega) (Nat.lt_of_lt_of_le (dst_lt d) (by decide)) (Nat.lt_of_lt_of_le (src_lt a) (by decide)) (Nat.lt_of_lt_of_le (src_lt b) (by decide))
theorem mulF (t : FFmt) (d : Dst) (a : Src) (b : Src) : Statement (.mulF t d a b) :=
  packR_ok _ _ _ _ _ _ rfl (by have := fmt_lt t; omega) (by omega) (Nat.lt_of_lt_of_le (dst_lt d) (by decide)) (Nat.lt_of_lt_of_le (src_lt a) (by decide)) (Nat.lt_of_lt_of_le (src_lt b) (by decide))
theorem minF (t : FFmt) (d : Dst) (a : Src) (b : Src) : Statement (.minF t d a b) :=
  packR_ok _ _ _ _ _ _ rfl (by have := fmt_lt t; omega) (by omega) (Nat.lt_of_lt_of_le (dst_lt d) (by decide)) (Nat.lt_of_lt_of_le (src_lt a) (by decide)) (Nat.lt_of_lt_of_le (src_lt b) (by decide))
theorem maxF (t : FFmt) (d : Dst) (a : Src) (b : Src) : Statement (.maxF t d a b) :=
  packR_ok _ _ _ _ _ _ rfl (by have := fmt_lt t; omega) (by omega) (Nat.lt_of_lt_of_le (dst_lt d) (by decide)) (Nat.lt_of_lt_of_le (src_lt a) (by decide)) (Nat.lt_of_lt_of_le (src_lt b) (by decide))
theorem fmaF (t : FFmt) (d : Dst) (a : Src) (b : Src) : Statement (.fmaF t d a b) :=
  packR_ok _ _ _ _ _ _ rfl (by have := fmt_lt t; omega) (by omega) (Nat.lt_of_lt_of_le (dst_lt d) (by decide)) (Nat.lt_of_lt_of_le (src_lt a) (by decide)) (Nat.lt_of_lt_of_le (src_lt b) (by decide))
theorem fmsF (t : FFmt) (d : Dst) (a : Src) (b : Src) : Statement (.fmsF t d a b) :=
  packR_ok _ _ _ _ _ _ rfl (by have := fmt_lt t; omega) (by omega) (Nat.lt_of_lt_of_le (dst_lt d) (by decide)) (Nat.lt_of_lt_of_le (src_lt a) (by decide)) (Nat.lt_of_lt_of_le (src_lt b) (by decide))
theorem fnmaF (t : FFmt) (d : Dst) (a : Src) (b : Src) : Statement (.fnmaF t d a b) :=
  packR_ok _ _ _ _ _ _ rfl (by have := fmt_lt t; omega) (by omega) (Nat.lt_of_lt_of_le (dst_lt d) (by decide)) (Nat.lt_of_lt_of_le (src_lt a) (by decide)) (Nat.lt_of_lt_of_le (src_lt b) (by decide))
theorem absF (t : FFmt) (d : Dst) (a : Src) : Statement (.absF t d a) :=
  packR_ok _ _ _ _ _ _ rfl (by have := fmt_lt t; omega) (by omega) (Nat.lt_of_lt_of_le (dst_lt d) (by decide)) (Nat.lt_of_lt_of_le (src_lt a) (by decide)) (by omega)
theorem negF (t : FFmt) (d : Dst) (a : Src) : Statement (.negF t d a) :=
  packR_ok _ _ _ _ _ _ rfl (by have := fmt_lt t; omega) (by omega) (Nat.lt_of_lt_of_le (dst_lt d) (by decide)) (Nat.lt_of_lt_of_le (src_lt a) (by decide)) (by omega)
theorem csgn (t : FFmt) (d : Dst) (a : Src) (b : Src) : Statement (.csgn t d a b) :=
  packR_ok _ _ _ _ _ _ rfl (by have := fmt_lt t; omega) (by omega) (Nat.lt_of_lt_of_le (dst_lt d) (by decide)) (Nat.lt_of_lt_of_le (src_lt a) (by decide)) (Nat.lt_of_lt_of_le (src_lt b) (by decide))
theorem rint (t : FFmt) (d : Dst) (a : Src) : Statement (.rint t d a) :=
  packR_ok _ _ _ _ _ _ rfl (by have := fmt_lt t; omega) (by omega) (Nat.lt_of_lt_of_le (dst_lt d) (by decide)) (Nat.lt_of_lt_of_le (src_lt a) (by decide)) (by omega)
theorem ceqF (t : FFmt) (d : MaskNo) (a : Src) (b : Src) : Statement (.ceqF t d a b) :=
  packR_ok _ _ _ _ _ _ rfl (by have := fmt_lt t; omega) (by omega) (by omega) (Nat.lt_of_lt_of_le (src_lt a) (by decide)) (Nat.lt_of_lt_of_le (src_lt b) (by decide))
theorem cneF (t : FFmt) (d : MaskNo) (a : Src) (b : Src) : Statement (.cneF t d a b) :=
  packR_ok _ _ _ _ _ _ rfl (by have := fmt_lt t; omega) (by omega) (by omega) (Nat.lt_of_lt_of_le (src_lt a) (by decide)) (Nat.lt_of_lt_of_le (src_lt b) (by decide))
theorem cltF (t : FFmt) (d : MaskNo) (a : Src) (b : Src) : Statement (.cltF t d a b) :=
  packR_ok _ _ _ _ _ _ rfl (by have := fmt_lt t; omega) (by omega) (by omega) (Nat.lt_of_lt_of_le (src_lt a) (by decide)) (Nat.lt_of_lt_of_le (src_lt b) (by decide))
theorem cleF (t : FFmt) (d : MaskNo) (a : Src) (b : Src) : Statement (.cleF t d a b) :=
  packR_ok _ _ _ _ _ _ rfl (by have := fmt_lt t; omega) (by omega) (by omega) (Nat.lt_of_lt_of_le (src_lt a) (by decide)) (Nat.lt_of_lt_of_le (src_lt b) (by decide))
theorem cun (t : FFmt) (d : MaskNo) (a : Src) (b : Src) : Statement (.cun t d a b) :=
  packR_ok _ _ _ _ _ _ rfl (by have := fmt_lt t; omega) (by omega) (by omega) (Nat.lt_of_lt_of_le (src_lt a) (by decide)) (Nat.lt_of_lt_of_le (src_lt b) (by decide))
theorem rcp (d : Dst) (a : Src) : Statement (.rcp d a) :=
  packR_ok _ _ _ _ _ _ rfl (by omega) (by omega) (Nat.lt_of_lt_of_le (dst_lt d) (by decide)) (Nat.lt_of_lt_of_le (src_lt a) (by decide)) (by omega)
theorem rsq (d : Dst) (a : Src) : Statement (.rsq d a) :=
  packR_ok _ _ _ _ _ _ rfl (by omega) (by omega) (Nat.lt_of_lt_of_le (dst_lt d) (by decide)) (Nat.lt_of_lt_of_le (src_lt a) (by decide)) (by omega)
theorem sqrt (d : Dst) (a : Src) : Statement (.sqrt d a) :=
  packR_ok _ _ _ _ _ _ rfl (by omega) (by omega) (Nat.lt_of_lt_of_le (dst_lt d) (by decide)) (Nat.lt_of_lt_of_le (src_lt a) (by decide)) (by omega)
theorem exp2 (d : Dst) (a : Src) : Statement (.exp2 d a) :=
  packR_ok _ _ _ _ _ _ rfl (by omega) (by omega) (Nat.lt_of_lt_of_le (dst_lt d) (by decide)) (Nat.lt_of_lt_of_le (src_lt a) (by decide)) (by omega)
theorem log2 (d : Dst) (a : Src) : Statement (.log2 d a) :=
  packR_ok _ _ _ _ _ _ rfl (by omega) (by omega) (Nat.lt_of_lt_of_le (dst_lt d) (by decide)) (Nat.lt_of_lt_of_le (src_lt a) (by decide)) (by omega)
theorem sin2pi (d : Dst) (a : Src) : Statement (.sin2pi d a) :=
  packR_ok _ _ _ _ _ _ rfl (by omega) (by omega) (Nat.lt_of_lt_of_le (dst_lt d) (by decide)) (Nat.lt_of_lt_of_le (src_lt a) (by decide)) (by omega)
theorem cos2pi (d : Dst) (a : Src) : Statement (.cos2pi d a) :=
  packR_ok _ _ _ _ _ _ rfl (by omega) (by omega) (Nat.lt_of_lt_of_le (dst_lt d) (by decide)) (Nat.lt_of_lt_of_le (src_lt a) (by decide)) (by omega)
theorem tanh (d : Dst) (a : Src) : Statement (.tanh d a) :=
  packR_ok _ _ _ _ _ _ rfl (by omega) (by omega) (Nat.lt_of_lt_of_le (dst_lt d) (by decide)) (Nat.lt_of_lt_of_le (src_lt a) (by decide)) (by omega)
theorem sigm (d : Dst) (a : Src) : Statement (.sigm d a) :=
  packR_ok _ _ _ _ _ _ rfl (by omega) (by omega) (Nat.lt_of_lt_of_le (dst_lt d) (by decide)) (Nat.lt_of_lt_of_le (src_lt a) (by decide)) (by omega)
theorem cvt (p : Fin 4) (d : Dst) (a : Src) (t : CvtFmt) (f : CvtFmt) : Statement (.cvt p d a t f) :=
  packI_ok _ _ _ _ _ _ rfl (by omega) (by omega) (Nat.lt_of_lt_of_le (dst_lt d) (by decide)) (Nat.lt_of_lt_of_le (src_lt a) (by decide)) (by have := cvt_lt t; have := cvt_lt f; omega)
theorem cvto (p : Fin 4) (d : Dst) (a : Src) (t : CvtFmt) (f : CvtFmt) : Statement (.cvto p d a t f) :=
  packI_ok _ _ _ _ _ _ rfl (by omega) (by omega) (Nat.lt_of_lt_of_le (dst_lt d) (by decide)) (Nat.lt_of_lt_of_le (src_lt a) (by decide)) (by have := cvt_lt t; have := cvt_lt f; omega)
theorem cvtt (p : Fin 4) (d : Dst) (a : Src) (t : CvtFmt) (f : CvtFmt) : Statement (.cvtt p d a t f) :=
  packI_ok _ _ _ _ _ _ rfl (by omega) (by omega) (Nat.lt_of_lt_of_le (dst_lt d) (by decide)) (Nat.lt_of_lt_of_le (src_lt a) (by decide)) (by have := cvt_lt t; have := cvt_lt f; omega)
theorem qbx8 (d : Dst) (a : Src) : Statement (.qbx8 d a) :=
  packR_ok _ _ _ _ _ _ rfl (by omega) (by omega) (Nat.lt_of_lt_of_le (dst_lt d) (by decide)) (Nat.lt_of_lt_of_le (src_lt a) (by decide)) (by omega)
theorem qbx8H (d : Dst) (a : Src) : Statement (.qbx8H d a) :=
  packR_ok _ _ _ _ _ _ rfl (by omega) (by omega) (Nat.lt_of_lt_of_le (dst_lt d) (by decide)) (Nat.lt_of_lt_of_le (src_lt a) (by decide)) (by omega)
theorem qbx16 (d : Dst) (a : Src) : Statement (.qbx16 d a) :=
  packR_ok _ _ _ _ _ _ rfl (by omega) (by omega) (Nat.lt_of_lt_of_le (dst_lt d) (by decide)) (Nat.lt_of_lt_of_le (src_lt a) (by decide)) (by omega)
theorem qbx16H (d : Dst) (a : Src) : Statement (.qbx16H d a) :=
  packR_ok _ _ _ _ _ _ rfl (by omega) (by omega) (Nat.lt_of_lt_of_le (dst_lt d) (by decide)) (Nat.lt_of_lt_of_le (src_lt a) (by decide)) (by omega)
theorem dqbx8 (d : Dst) (a : Src) : Statement (.dqbx8 d a) :=
  packR_ok _ _ _ _ _ _ rfl (by omega) (by omega) (Nat.lt_of_lt_of_le (dst_lt d) (by decide)) (Nat.lt_of_lt_of_le (src_lt a) (by decide)) (by omega)
theorem dqbx16 (d : Dst) (a : Src) : Statement (.dqbx16 d a) :=
  packR_ok _ _ _ _ _ _ rfl (by omega) (by omega) (Nat.lt_of_lt_of_le (dst_lt d) (by decide)) (Nat.lt_of_lt_of_le (src_lt a) (by decide)) (by omega)
theorem amxr (d : Dst) : Statement (.amxr d) :=
  packR_ok _ _ _ _ _ _ rfl (by omega) (by omega) (Nat.lt_of_lt_of_le (dst_lt d) (by decide)) (by omega) (by omega)
theorem amxrc (d : Dst) : Statement (.amxrc d) :=
  packR_ok _ _ _ _ _ _ rfl (by omega) (by omega) (Nat.lt_of_lt_of_le (dst_lt d) (by decide)) (by omega) (by omega)
theorem amxc : Statement .amxc :=
  packR_ok _ _ _ _ _ _ rfl (by omega) (by omega) (by omega) (by omega) (by omega)
theorem amxw (a : Src) : Statement (.amxw a) :=
  packR_ok _ _ _ _ _ _ rfl (by omega) (by omega) (by omega) (Nat.lt_of_lt_of_le (src_lt a) (by decide)) (by omega)
theorem shfl (w : Width) (d : Dst) (a : Src) (b : Src) : Statement (.shfl w d a b) :=
  packR_ok _ _ _ _ _ _ rfl (by omega) (Nat.lt_of_lt_of_le (width_lt w) (by decide)) (Nat.lt_of_lt_of_le (dst_lt d) (by decide)) (Nat.lt_of_lt_of_le (src_lt a) (by decide)) (Nat.lt_of_lt_of_le (src_lt b) (by decide))
theorem shfx (w : Width) (d : Dst) (a : Src) (i : BitVec 8) : Statement (.shfx w d a i) :=
  packI_ok _ _ _ _ _ _ rfl (by omega) (Nat.lt_of_lt_of_le (width_lt w) (by decide)) (Nat.lt_of_lt_of_le (dst_lt d) (by decide)) (Nat.lt_of_lt_of_le (src_lt a) (by decide)) (by omega)
theorem shup (w : Width) (d : Dst) (a : Src) (i : BitVec 8) : Statement (.shup w d a i) :=
  packI_ok _ _ _ _ _ _ rfl (by omega) (Nat.lt_of_lt_of_le (width_lt w) (by decide)) (Nat.lt_of_lt_of_le (dst_lt d) (by decide)) (Nat.lt_of_lt_of_le (src_lt a) (by decide)) (by omega)
theorem shdn (w : Width) (d : Dst) (a : Src) (i : BitVec 8) : Statement (.shdn w d a i) :=
  packI_ok _ _ _ _ _ _ rfl (by omega) (Nat.lt_of_lt_of_le (width_lt w) (by decide)) (Nat.lt_of_lt_of_le (dst_lt d) (by decide)) (Nat.lt_of_lt_of_le (src_lt a) (by decide)) (by omega)
theorem ballot (d : Dst) (a : MaskNo) : Statement (.ballot d a) :=
  packR_ok _ _ _ _ _ _ rfl (by omega) (by omega) (Nat.lt_of_lt_of_le (dst_lt d) (by decide)) (by omega) (by omega)
theorem vany (d : MaskNo) (a : MaskNo) : Statement (.vany d a) :=
  packR_ok _ _ _ _ _ _ rfl (by omega) (by omega) (by omega) (by omega) (by omega)
theorem vall (d : MaskNo) (a : MaskNo) : Statement (.vall d a) :=
  packR_ok _ _ _ _ _ _ rfl (by omega) (by omega) (by omega) (by omega) (by omega)
theorem veq (d : MaskNo) (a : Src) : Statement (.veq d a) :=
  packR_ok _ _ _ _ _ _ rfl (by omega) (by omega) (by omega) (Nat.lt_of_lt_of_le (src_lt a) (by decide)) (by omega)
theorem nact (d : Dst) : Statement (.nact d) :=
  packR_ok _ _ _ _ _ _ rfl (by omega) (by omega) (Nat.lt_of_lt_of_le (dst_lt d) (by decide)) (by omega) (by omega)
theorem lfirst (d : Dst) : Statement (.lfirst d) :=
  packR_ok _ _ _ _ _ _ rfl (by omega) (by omega) (Nat.lt_of_lt_of_le (dst_lt d) (by decide)) (by omega) (by omega)
theorem gaddF32 (d : Dst) (a : Src) : Statement (.gaddF32 d a) :=
  packR_ok _ _ _ _ _ _ rfl (by omega) (by omega) (Nat.lt_of_lt_of_le (dst_lt d) (by decide)) (Nat.lt_of_lt_of_le (src_lt a) (by decide)) (by omega)
theorem gmaxF32 (d : Dst) (a : Src) : Statement (.gmaxF32 d a) :=
  packR_ok _ _ _ _ _ _ rfl (by omega) (by omega) (Nat.lt_of_lt_of_le (dst_lt d) (by decide)) (Nat.lt_of_lt_of_le (src_lt a) (by decide)) (by omega)
theorem gminF32 (d : Dst) (a : Src) : Statement (.gminF32 d a) :=
  packR_ok _ _ _ _ _ _ rfl (by omega) (by omega) (Nat.lt_of_lt_of_le (dst_lt d) (by decide)) (Nat.lt_of_lt_of_le (src_lt a) (by decide)) (by omega)
theorem gamaxF32 (d : Dst) (a : Src) : Statement (.gamaxF32 d a) :=
  packR_ok _ _ _ _ _ _ rfl (by omega) (by omega) (Nat.lt_of_lt_of_le (dst_lt d) (by decide)) (Nat.lt_of_lt_of_le (src_lt a) (by decide)) (by omega)
theorem gaddI32 (d : Dst) (a : Src) : Statement (.gaddI32 d a) :=
  packR_ok _ _ _ _ _ _ rfl (by omega) (by omega) (Nat.lt_of_lt_of_le (dst_lt d) (by decide)) (Nat.lt_of_lt_of_le (src_lt a) (by decide)) (by omega)
theorem gaddI64 (d : Dst) (a : Src) : Statement (.gaddI64 d a) :=
  packR_ok _ _ _ _ _ _ rfl (by omega) (by omega) (Nat.lt_of_lt_of_le (dst_lt d) (by decide)) (Nat.lt_of_lt_of_le (src_lt a) (by decide)) (by omega)
theorem mand (d : MaskNo) (a : MaskNo) (b : MaskNo) : Statement (.mand d a b) :=
  packR_ok _ _ _ _ _ _ rfl (by omega) (by omega) (by omega) (by omega) (by omega)
theorem mor (d : MaskNo) (a : MaskNo) (b : MaskNo) : Statement (.mor d a b) :=
  packR_ok _ _ _ _ _ _ rfl (by omega) (by omega) (by omega) (by omega) (by omega)
theorem mxor (d : MaskNo) (a : MaskNo) (b : MaskNo) : Statement (.mxor d a b) :=
  packR_ok _ _ _ _ _ _ rfl (by omega) (by omega) (by omega) (by omega) (by omega)
theorem mandn (d : MaskNo) (a : MaskNo) (b : MaskNo) : Statement (.mandn d a b) :=
  packR_ok _ _ _ _ _ _ rfl (by omega) (by omega) (by omega) (by omega) (by omega)
theorem mnot (d : MaskNo) (a : MaskNo) : Statement (.mnot d a) :=
  packR_ok _ _ _ _ _ _ rfl (by omega) (by omega) (by omega) (by omega) (by omega)
theorem mmov (d : MaskNo) (a : MaskNo) : Statement (.mmov d a) :=
  packR_ok _ _ _ _ _ _ rfl (by omega) (by omega) (by omega) (by omega) (by omega)
theorem mone (d : MaskNo) : Statement (.mone d) :=
  packR_ok _ _ _ _ _ _ rfl (by omega) (by omega) (by omega) (by omega) (by omega)
theorem mzero (d : MaskNo) : Statement (.mzero d) :=
  packR_ok _ _ _ _ _ _ rfl (by omega) (by omega) (by omega) (by omega) (by omega)
theorem mget (d : Dst) (a : MaskNo) : Statement (.mget d a) :=
  packR_ok _ _ _ _ _ _ rfl (by omega) (by omega) (Nat.lt_of_lt_of_le (dst_lt d) (by decide)) (by omega) (by omega)
theorem mlet (d : MaskNo) (a : Src) : Statement (.mlet d a) :=
  packR_ok _ _ _ _ _ _ rfl (by omega) (by omega) (by omega) (Nat.lt_of_lt_of_le (src_lt a) (by decide)) (by omega)
theorem qry (d : Dst) (s : BitVec 8) : Statement (.qry d s) :=
  packI_ok _ _ _ _ _ _ rfl (by omega) (by omega) (Nat.lt_of_lt_of_le (dst_lt d) (by decide)) (by omega) (by omega)
theorem qryX (d : Dst) (a : Src) : Statement (.qryX d a) :=
  packI_ok _ _ _ _ _ _ rfl (by omega) (by omega) (Nat.lt_of_lt_of_le (dst_lt d) (by decide)) (Nat.lt_of_lt_of_le (src_lt a) (by decide)) (by omega)
theorem winb (i : BitVec 8) : Statement (.winb i) :=
  packI_ok _ _ _ _ _ _ rfl (by omega) (by omega) (by omega) (by omega) (by omega)
theorem winbRel (i : BitVec 8) : Statement (.winbRel i) :=
  packI_ok _ _ _ _ _ _ rfl (by omega) (by omega) (by omega) (by omega) (by omega)
theorem xset (n : Fin 4) (a : Src) (i : BitVec 8) : Statement (.xset n a i) :=
  packI_ok _ _ _ _ _ _ rfl (by omega) (by omega) (by omega) (Nat.lt_of_lt_of_le (src_lt a) (by decide)) (by omega)
theorem xget (d : Dst) (n : Fin 4) : Statement (.xget d n) :=
  packI_ok _ _ _ _ _ _ rfl (by omega) (by omega) (Nat.lt_of_lt_of_le (dst_lt d) (by decide)) (by omega) (by omega)
theorem ldN (w : Width) (d : Dst) (a : Src) (i : BitVec 8) : Statement (.ldN w d a i) :=
  packI_ok _ _ _ _ _ _ rfl (by omega) (Nat.lt_of_lt_of_le (width_lt w) (by decide)) (Nat.lt_of_lt_of_le (dst_lt d) (by decide)) (Nat.lt_of_lt_of_le (src_lt a) (by decide)) (by omega)
theorem ldI (w : Width) (d : Dst) (a : Src) (i : BitVec 8) : Statement (.ldI w d a i) :=
  packI_ok _ _ _ _ _ _ rfl (by omega) (Nat.lt_of_lt_of_le (width_lt w) (by decide)) (Nat.lt_of_lt_of_le (dst_lt d) (by decide)) (Nat.lt_of_lt_of_le (src_lt a) (by decide)) (by omega)
theorem st (w : Width) (d : Src) (a : Src) (i : BitVec 8) : Statement (.st w d a i) :=
  packI_ok _ _ _ _ _ _ rfl (by omega) (Nat.lt_of_lt_of_le (width_lt w) (by decide)) (Nat.lt_of_lt_of_le (src_lt d) (by decide)) (Nat.lt_of_lt_of_le (src_lt a) (by decide)) (by omega)
theorem ldsN (w : Width) (d : Dst) (a : Src) (i : BitVec 8) : Statement (.ldsN w d a i) :=
  packI_ok _ _ _ _ _ _ rfl (by omega) (Nat.lt_of_lt_of_le (width_lt w) (by decide)) (Nat.lt_of_lt_of_le (dst_lt d) (by decide)) (Nat.lt_of_lt_of_le (src_lt a) (by decide)) (by omega)
theorem ldsI (w : Width) (d : Dst) (a : Src) (i : BitVec 8) : Statement (.ldsI w d a i) :=
  packI_ok _ _ _ _ _ _ rfl (by omega) (Nat.lt_of_lt_of_le (width_lt w) (by decide)) (Nat.lt_of_lt_of_le (dst_lt d) (by decide)) (Nat.lt_of_lt_of_le (src_lt a) (by decide)) (by omega)
theorem sts (w : Width) (d : Src) (a : Src) (i : BitVec 8) : Statement (.sts w d a i) :=
  packI_ok _ _ _ _ _ _ rfl (by omega) (Nat.lt_of_lt_of_le (width_lt w) (by decide)) (Nat.lt_of_lt_of_le (src_lt d) (by decide)) (Nat.lt_of_lt_of_le (src_lt a) (by decide)) (by omega)
theorem lda (w : Width) (sc : Scope) (d : Dst) (a : Src) : Statement (.lda w sc d a) :=
  packR_ok _ _ _ _ _ _ rfl (by have := width_lt w; omega) (Nat.lt_of_lt_of_le (scope_lt sc) (by decide)) (Nat.lt_of_lt_of_le (dst_lt d) (by decide)) (Nat.lt_of_lt_of_le (src_lt a) (by decide)) (by omega)
theorem stl (w : Width) (sc : Scope) (a : Src) (b : Src) : Statement (.stl w sc a b) :=
  packR_ok _ _ _ _ _ _ rfl (by have := width_lt w; omega) (Nat.lt_of_lt_of_le (scope_lt sc) (by decide)) (by omega) (Nat.lt_of_lt_of_le (src_lt a) (by decide)) (Nat.lt_of_lt_of_le (src_lt b) (by decide))
theorem ldk (d : Dst) (i : BitVec 8) : Statement (.ldk d i) :=
  packI_ok _ _ _ _ _ _ rfl (by omega) (by omega) (Nat.lt_of_lt_of_le (dst_lt d) (by decide)) (by omega) (by omega)
theorem ldkX (d : Dst) (a : Src) : Statement (.ldkX d a) :=
  packI_ok _ _ _ _ _ _ rfl (by omega) (by omega) (Nat.lt_of_lt_of_le (dst_lt d) (by decide)) (Nat.lt_of_lt_of_le (src_lt a) (by decide)) (by omega)
theorem ldgAddF32 (d : Dst) (a : Src) : Statement (.ldgAddF32 d a) :=
  packR_ok _ _ _ _ _ _ rfl (by omega) (by omega) (Nat.lt_of_lt_of_le (dst_lt d) (by decide)) (Nat.lt_of_lt_of_le (src_lt a) (by decide)) (by omega)
theorem ldgAddI32 (d : Dst) (a : Src) : Statement (.ldgAddI32 d a) :=
  packR_ok _ _ _ _ _ _ rfl (by omega) (by omega) (Nat.lt_of_lt_of_le (dst_lt d) (by decide)) (Nat.lt_of_lt_of_le (src_lt a) (by decide)) (by omega)
theorem ldgAddI64 (d : Dst) (a : Src) : Statement (.ldgAddI64 d a) :=
  packR_ok _ _ _ _ _ _ rfl (by omega) (by omega) (Nat.lt_of_lt_of_le (dst_lt d) (by decide)) (Nat.lt_of_lt_of_le (src_lt a) (by decide)) (by omega)
theorem ldgMaxF32 (d : Dst) (a : Src) : Statement (.ldgMaxF32 d a) :=
  packR_ok _ _ _ _ _ _ rfl (by omega) (by omega) (Nat.lt_of_lt_of_le (dst_lt d) (by decide)) (Nat.lt_of_lt_of_le (src_lt a) (by decide)) (by omega)
theorem ldgMinF32 (d : Dst) (a : Src) : Statement (.ldgMinF32 d a) :=
  packR_ok _ _ _ _ _ _ rfl (by omega) (by omega) (Nat.lt_of_lt_of_le (dst_lt d) (by decide)) (Nat.lt_of_lt_of_le (src_lt a) (by decide)) (by omega)
theorem ldgAmaxF32 (d : Dst) (a : Src) : Statement (.ldgAmaxF32 d a) :=
  packR_ok _ _ _ _ _ _ rfl (by omega) (by omega) (Nat.lt_of_lt_of_le (dst_lt d) (by decide)) (Nat.lt_of_lt_of_le (src_lt a) (by decide)) (by omega)
theorem rpld (d : Src) (a : Src) (n : BitVec 8) : Statement (.rpld d a n) :=
  packI_ok _ _ _ _ _ _ rfl (by omega) (by omega) (Nat.lt_of_lt_of_le (src_lt d) (by decide)) (Nat.lt_of_lt_of_le (src_lt a) (by decide)) (by omega)
theorem rpst (d : Src) (a : Src) (n : BitVec 8) : Statement (.rpst d a n) :=
  packI_ok _ _ _ _ _ _ rfl (by omega) (by omega) (Nat.lt_of_lt_of_le (src_lt d) (by decide)) (Nat.lt_of_lt_of_le (src_lt a) (by decide)) (by omega)
theorem rpstAdd (d : Src) (a : Src) (n : BitVec 8) : Statement (.rpstAdd d a n) :=
  packI_ok _ _ _ _ _ _ rfl (by omega) (by omega) (Nat.lt_of_lt_of_le (src_lt d) (by decide)) (Nat.lt_of_lt_of_le (src_lt a) (by decide)) (by omega)
theorem aadd (wide : Bool) (sem : ASem) (d : Dst) (a : Src) (b : Src) : Statement (.aadd wide sem d a b) :=
  packR_ok _ _ _ _ _ _ rfl (by have := bool_lt wide; have := asem_lt sem; omega) (by omega) (Nat.lt_of_lt_of_le (dst_lt d) (by decide)) (Nat.lt_of_lt_of_le (src_lt a) (by decide)) (Nat.lt_of_lt_of_le (src_lt b) (by decide))
theorem aand (wide : Bool) (sem : ASem) (d : Dst) (a : Src) (b : Src) : Statement (.aand wide sem d a b) :=
  packR_ok _ _ _ _ _ _ rfl (by have := bool_lt wide; have := asem_lt sem; omega) (by omega) (Nat.lt_of_lt_of_le (dst_lt d) (by decide)) (Nat.lt_of_lt_of_le (src_lt a) (by decide)) (Nat.lt_of_lt_of_le (src_lt b) (by decide))
theorem aor (wide : Bool) (sem : ASem) (d : Dst) (a : Src) (b : Src) : Statement (.aor wide sem d a b) :=
  packR_ok _ _ _ _ _ _ rfl (by have := bool_lt wide; have := asem_lt sem; omega) (by omega) (Nat.lt_of_lt_of_le (dst_lt d) (by decide)) (Nat.lt_of_lt_of_le (src_lt a) (by decide)) (Nat.lt_of_lt_of_le (src_lt b) (by decide))
theorem axor (wide : Bool) (sem : ASem) (d : Dst) (a : Src) (b : Src) : Statement (.axor wide sem d a b) :=
  packR_ok _ _ _ _ _ _ rfl (by have := bool_lt wide; have := asem_lt sem; omega) (by omega) (Nat.lt_of_lt_of_le (dst_lt d) (by decide)) (Nat.lt_of_lt_of_le (src_lt a) (by decide)) (Nat.lt_of_lt_of_le (src_lt b) (by decide))
theorem axch (wide : Bool) (sem : ASem) (d : Dst) (a : Src) (b : Src) : Statement (.axch wide sem d a b) :=
  packR_ok _ _ _ _ _ _ rfl (by have := bool_lt wide; have := asem_lt sem; omega) (by omega) (Nat.lt_of_lt_of_le (dst_lt d) (by decide)) (Nat.lt_of_lt_of_le (src_lt a) (by decide)) (Nat.lt_of_lt_of_le (src_lt b) (by decide))
theorem acas (wide : Bool) (sem : ASem) (d : Dst) (a : Src) (b : Src) : Statement (.acas wide sem d a b) :=
  packR_ok _ _ _ _ _ _ rfl (by have := bool_lt wide; have := asem_lt sem; omega) (by omega) (Nat.lt_of_lt_of_le (dst_lt d) (by decide)) (Nat.lt_of_lt_of_le (src_lt a) (by decide)) (Nat.lt_of_lt_of_le (src_lt b) (by decide))
theorem aminI (wide : Bool) (sem : ASem) (d : Dst) (a : Src) (b : Src) : Statement (.aminI wide sem d a b) :=
  packR_ok _ _ _ _ _ _ rfl (by have := bool_lt wide; have := asem_lt sem; omega) (by omega) (Nat.lt_of_lt_of_le (dst_lt d) (by decide)) (Nat.lt_of_lt_of_le (src_lt a) (by decide)) (Nat.lt_of_lt_of_le (src_lt b) (by decide))
theorem amaxI (wide : Bool) (sem : ASem) (d : Dst) (a : Src) (b : Src) : Statement (.amaxI wide sem d a b) :=
  packR_ok _ _ _ _ _ _ rfl (by have := bool_lt wide; have := asem_lt sem; omega) (by omega) (Nat.lt_of_lt_of_le (dst_lt d) (by decide)) (Nat.lt_of_lt_of_le (src_lt a) (by decide)) (Nat.lt_of_lt_of_le (src_lt b) (by decide))
theorem aminN (wide : Bool) (sem : ASem) (d : Dst) (a : Src) (b : Src) : Statement (.aminN wide sem d a b) :=
  packR_ok _ _ _ _ _ _ rfl (by have := bool_lt wide; have := asem_lt sem; omega) (by omega) (Nat.lt_of_lt_of_le (dst_lt d) (by decide)) (Nat.lt_of_lt_of_le (src_lt a) (by decide)) (Nat.lt_of_lt_of_le (src_lt b) (by decide))
theorem amaxN (wide : Bool) (sem : ASem) (d : Dst) (a : Src) (b : Src) : Statement (.amaxN wide sem d a b) :=
  packR_ok _ _ _ _ _ _ rfl (by have := bool_lt wide; have := asem_lt sem; omega) (by omega) (Nat.lt_of_lt_of_le (dst_lt d) (by decide)) (Nat.lt_of_lt_of_le (src_lt a) (by decide)) (Nat.lt_of_lt_of_le (src_lt b) (by decide))
theorem aincw (wide : Bool) (sem : ASem) (d : Dst) (a : Src) (b : Src) : Statement (.aincw wide sem d a b) :=
  packR_ok _ _ _ _ _ _ rfl (by have := bool_lt wide; have := asem_lt sem; omega) (by omega) (Nat.lt_of_lt_of_le (dst_lt d) (by decide)) (Nat.lt_of_lt_of_le (src_lt a) (by decide)) (Nat.lt_of_lt_of_le (src_lt b) (by decide))
theorem adecw (wide : Bool) (sem : ASem) (d : Dst) (a : Src) (b : Src) : Statement (.adecw wide sem d a b) :=
  packR_ok _ _ _ _ _ _ rfl (by have := bool_lt wide; have := asem_lt sem; omega) (by omega) (Nat.lt_of_lt_of_le (dst_lt d) (by decide)) (Nat.lt_of_lt_of_le (src_lt a) (by decide)) (Nat.lt_of_lt_of_le (src_lt b) (by decide))
theorem aaddb (wide : Bool) (sem : ASem) (d : Dst) (a : Src) (b : Src) : Statement (.aaddb wide sem d a b) :=
  packR_ok _ _ _ _ _ _ rfl (by have := bool_lt wide; have := asem_lt sem; omega) (by omega) (Nat.lt_of_lt_of_le (dst_lt d) (by decide)) (Nat.lt_of_lt_of_le (src_lt a) (by decide)) (Nat.lt_of_lt_of_le (src_lt b) (by decide))
theorem fadda (sem : ASem) (d : Dst) (a : Src) (b : Src) : Statement (.fadda sem d a b) :=
  packR_ok _ _ _ _ _ _ rfl (by have := asem_lt sem; omega) (by omega) (Nat.lt_of_lt_of_le (dst_lt d) (by decide)) (Nat.lt_of_lt_of_le (src_lt a) (by decide)) (Nat.lt_of_lt_of_le (src_lt b) (by decide))
theorem amaxm (sem : ASem) (d : Dst) (a : Src) (b : Src) : Statement (.amaxm sem d a b) :=
  packR_ok _ _ _ _ _ _ rfl (by have := asem_lt sem; omega) (by omega) (Nat.lt_of_lt_of_le (dst_lt d) (by decide)) (Nat.lt_of_lt_of_le (src_lt a) (by decide)) (Nat.lt_of_lt_of_le (src_lt b) (by decide))
theorem amaxrs (sem : ASem) (d : Dst) (a : Src) : Statement (.amaxrs sem d a) :=
  packR_ok _ _ _ _ _ _ rfl (by have := asem_lt sem; omega) (by omega) (Nat.lt_of_lt_of_le (dst_lt d) (by decide)) (Nat.lt_of_lt_of_le (src_lt a) (by decide)) (by omega)
theorem fence (sc : Scope) (sem : Sem) : Statement (.fence sc sem) :=
  packR_ok _ _ _ _ _ _ rfl (by omega) (Nat.lt_of_lt_of_le (scope_lt sc) (by decide)) (Nat.lt_of_lt_of_le (sem_lt sem) (by decide)) (by omega) (by omega)
theorem barB : Statement .barB :=
  packR_ok _ _ _ _ _ _ rfl (by omega) (by omega) (by omega) (by omega) (by omega)
theorem barE : Statement .barE :=
  packR_ok _ _ _ _ _ _ rfl (by omega) (by omega) (by omega) (by omega) (by omega)
theorem nbar (a : Src) : Statement (.nbar a) :=
  packR_ok _ _ _ _ _ _ rfl (by omega) (by omega) (by omega) (Nat.lt_of_lt_of_le (src_lt a) (by decide)) (by omega)
theorem nbnew (d : Dst) (a : Src) : Statement (.nbnew d a) :=
  packR_ok _ _ _ _ _ _ rfl (by omega) (by omega) (Nat.lt_of_lt_of_le (dst_lt d) (by decide)) (Nat.lt_of_lt_of_le (src_lt a) (by decide)) (by omega)
theorem nbfree (a : Src) : Statement (.nbfree a) :=
  packR_ok _ _ _ _ _ _ rfl (by omega) (by omega) (by omega) (Nat.lt_of_lt_of_le (src_lt a) (by decide)) (by omega)
theorem monw (wide : Bool) (c : Cond) (d : Dst) (a : Src) (b : Src) : Statement (.monw wide c d a b) :=
  packR_ok _ _ _ _ _ _ rfl (by have := bool_lt wide; omega) (Nat.lt_of_lt_of_le (cond_lt c) (by decide)) (Nat.lt_of_lt_of_le (dst_lt d) (by decide)) (Nat.lt_of_lt_of_le (src_lt a) (by decide)) (Nat.lt_of_lt_of_le (src_lt b) (by decide))
theorem secin : Statement .secin :=
  packR_ok _ _ _ _ _ _ rfl (by omega) (by omega) (by omega) (by omega) (by omega)
theorem secout : Statement .secout :=
  packR_ok _ _ _ _ _ _ rfl (by omega) (by omega) (by omega) (by omega) (by omega)
theorem clreq (d : Dst) : Statement (.clreq d) :=
  packR_ok _ _ _ _ _ _ rfl (by omega) (by omega) (Nat.lt_of_lt_of_le (dst_lt d) (by decide)) (by omega) (by omega)
theorem clwait (a : Src) : Statement (.clwait a) :=
  packR_ok _ _ _ _ _ _ rfl (by omega) (by omega) (by omega) (Nat.lt_of_lt_of_le (src_lt a) (by decide)) (by omega)
theorem escrow (a : Src) (b : Src) : Statement (.escrow a b) :=
  packR_ok _ _ _ _ _ _ rfl (by omega) (by omega) (by omega) (Nat.lt_of_lt_of_le (src_lt a) (by decide)) (Nat.lt_of_lt_of_le (src_lt b) (by decide))
theorem escpop (d : Dst) : Statement (.escpop d) :=
  packR_ok _ _ _ _ _ _ rfl (by omega) (by omega) (Nat.lt_of_lt_of_le (dst_lt d) (by decide)) (by omega) (by omega)
theorem dflush : Statement .dflush :=
  packR_ok _ _ _ _ _ _ rfl (by omega) (by omega) (by omega) (by omega) (by omega)
theorem tcommit (a : Src) : Statement (.tcommit a) :=
  packR_ok _ _ _ _ _ _ rfl (by omega) (by omega) (by omega) (Nat.lt_of_lt_of_le (src_lt a) (by decide)) (by omega)
theorem mxm (n : Fin 8) (d : Src) (a : Src) (b : Src) : Statement (.mxm n d a b) :=
  packR_ok _ _ _ _ _ _ rfl (by omega) (by omega) (Nat.lt_of_lt_of_le (src_lt d) (by decide)) (Nat.lt_of_lt_of_le (src_lt a) (by decide)) (Nat.lt_of_lt_of_le (src_lt b) (by decide))
theorem mxclr (n : Fin 8) : Statement (.mxclr n) :=
  packR_ok _ _ _ _ _ _ rfl (by omega) (by omega) (by omega) (by omega) (by omega)
theorem mxdrn (n : Fin 8) (d : Dst) (p : Fin 16) (o : Ofmt) (ren : Bool) (rm : RMode) : Statement (.mxdrn n d p o ren rm) :=
  packR_ok _ _ _ _ _ _ rfl (by omega) (by omega) (Nat.lt_of_lt_of_le (dst_lt d) (by decide)) (by have := ofmt_lt o; omega) (by have := bool_lt ren; have := rmode_lt rm; omega)
theorem mxdrs (n : Fin 8) (d : Dst) (a : Src) (b : Src) : Statement (.mxdrs n d a b) :=
  packR_ok _ _ _ _ _ _ rfl (by omega) (by omega) (Nat.lt_of_lt_of_le (dst_lt d) (by decide)) (Nat.lt_of_lt_of_le (src_lt a) (by decide)) (Nat.lt_of_lt_of_le (src_lt b) (by decide))
theorem mxgsum (n : Fin 8) : Statement (.mxgsum n) :=
  packR_ok _ _ _ _ _ _ rfl (by omega) (by omega) (by omega) (by omega) (by omega)
theorem enc (t : FFmt) (cls : Cls) (d : Dst) (a : Fin 96) (b : Src) : Statement (.enc t cls d a b) :=
  packR_ok _ _ _ _ _ _ rfl (by omega) (by have := fmt_lt t; have := cls_lt cls; omega) (Nat.lt_of_lt_of_le (dst_lt d) (by decide)) (by omega) (Nat.lt_of_lt_of_le (src_lt b) (by decide))
theorem mxfence : Statement .mxfence :=
  packR_ok _ _ _ _ _ _ rfl (by omega) (by omega) (by omega) (by omega) (by omega)
theorem mxwait : Statement .mxwait :=
  packR_ok _ _ _ _ _ _ rfl (by omega) (by omega) (by omega) (by omega) (by omega)
theorem mxrel : Statement .mxrel :=
  packR_ok _ _ _ _ _ _ rfl (by omega) (by omega) (by omega) (by omega) (by omega)
theorem asyr (d : Dst) (c : Fin 8) : Statement (.asyr d c) :=
  packI_ok _ _ _ _ _ _ rfl (by omega) (by omega) (Nat.lt_of_lt_of_le (dst_lt d) (by decide)) (by omega) (by omega)
theorem cpy (q : Fin 8) (d : Fin 93) (rel : Bool) : Statement (.cpy q d rel) :=
  packR_ok _ _ _ _ _ _ rfl (by omega) (by omega) (by omega) (by have := bool_lt rel; omega) (by omega)
theorem cpycv (q : Fin 8) (d : Fin 93) (rel : Bool) : Statement (.cpycv q d rel) :=
  packR_ok _ _ _ _ _ _ rfl (by omega) (by omega) (by omega) (by have := bool_lt rel; omega) (by omega)
theorem cpyrd (q : Fin 8) (d : Fin 93) (rel : Bool) : Statement (.cpyrd q d rel) :=
  packR_ok _ _ _ _ _ _ rfl (by omega) (by omega) (by omega) (by have := bool_lt rel; omega) (by omega)
theorem coll (q : Fin 8) (d : Fin 93) (rel : Bool) : Statement (.coll q d rel) :=
  packR_ok _ _ _ _ _ _ rfl (by omega) (by omega) (by omega) (by have := bool_lt rel; omega) (by omega)
theorem qbind (d : Dst) (a : Src) (n : Fin 4) : Statement (.qbind d a n) :=
  packR_ok _ _ _ _ _ _ rfl (by omega) (by omega) (Nat.lt_of_lt_of_le (dst_lt d) (by decide)) (Nat.lt_of_lt_of_le (src_lt a) (by decide)) (by omega)
theorem qpop (d : Dst) (n : Fin 4) : Statement (.qpop d n) :=
  packR_ok _ _ _ _ _ _ rfl (by omega) (by omega) (Nat.lt_of_lt_of_le (dst_lt d) (by decide)) (by omega) (by omega)
theorem qpush (a : Src) (n : Fin 4) : Statement (.qpush a n) :=
  packR_ok _ _ _ _ _ _ rfl (by omega) (by omega) (by omega) (Nat.lt_of_lt_of_le (src_lt a) (by decide)) (by omega)
theorem qlen (d : Dst) (n : Fin 4) : Statement (.qlen d n) :=
  packR_ok _ _ _ _ _ _ rfl (by omega) (by omega) (Nat.lt_of_lt_of_le (dst_lt d) (by decide)) (by omega) (by omega)
theorem cqstat (d : Dst) (q : Fin 8) : Statement (.cqstat d q) :=
  packI_ok _ _ _ _ _ _ rfl (by omega) (by omega) (Nat.lt_of_lt_of_le (dst_lt d) (by decide)) (by omega) (by omega)
theorem cqclr (q : Fin 8) : Statement (.cqclr q) :=
  packI_ok _ _ _ _ _ _ rfl (by omega) (by omega) (by omega) (by omega) (by omega)
theorem tossmax (t : FFmt) (d : Dst) (a : Src) : Statement (.tossmax t d a) :=
  packR_ok _ _ _ _ _ _ rfl (by omega) (Nat.lt_of_lt_of_le (fmt_lt t) (by decide)) (Nat.lt_of_lt_of_le (dst_lt d) (by decide)) (Nat.lt_of_lt_of_le (src_lt a) (by decide)) (by omega)
theorem tosscand (t : FFmt) (d : Dst) (a : Src) : Statement (.tosscand t d a) :=
  packR_ok _ _ _ _ _ _ rfl (by omega) (Nat.lt_of_lt_of_le (fmt_lt t) (by decide)) (Nat.lt_of_lt_of_le (dst_lt d) (by decide)) (Nat.lt_of_lt_of_le (src_lt a) (by decide)) (by omega)
theorem tossmerge (d : Dst) (a : Src) : Statement (.tossmerge d a) :=
  packR_ok _ _ _ _ _ _ rfl (by omega) (by omega) (Nat.lt_of_lt_of_le (dst_lt d) (by decide)) (Nat.lt_of_lt_of_le (src_lt a) (by decide)) (by omega)
theorem tossdraw (d : Dst) (a : Src) : Statement (.tossdraw d a) :=
  packR_ok _ _ _ _ _ _ rfl (by omega) (by omega) (Nat.lt_of_lt_of_le (dst_lt d) (by decide)) (Nat.lt_of_lt_of_le (src_lt a) (by decide)) (by omega)
theorem tossgenHi (d : Dst) (a : Src) : Statement (.tossgenHi d a) :=
  packR_ok _ _ _ _ _ _ rfl (by omega) (by omega) (Nat.lt_of_lt_of_le (dst_lt d) (by decide)) (Nat.lt_of_lt_of_le (src_lt a) (by decide)) (by omega)
theorem tossgenLo (d : Dst) (a : Src) : Statement (.tossgenLo d a) :=
  packR_ok _ _ _ _ _ _ rfl (by omega) (by omega) (Nat.lt_of_lt_of_le (dst_lt d) (by decide)) (Nat.lt_of_lt_of_le (src_lt a) (by decide)) (by omega)
theorem csrr (d : Dst) (n : BitVec 8) : Statement (.csrr d n) :=
  packI_ok _ _ _ _ _ _ rfl (by omega) (by omega) (Nat.lt_of_lt_of_le (dst_lt d) (by decide)) (by omega) (by omega)
theorem csrw (a : Src) (n : BitVec 8) : Statement (.csrw a n) :=
  packI_ok _ _ _ _ _ _ rfl (by omega) (by omega) (by omega) (Nat.lt_of_lt_of_le (src_lt a) (by decide)) (by omega)
theorem tret : Statement .tret :=
  packR_ok _ _ _ _ _ _ rfl (by omega) (by omega) (by omega) (by omega) (by omega)
theorem tretNext : Statement .tretNext :=
  packR_ok _ _ _ _ _ _ rfl (by omega) (by omega) (by omega) (by omega) (by omega)
theorem tretTo (a : Src) : Statement (.tretTo a) :=
  packR_ok _ _ _ _ _ _ rfl (by omega) (by omega) (by omega) (Nat.lt_of_lt_of_le (src_lt a) (by decide)) (by omega)
theorem launchSubmission (part : Fin 16) (prio : Fin 8) (asid : BitVec 16) (smode : Bool) : Statement (.launchSubmission part prio asid smode) := none_ok _ rfl
theorem launchDequeue (lid : Nat) : Statement (.launchDequeue lid) := none_ok _ rfl
theorem ensembleStart (core : Nat) : Statement (.ensembleStart core) := none_ok _ rfl
theorem blockExit (core : Nat) : Statement (.blockExit core) := none_ok _ rfl
theorem memoryOperationComplete (core gang op : Nat) : Statement (.memoryOperationComplete core gang op) := none_ok _ rfl
theorem specialFunctionComplete (core gang op : Nat) : Statement (.specialFunctionComplete core gang op) := none_ok _ rfl
theorem mxmAccumulate (core gang slot : Nat) : Statement (.mxmAccumulate core gang slot) := none_ok _ rfl
theorem encWriteComplete (core gang op : Nat) : Statement (.encWriteComplete core gang op) := none_ok _ rfl
theorem drainDecision (core gang op : Nat) : Statement (.drainDecision core gang op) := none_ok _ rfl
theorem drainWriteComplete (core gang op : Nat) : Statement (.drainWriteComplete core gang op) := none_ok _ rfl
theorem mxgsumSum (core gang slot : Nat) : Statement (.mxgsumSum core gang slot) := none_ok _ rfl
theorem leaseGrant (core : Nat) : Statement (.leaseGrant core) := none_ok _ rfl
theorem leasePass (core : Nat) : Statement (.leasePass core) := none_ok _ rfl
theorem tossWordComplete (tower : Nat) : Statement (.tossWordComplete tower) := none_ok _ rfl
theorem monwSatisfied (core gang lane : Nat) : Statement (.monwSatisfied core gang lane) := none_ok _ rfl
theorem queueWaitRelease (core gang lane : Nat) : Statement (.queueWaitRelease core gang lane) := none_ok _ rfl
theorem tellerFlushApply (core : Nat) : Statement (.tellerFlushApply core) := none_ok _ rfl
theorem remoteUpdateApply (src dst : Nat) (clock : List Nat) : Statement (.remoteUpdateApply src dst clock) := none_ok _ rfl
theorem quantumExpiry (core : Nat) : Statement (.quantumExpiry core) := none_ok _ rfl
theorem yieldSuppressionEnd (core gang : Nat) : Statement (.yieldSuppressionEnd core gang) := none_ok _ rfl
theorem bindStart (core : Nat) (b : BindFields) : Statement (.bindStart core b) := none_ok _ rfl
theorem bindResume (core : Nat) (b : BindFields) : Statement (.bindResume core b) := none_ok _ rfl
theorem bindSave (core : Nat) : Statement (.bindSave core) := none_ok _ rfl
theorem contextSaveComplete (core : Nat) : Statement (.contextSaveComplete core) := none_ok _ rfl
theorem bindKill (core : Nat) : Statement (.bindKill core) := none_ok _ rfl
theorem bindIdle (core : Nat) : Statement (.bindIdle core) := none_ok _ rfl
theorem commandStart (cmd : Nat) : Statement (.commandStart cmd) := none_ok _ rfl
theorem commandComplete (cmd : Nat) : Statement (.commandComplete cmd) := none_ok _ rfl
theorem collSend (cmd : Nat) : Statement (.collSend cmd) := none_ok _ rfl
theorem collRecv (cmd : Nat) : Statement (.collRecv cmd) := none_ok _ rfl
theorem collRr (cmd : Nat) : Statement (.collRr cmd) := none_ok _ rfl
theorem collRrs (cmd : Nat) : Statement (.collRrs cmd) := none_ok _ rfl
theorem collCopy (cmd : Nat) : Statement (.collCopy cmd) := none_ok _ rfl
theorem collWait (cmd : Nat) : Statement (.collWait cmd) := none_ok _ rfl
theorem collLoop (cmd : Nat) : Statement (.collLoop cmd) := none_ok _ rfl
theorem collNext (cmd : Nat) : Statement (.collNext cmd) := none_ok _ rfl
theorem collEnd (cmd : Nat) : Statement (.collEnd cmd) := none_ok _ rfl
theorem intakeMessageStart (tower stream : Nat) : Statement (.intakeMessageStart tower stream) := none_ok _ rfl
theorem chunkDecodeComplete (tower stream : Nat) : Statement (.chunkDecodeComplete tower stream) := none_ok _ rfl
theorem intakeMessageEnd (tower stream : Nat) : Statement (.intakeMessageEnd tower stream) := none_ok _ rfl
theorem messageQuarantine (tower stream : Nat) : Statement (.messageQuarantine tower stream) := none_ok _ rfl
theorem fbdoneRetry (tower entry : Nat) : Statement (.fbdoneRetry tower entry) := none_ok _ rfl
theorem fbdoneFail (tower entry : Nat) : Statement (.fbdoneFail tower entry) := none_ok _ rfl
theorem replay (tower : Nat) : Statement (.replay tower) := none_ok _ rfl
theorem tlbinvAll : Statement .tlbinvAll := none_ok _ rfl
theorem tlbinvAsid (asid : BitVec 16) : Statement (.tlbinvAsid asid) := none_ok _ rfl
theorem tlbinvPage (asid : BitVec 16) (page : BitVec 40) : Statement (.tlbinvPage asid page) := none_ok _ rfl
theorem invalidationComplete : Statement .invalidationComplete := none_ok _ rfl
theorem h2dtailWrite (v : Word) : Statement (.h2dtailWrite v) := none_ok _ rfl
theorem submitLaunch : Statement .submitLaunch := none_ok _ rfl
theorem abortLaunch : Statement .abortLaunch := none_ok _ rfl
theorem retirementRequest : Statement .retirementRequest := none_ok _ rfl
theorem elevatorRemapRequest : Statement .elevatorRemapRequest := none_ok _ rfl
theorem assayRead : Statement .assayRead := none_ok _ rfl
theorem partitionConfig (escBase : Nat) (queueBases : List Nat) : Statement (.partitionConfig escBase queueBases) := none_ok _ rfl
theorem attestationRequest : Statement .attestationRequest := none_ok _ rfl
theorem firmwareUpdate : Statement .firmwareUpdate := none_ok _ rfl
theorem newBringup : Statement .newBringup := none_ok _ rfl
theorem d2hbaseWrite (v : Word) : Statement (.d2hbaseWrite v) := none_ok _ rfl
theorem moduleReset : Statement .moduleReset := none_ok _ rfl
theorem bringupStageComplete (tower : Nat) (passed : Bool) (detail : BitVec 16) : Statement (.bringupStageComplete tower passed detail) := none_ok _ rfl
theorem serviceClockRise : Statement .serviceClockRise := none_ok _ rfl
theorem hostApertureRead (off n : Nat) : Statement (.hostApertureRead off n) := none_ok _ rfl
theorem hostApertureWrite (off : Nat) (bytes : List Byte) : Statement (.hostApertureWrite off bytes) := none_ok _ rfl
theorem hostAtomicopReject : Statement .hostAtomicopReject := none_ok _ rfl
theorem peerRequest (r : PeerReq) : Statement (.peerRequest r) := none_ok _ rfl
theorem peerTransactionTimeout (t : PeerTx) : Statement (.peerTransactionTimeout t) := none_ok _ rfl
theorem peerErrorResponse (t : PeerTx) : Statement (.peerErrorResponse t) := none_ok _ rfl
theorem flitCrcRetry (tower : Nat) : Statement (.flitCrcRetry tower) := none_ok _ rfl
theorem laneRepair (tower peer : Nat) : Statement (.laneRepair tower peer) := none_ok _ rfl
theorem linkDown (tower peer : Nat) : Statement (.linkDown tower peer) := none_ok _ rfl
theorem asycntClear (tower channel : Nat) : Statement (.asycntClear tower channel) := none_ok _ rfl
theorem containRetireRequest (tower : Nat) (v : Word) : Statement (.containRetireRequest tower v) := none_ok _ rfl
theorem channelRetirement (tower : Nat) : Statement (.channelRetirement tower) := none_ok _ rfl
theorem elvmapWrite (core : Nat) (v : Word) : Statement (.elvmapWrite core v) := none_ok _ rfl
theorem elevatorGroupError (core group gang : Nat) (lift : Lift) (op beat : Nat) (received : List Byte) : Statement (.elevatorGroupError core group gang lift op beat received) := none_ok _ rfl
theorem dutyTick (power : BitVec 16) (tj : List Byte) : Statement (.dutyTick power tj) := none_ok _ rfl
theorem thrcntClear : Statement .thrcntClear := none_ok _ rfl
theorem thermalTrip (tower : Nat) : Statement (.thermalTrip tower) := none_ok _ rfl
theorem registerWrite (r : MgmtReg) (v : Word) : Statement (.registerWrite r v) := none_ok _ rfl
theorem unassignedEncodingIssue (w : BitVec 32) : Statement (.unassignedEncodingIssue w) := none_ok _ rfl
theorem softError (u : Upset) : Statement (.softError u) := none_ok _ rfl
theorem d2hackWrite (v : Word) : Statement (.d2hackWrite v) := none_ok _ rfl
theorem intakePieceTokenised (tower stream : Nat) : Statement (.intakePieceTokenised tower stream) := none_ok _ rfl
theorem managementCoreStore (addr : Nat) (bytes : List Byte) : Statement (.managementCoreStore addr bytes) := none_ok _ rfl

end Sys2Proof.Laws.Encoding
end

