-- ==== Sys2Proof/Tests/Slice0.lean ====
section
/-! SUPPORT. Tests: words decoded as the spec encodes them, ill-formed operands refused, one step of a word or of an agent with
the result that the spec's tables and worked examples give, and for each statement a state and operands that meet its
hypotheses. -/
set_option Elab.async false
namespace Sys2Proof.Tests
open Sys2Proof Sys2Proof.Machine

/-! ### Helpers -/

/-- A claim that the kernel decides. -/
theorem holds {p : Prop} [Decidable p] (h : decide p = true := by decide +kernel) : p := of_decide_eq_true h

/-- The issue data of a word at 0x10004 of gang 0 on core 0, with the lanes `act` active. -/
def iss (act : LaneBits := BitVec.allOnes 32) : Issue := { core := 0, gang := 0, addr := 0x10004, taddr := 0x10004, active := act }

/-- The module with one block running on core 0, its gang changed by `f` and the block by `h`. -/
def st (f : Gang → Gang := id) (h : Block → Block := id) (act : LaneBits := BitVec.allOnes 32) : State :=
  ({ State.reset.withFetchWord 32 0 with cur := iss act } : State).setBlock 0 (h { loadBlock with gangs := [f loadGang] })

/-- The context of the word in such a state. -/
def cx (f : Gang → Gang := id) (h : Block → Block := id) (act : LaneBits := BitVec.allOnes 32) : Ctx :=
  ⟨h { loadBlock with gangs := [f loadGang] }, f loadGang, iss act⟩

/-- Every lane has the registers `rs`. -/
def regs (rs : List Word) (g : Gang) : Gang := { g with lanes := g.lanes.map (fun l => { l with regs := rs }) }

/-- The state of an outcome. -/
def nextOf (o : Out) : Option State := match o with | .next s => some s | _ => none

/-- Gang 0 of core 0 after an outcome. -/
def gangOf (o : Out) : Option Gang := (nextOf o).bind (fun s => s.gang? 0 0)

/-- Register `r` of lane `l` after an outcome. -/
def reg (o : Out) (l r : Nat) : Option Word := (gangOf o).map (fun g => regGet (g.lane l).regs r)

/-- The result in v2 of lane 0 of a word that finds `rs` in the registers of every lane. -/
def v2 (rs : List Word) (i : Instr) : Option Word := reg (exec i (st (regs rs))) 0 2

/-- The state once every operation that a word left outstanding has completed. -/
def settled (o : Out) : Option State :=
  (nextOf o).map (fun s => ((s.gang? 0 0).elim [] (·.ops)).foldl (fun s p => (completeOp s 0 0 p.id p.kind).getD s) s)

/-- The result in v2 of lane 0 of a word that completes later. -/
def later (rs : List Word) (i : Instr) : Option Word :=
  ((settled (exec i (st (regs rs)))).bind (fun s => s.gang? 0 0)).map (fun g => regGet (g.lane 0).regs 2)

/-- TCAUSE, TLANE and TINFO after a word whose launch accepts every trap. -/
def trapOf (f : Gang → Gang) (i : Instr) : Option (Word × Word × Word) :=
  (gangOf (exec i (st f (fun b => { b with cfg := { b.cfg with handler := 0x20000, accept := BitVec.allOnes 32 } })))).map
    (fun g => (g.tcause, g.tlane, g.tinfo))

theorem next_of (o : Out) (h : (nextOf o).isSome = true) : ∃ t, o = .next t := by
  cases o with
  | next s => exact ⟨s, rfl⟩
  | fault x => simp [nextOf] at h
  | refused x => simp [nextOf] at h

theorem minBy_none {α : Type} (f : α → Nat) (xs : List α) (h : minBy? f xs = none) : xs = [] := by
  cases xs with
  | nil => rfl
  | cons x r =>
    simp only [minBy?] at h
    split at h
    · simp at h
    · split at h <;> simp at h

theorem ok_of (c : Ctx) (rs : List Src) (h : (c.check rs).isOk = true) : c.Ok rs := by
  intro r hr
  unfold Ctx.check at h
  split at h
  · simp [Except.isOk, Except.toBool] at h
  · rename_i h1
    split at h
    · simp [Except.isOk, Except.toBool] at h
    · rename_i h2
      have h3 := minBy_none _ _ h2
      rw [List.filterMap_eq_nil_iff] at h3
      rw [List.findSome?_eq_none_iff] at h1
      have a := h1 r hr
      have b := h3 r hr
      cases r with
      | v i => simpa [Ctx.windowBad, Ctx.SrcOk] using a
      | ix n =>
        intro l hl
        simp only [Ctx.indirectBad, List.find?_eq_none, List.mem_map] at b
        have := b (l, ((c.g.lane l).x.getD n.val 0).toNat) ⟨l, hl, rfl⟩
        simpa using this
      | _ => trivial

/-! ### Decoding (R56 to R65): each word is written out from the fields its entry gives -/

theorem test_decode_header : decodeHeader (0x0040_0000 + 0x000F_0000 + 0x0000_F000 + 0x0000_0100) =
    some { wait := 4, flagA := none, flagB := none, length := 4, yieldHint := false } := by decide +kernel
theorem test_decode_header_flags : decodeHeader 0x0203_F0C0 =
    some { wait := 0x20, flagA := some 3, flagB := none, length := 3, yieldHint := false } := by decide +kernel
theorem test_decode_prefix : decodePfx 0xFE15_A004 =
    some { mask := some 2, zeroing := true, round := some .rz, c := .v 4, cZero := false } := by decide +kernel
theorem test_decode_br : decodes (0x01 * 2 ^ 24 + 1 * 2 ^ 21 + 0 * 2 ^ 16 + 4) = some (.br 1 false (some 0) 4) := by decide +kernel
theorem test_decode_loopt : decodes (0x06 * 2 ^ 24 + 24 * 2 ^ 15 + 0x7FF3) = some (.loopt (.v 24) 0x7FF3) := by decide +kernel
theorem test_decode_exit : decodes (0x08 * 2 ^ 24) = some .exit := by decide +kernel
theorem test_decode_join : decodes (0x7C * 2 ^ 24 + 1 * 2 ^ 21) = some (.join 0) := by decide +kernel
theorem test_decode_ceq : decodes (0x33 * 2 ^ 24 + 1 * 2 ^ 14 + 1 * 2 ^ 7 + 120) = some (.ceq .b64 1 (.v 1) .z) := by decide +kernel
theorem test_decode_addi : decodes (0x3B * 2 ^ 24 + 3 * 2 ^ 15 + 2 * 2 ^ 8 + 1) = some (.addi .b64 (.v 3) (.v 2) 1) := by decide +kernel
theorem test_decode_cvt : decodes (0x68 * 2 ^ 24 + 1 * 2 ^ 22 + 5 * 2 ^ 15 + 6 * 2 ^ 8 + 0xA8) =
    some (.cvt 1 (.v 5) (.v 6) .e4m3 .f32) := by decide +kernel
theorem test_decode_ldN : decodes 0x8080_8202 = some (.ldN .b32 (.v 1) (.v 2) 2) := by decide +kernel
theorem test_decode_aaddb : decodes 0xA881_0103 = some (.aaddb false .plain (.v 4) (.v 2) (.v 3)) := by decide +kernel
theorem test_decode_aincw : decodes 0xAF41_8388 = some (.aincw true .ar (.v 6) (.v 7) (.v 8)) := by decide +kernel
theorem test_decode_fence : decodes (0xB0 * 2 ^ 24 + 4 * 2 ^ 21 + 1 * 2 ^ 14) = some (.fence .dev .rel) := by decide +kernel
theorem test_decode_monw : decodes 0xB3AB_55AC = some (.monw true .geN (.v 45) (.v 43) (.v 44)) := by decide +kernel
theorem test_decode_mxm : decodes (0xC0 * 2 ^ 24 + 104 * 2 ^ 14 + 100 * 2 ^ 7 + 101) = some (.mxm 0 (.k 8) (.k 4) (.k 5)) := by decide +kernel
theorem test_decode_mxclr : decodes 0xC160_0000 = some (.mxclr 3) := by decide +kernel
theorem test_decode_mxdrn : decodes 0xC222_0900 = some (.mxdrn 1 (.v 8) 2 .e4m3 false .rne) := by decide +kernel
theorem test_decode_mxgsum : decodes 0xC400_0000 = some (.mxgsum 0) := by decide +kernel
theorem test_decode_mxrel : decodes 0xC640_0000 = some .mxrel := by decide +kernel
theorem test_decode_asyr : decodes 0xC701_0003 = some (.asyr (.v 2) 3) := by decide +kernel
theorem test_decode_cpy : decodes (0xD0 * 2 ^ 24 + 3 * 2 ^ 21 + 8 * 2 ^ 14 + 0x2000) = some (.cpy 3 8 true) := by decide +kernel
theorem test_decode_qpop : decodes 0xD420_8001 = some (.qpop (.v 2) 1) := by decide +kernel
theorem test_decode_toss : decodes 0xD901_0100 = some (.tosscand .f32 (.v 4) (.v 2)) := by decide +kernel
theorem test_decode_qry : decodes (0xE8 * 2 ^ 24 + 3 * 2 ^ 15 + 0x0B) = some (.qry (.v 3) 0x0B) := by decide +kernel
theorem test_decode_xset : decodes (0xE9 * 2 ^ 24 + 2 * 2 ^ 22 + 1 * 2 ^ 15 + 3 * 2 ^ 8 + 32) = some (.xset 1 (.v 3) 32) := by decide +kernel
theorem test_decode_unassigned : decodes 0 = none ∧ decodes 0xFFFF_FFFF = none := by decide +kernel
/-- A reserved bit that is not zero, in an encoding that is otherwise `mxrel` (R65). -/
theorem test_decode_reserved : decodes 0xC640_0001 = none := by decide +kernel
theorem test_table_word : decodeTableWord 32 0xE801_800B = some (.qry (.v 3) 0x0B) := by decide +kernel

/-! ### Ill-formed operands, each refused by its check (WellFormed.lean) -/

theorem test_wf_shift : (Instr.shli .b8 (.v 0) (.v 1) 8).wf = false ∧ (Instr.shli .b8 (.v 0) (.v 1) 7).wf = true := by decide
theorem test_wf_shift_right : (Instr.shriN .b16 (.v 0) (.v 1) 16).wf = false ∧ (Instr.shriI .b32 (.v 0) (.v 1) 32).wf = false ∧
    (Instr.rori .b64 (.v 0) (.v 1) 64).wf = false := by decide
theorem test_wf_ldI : (Instr.ldI .b64 (.v 0) (.v 1) 0).wf = false ∧ (Instr.ldsI .b64 (.v 0) (.v 1) 0).wf = false ∧
    (Instr.ldI .b32 (.v 0) (.v 1) 0).wf = true := by decide
theorem test_wf_cvt : (Instr.cvt 0 (.v 0) (.v 1) .f32 .f32).wf = false ∧ (Instr.cvt 2 (.v 0) (.v 1) .bf16 .f32).wf = false ∧
    (Instr.cvt 3 (.v 0) (.v 1) .e4m3 .f32).wf = true := by decide
theorem test_wf_cvto : (Instr.cvto 0 (.v 0) (.v 1) .bf16 .f32).wf = false ∧ (Instr.cvto 0 (.v 0) (.v 1) .e4m3 .i8).wf = false := by decide
theorem test_wf_cvtt : (Instr.cvtt 0 (.v 0) (.v 1) .f32 .i32).wf = false ∧ (Instr.cvtt 0 (.v 0) (.v 1) .i32 .f32).wf = false := by decide
theorem test_wf_shuffle : (Instr.shfl .b8 (.v 0) (.ix 0) (.v 1)).wf = false ∧ (Instr.shup .b8 (.v 0) (.ix 1) 1).wf = false ∧
    (Instr.shdn .b8 (.v 0) (.ix 1) 1).wf = false ∧ (Instr.shfx .b64 (.v 0) (.v 1) 32).wf = false ∧ (Instr.shfx .b64 (.v 0) (.ix 1) 3).wf = false := by decide
theorem test_wf_mxdrn : (Instr.mxdrn 0 (.v 0) 4 .e4m3 false .rne).wf = false ∧ (Instr.mxdrn 0 (.v 0) 0 .f32 false .rz).wf = false ∧
    (Instr.mxdrn 0 (.v 0) 15 .f32 true .rz).wf = true := by decide
theorem test_wf_csr : (Instr.csrr (.v 0) 0x08).wf = false ∧ (Instr.csrw (.v 0) 0x05).wf = false ∧ (Instr.csrr (.v 0) 0x46).wf = true := by decide
theorem test_wf_qry : (Instr.qry (.v 0) 0x1D).wf = false ∧ (Instr.qry (.v 0) 0x1C).wf = true := by decide

/-! ### Integer words (R166 to R172), by hand from the table's rows -/

theorem test_add_wraps : v2 [0xFF01, 0x01FF] (.add .b8 (.v 2) (.v 0) (.v 1)) = some 0x0000 := by decide +kernel
theorem test_sub_borrows : v2 [0, 1] (.sub .b32 (.v 2) (.v 0) (.v 1)) = some 0xFFFF_FFFF := by decide +kernel
theorem test_addsI : v2 [0x7F80, 0x01FF] (.addsI .b8 (.v 2) (.v 0) (.v 1)) = some 0x7F80 := by decide +kernel
theorem test_addsN : v2 [0xF0, 0x20] (.addsN .b8 (.v 2) (.v 0) (.v 1)) = some 0xFF := by decide +kernel
theorem test_subsN : v2 [1, 2] (.subsN .b8 (.v 2) (.v 0) (.v 1)) = some 0 := by decide +kernel
theorem test_absdI : v2 [0x80, 0x7F] (.absdI .b8 (.v 2) (.v 0) (.v 1)) = some 0xFF := by decide +kernel
theorem test_mulhI : v2 [0xFFFF_FFFF_FFFF_FFFF, 2] (.mulhI .b64 (.v 2) (.v 0) (.v 1)) = some 0xFFFF_FFFF_FFFF_FFFF := by decide +kernel
theorem test_mulhN : v2 [0xFFFF_FFFF_FFFF_FFFF, 2] (.mulhN .b64 (.v 2) (.v 0) (.v 1)) = some 1 := by decide +kernel
theorem test_mad_takes_d : v2 [3, 5, 100] (.mad .b64 (.v 2) (.v 0) (.v 1)) = some 115 := by decide +kernel
theorem test_minI : v2 [0xFF, 1] (.minI .b8 (.v 2) (.v 0) (.v 1)) = some 0xFF := by decide +kernel
theorem test_maxN : v2 [0xFF, 1] (.maxN .b8 (.v 2) (.v 0) (.v 1)) = some 0xFF := by decide +kernel
theorem test_abss : v2 [0x80] (.abss .b8 (.v 2) (.v 0)) = some 0x7F := by decide +kernel
theorem test_negs : v2 [0x80] (.negs .b8 (.v 2) (.v 0)) = some 0x7F := by decide +kernel
theorem test_divI_by_zero : v2 [7, 0] (.divI .b64 (.v 2) (.v 0) (.v 1)) = some 0xFFFF_FFFF_FFFF_FFFF := by decide +kernel
theorem test_divI_truncates : v2 [0xF9, 2] (.divI .b8 (.v 2) (.v 0) (.v 1)) = some 0xFFFF_FFFF_FFFF_FFFD := by decide +kernel
theorem test_remI_sign : v2 [0xFFFF_FFFF_FFFF_FFF9, 2] (.remI .b64 (.v 2) (.v 0) (.v 1)) = some 0xFFFF_FFFF_FFFF_FFFF := by decide +kernel
theorem test_remN_by_zero : v2 [9, 0] (.remN .b64 (.v 2) (.v 0) (.v 1)) = some 9 := by decide +kernel
theorem test_andn : v2 [0xF0, 0x30] (.andn .b64 (.v 2) (.v 0) (.v 1)) = some 0xC0 := by decide +kernel
theorem test_bsel : v2 [0xFF, 0x00, 0x0F] (.bsel .b64 (.v 2) (.v 0) (.v 1)) = some 0x0F := by decide +kernel
theorem test_shl_full : v2 [1, 32] (.shl .b32 (.v 2) (.v 0) (.v 1)) = some 0 := by decide +kernel
theorem test_shrI_full : v2 [0x8000_0000, 40] (.shrI .b32 (.v 2) (.v 0) (.v 1)) = some 0xFFFF_FFFF := by decide +kernel
theorem test_rol : v2 [0x81, 1] (.rol .b8 (.v 2) (.v 0) (.v 1)) = some 0x03 := by decide +kernel
theorem test_rori : v2 [0x01] (.rori .b8 (.v 2) (.v 0) 1) = some 0x80 := by decide +kernel
theorem test_popc : v2 [0xF0] (.popc .b64 (.v 2) (.v 0)) = some 4 := by decide +kernel
theorem test_clz_zero : v2 [0] (.clz .b64 (.v 2) (.v 0)) = some 64 := by decide +kernel
theorem test_ctz : v2 [0x50] (.ctz .b64 (.v 2) (.v 0)) = some 4 := by decide +kernel
theorem test_brev : v2 [1] (.brev .b64 (.v 2) (.v 0)) = some 0x8000_0000_0000_0000 := by decide +kernel
/-- Position 4, length field 3: four bits (R168). -/
theorem test_bfxI : v2 [0xA0, 4 + 3 * 64] (.bfxI .b64 (.v 2) (.v 0) (.v 1)) = some 0xFFFF_FFFF_FFFF_FFFA := by decide +kernel
theorem test_bfi : v2 [0x5, 4 + 3 * 64, 0xFFF] (.bfi .b64 (.v 2) (.v 0) (.v 1)) = some 0xF5F := by decide +kernel
theorem test_addi_negative : v2 [5] (.addi .b64 (.v 2) (.v 0) 0xFF) = some 4 := by decide +kernel
theorem test_movi : v2 [] (.movi .b64 (.v 2) 0xFF) = some 0xFFFF_FFFF_FFFF_FFFF := by decide +kernel
theorem test_leai : v2 [0x100] (.leai 3 (.v 2) (.v 0) 32) = some 0x200 := by decide +kernel
theorem test_lea : v2 [0x100, 3] (.lea 2 (.v 2) (.v 0) (.v 1)) = some 0x10C := by decide +kernel
/-- `z` reads 0, and discards what is written to it (R53). -/
theorem test_z : v2 [7, 8, 9] (.add .b64 .z (.v 0) (.v 1)) = some 9 ∧ v2 [7] (.add .b64 (.v 2) (.v 0) .z) = some 7 := by decide +kernel
/-- Lane numbers: `lid` is the lane's own (R53). -/
theorem test_lid : reg (exec (.mov (.v 2) .lid) (st)) 31 2 = some 31 := by decide +kernel
/-- A register past the allotment traps with its absolute index (R51, R306). -/
theorem test_bounds : trapOf (fun g => { g with wb := 432 }) (.add .b64 (.v 80) .z .z) = some (0x03, 0xFFFF_FFFF, 512) := by decide +kernel
/-- A lane that is not active keeps its register. -/
theorem test_inactive : reg (exec (.movi .b64 (.v 2) 1) (st id id 0x1)) 1 2 = some 0 ∧
    reg (exec (.movi .b64 (.v 2) 1) (st id id 0x1)) 0 2 = some 1 := by decide +kernel
theorem test_ceq_even_lanes : (gangOf (exec (.ceq .b64 1 (.v 1) .z) (st (fun g =>
    { g with lanes := g.lanes.mapIdx (fun l x => { x with regs := [0, BitVec.ofNat 64 (l % 2)] }) })))).map (fun g => (g.mask 1).toNat % 2 ^ 24) =
    some 0xFF00FF := by decide +kernel
theorem test_winb : (gangOf (exec (.winb 26) (st))).map (·.wb) = some 416 ∧
    trapOf id (.winb 27) = some (0x04, 0xFFFF_FFFF, 432) := by decide +kernel

/-! ### Floating point, conversions, cross-lane (R79 to R90, R173 to R182) -/

theorem test_addF : v2 [0x3F800000, 0x33800000] (.addF .f32 (.v 2) (.v 0) (.v 1)) = some 0x3F800000 := by decide +kernel
theorem test_subF_zero : v2 [0x3F800000, 0x3F800000] (.subF .f32 (.v 2) (.v 0) (.v 1)) = some 0 := by decide +kernel
theorem test_mulF_overflow : v2 [0x7F7F_FFFF, 0x40000000] (.mulF .f32 (.v 2) (.v 0) (.v 1)) = some 0x7F80_0000 := by decide +kernel
theorem test_fma_one_rounding : v2 [0x3F800001, 0x3F800001, 0xBF800002] (.fmaF .f32 (.v 2) (.v 0) (.v 1)) = some 0x2880_0000 := by decide +kernel
theorem test_minF_zeros : v2 [0, 0x8000_0000] (.minF .f32 (.v 2) (.v 0) (.v 1)) = some 0x8000_0000 := by decide +kernel
theorem test_nan_canonical : v2 [0xFFC0_0001, 0x3F800000] (.maxF .f32 (.v 2) (.v 0) (.v 1)) = some 0x7FC0_0000 := by decide +kernel
theorem test_sqrt : later [0x4110_0000] (.sqrt (.v 2) (.v 0)) = some 0x4040_0000 := by decide +kernel
theorem test_exp2 : later [0x4040_0000] (.exp2 (.v 2) (.v 0)) = some 0x3F80_0000_4100_0000 := by decide +kernel
theorem test_rcp_zero : later [0x8000_0000] (.rcp (.v 2) (.v 0)) = some 0x7F80_0000_FF80_0000 := by decide +kernel
/-- The worked conversion of R176: 500.0 and -0.3 into elements 2 and 3; the overflow form gives the NaN. -/
theorem test_cvt : v2 [0xBE99_999A_43FA_0000] (.cvt 1 (.v 2) (.v 0) .e4m3 .f32) = some 0xAA7E_0000 := by decide +kernel
theorem test_cvto : v2 [0xBE99_999A_43FA_0000] (.cvto 1 (.v 2) (.v 0) .e4m3 .f32) = some 0xAA7F_0000 := by decide +kernel
theorem test_cvt_amax : (gangOf (exec (.cvt 1 (.v 2) (.v 0) .e4m3 .f32) (st (regs [0xBE99_999A_43FA_0000])))).map (·.amax) =
    some 0x43FA_0000 := by decide +kernel
theorem test_cvt_e4m3_tie : v2 [0x40FA_0000] (.cvt 0 (.v 2) (.v 0) .e4m3 .f32) = some 0x50 := by decide +kernel
theorem test_cvtt : v2 [0x1FF] (.cvtt 0 (.v 2) (.v 0) .i8 .i64) = some 0xFF := by decide +kernel
theorem test_dqbx8 : v2 [0x0000_0001_0000_0003] (.dqbx8 (.v 2) (.v 0)) = some 0x40C0_0000 := by decide +kernel
theorem test_shfx : reg (exec (.shfx .b64 (.v 2) (.v 0) 1) (st (fun g =>
    { g with lanes := g.lanes.mapIdx (fun l x => { x with regs := [BitVec.ofNat 64 l] }) }))) 6 2 = some 7 := by decide +kernel
theorem test_shup_edge : reg (exec (.shup .b64 (.v 2) .lid 2) (st)) 1 2 = some 1 ∧ reg (exec (.shup .b64 (.v 2) .lid 2) (st)) 2 2 = some 0 := by
  decide +kernel
theorem test_gaddI32 : v2 [3] (.gaddI32 (.v 2) (.v 0)) = some 0x0000_0060_0000_0060 := by decide +kernel
theorem test_nact : v2 [] (.nact (.v 2)) = some 32 := by decide +kernel
theorem test_ballot : v2 [] (.ballot (.v 2) 0) = some 0xFFFF_FFFF := by decide +kernel
theorem test_mget : v2 [] (.mget (.v 2) 0) = some 0xFF := by decide +kernel
theorem test_qry : v2 [] (.qry (.v 2) 0x10) = some 512 := by decide +kernel
theorem test_qryX_unassigned : v2 [0x1D] (.qryX (.v 2) (.v 0)) = some 0xFFFF_FFFF_FFFF_FFFF := by decide +kernel

/-! ### Control flow, loops, traps (R159 to R164, R302 to R312) -/

theorem test_jmp_back : (gangOf (exec (.jmp none 0xFFFF) (st))).map (fun g => (g.lane 0).pc) = some 0x10000 := by decide +kernel
theorem test_call_links : reg (exec (.call none 4) (st)) 0 511 = some 0x10008 ∧
    (gangOf (exec (.call none 4) (st))).map (fun g => (g.lane 0).pc) = some 0x10014 := by decide +kernel
/-- An odd target is misaligned, in space 6 (R160, R306). -/
theorem test_jr_misaligned : trapOf (regs [0x1002]) (.jr (.v 0)) = some (0x0B, 0xFFFF_FFFF, 0x0600_0000_0000_1002) := by decide +kernel
theorem test_loopt_counts : (gangOf (exec (.loopt (.v 0) 0x7FF3) (st (fun g => { regs [2] g with lm := BitVec.allOnes 32 })))).map
    (fun g => (regGet (g.lane 0).regs 0, (g.lane 0).pc)) = some (1, 0x10004 - 52) := by decide +kernel
/-- The last pass of every lane: the loop mask empties, and no lane stays parked (R163). -/
theorem test_loopt_ends : (gangOf (exec (.loopt (.v 0) 0x7FF3) (st (fun g => { regs [1] g with lm := BitVec.allOnes 32 })))).map
    (fun g => (g.lm, (g.lane 31).park, (g.lane 31).pc)) = some (0, none, 0x10008) := by decide +kernel
theorem test_split : (gangOf (exec (.split 0) (st id id 0x3))).map (fun g => g.rejoin 0) = some 0x3 := by decide +kernel
theorem test_join_parks : (gangOf (exec (.join 0) (st (fun g => { g with j := [0xFFFF_FFFF, 0, 0, 0, 0, 0, 0, 0] }) id 0x5555_5555))).map
    (fun g => (g.rejoin 0, (g.lane 0).park)) = some (0xAAAA_AAAA, some (.j 0)) := by decide +kernel
theorem test_exit : (gangOf (exec .exit (st))).map (fun g => g.lanes.all (·.exited)) = some true := by decide +kernel
theorem test_trap_enters : trapOf id (.trap 7) = some (0x14, 0xFFFF_FFFF, 7) ∧ trapOf id (.brk 9) = some (0x15, 0xFFFF_FFFF, 9) := by decide +kernel
/-- Without a handler the block is killed (R309, R323). -/
theorem test_trap_kills : (nextOf (exec (.trap 7) (st))).map (fun s => ((s.core 0).bind, (s.core 0).block.isNone)) = some (.killed, true) := by
  decide +kernel
theorem test_tret_outside : trapOf id .tret = some (0x01, 0xFFFF_FFFF, 0) := by decide +kernel
theorem test_csrw : (gangOf (exec (.csrw (.v 0) 0x06) (st (regs [0x1234])))).map (·.tkeep0) = some 0x1234 := by decide +kernel
theorem test_csrr_privileged : trapOf id (.csrr (.v 2) 0x41) = some (0x02, 0xFFFF_FFFF, 0x41) := by decide +kernel
theorem test_unassigned : trapOf id (.unassignedEncodingIssue 0) = some (0x01, 0xFFFF_FFFF, 0) := by decide +kernel

/-! ### Memory (R184 to R196): the tables of log entry 27 map the first GiB to itself -/

/-- A word with lane 0 active, its registers `rs`, and package memory holding `v` at 0x1000. -/
def mem1 (rs : List Word) (v : Nat) (i : Instr) : Out :=
  let s := st (regs rs) id 1
  exec i { s with mem := memSetNat s.mem 0x1000 8 v }

/-- What the word left in memory at 0x1000, and in v2 of lane 0, once it has completed. -/
def memResult (o : Out) : Option (Nat × Option Word) :=
  (settled o).map (fun s => (memNat s.mem 0x1000 8, (s.gang? 0 0).map (fun g => regGet (g.lane 0).regs 2)))

theorem test_ldI : memResult (mem1 [0x1008] 0xFE (.ldI .b8 (.v 2) (.v 0) 0xF8)) = some (0xFE, some 0xFFFF_FFFF_FFFF_FFFE) := by decide +kernel
theorem test_ldN_little_endian : memResult (mem1 [0x1000] 0x8877665544332211 (.ldN .b32 (.v 2) (.v 0) 1)) =
    some (0x8877665544332211, some 0x88776655) := by decide +kernel
theorem test_st : memResult (mem1 [0x1000, 0xABCD] 0x1111_1111 (.st .b16 (.v 1) (.v 0) 1)) = some (0xABCD_1111, some 0) := by decide +kernel
theorem test_ld_misaligned : trapOf (fun g => { regs [0x1001] g with k := g.k }) (.ldN .b16 (.v 2) (.v 0) 0) =
    some (0x0B, 0xFFFF_FFFF, 0x1001) := by decide +kernel
theorem test_ld_past : trapOf (regs [0x0100_0000_0000_0000]) (.ldN .b8 (.v 2) (.v 0) 0) = some (0x0C, 0xFFFF_FFFF, 0) := by decide +kernel
/-- The rows of the table beside R196. -/
theorem test_aincw : memResult (mem1 [0x1000, 10] 12 (.aincw false .plain (.v 2) (.v 0) (.v 1))) = some (0, some 12) ∧
    memResult (mem1 [0x1000, 10] 5 (.aincw false .plain (.v 2) (.v 0) (.v 1))) = some (6, some 5) := by decide +kernel
theorem test_adecw : memResult (mem1 [0x1000, 10] 0 (.adecw false .plain (.v 2) (.v 0) (.v 1))) = some (10, some 0) ∧
    memResult (mem1 [0x1000, 10] 5 (.adecw false .plain (.v 2) (.v 0) (.v 1))) = some (4, some 5) := by decide +kernel
theorem test_aaddb : memResult (mem1 [0x1000, 10, 100] 90 (.aaddb false .plain (.v 2) (.v 0) (.v 1))) = some (100, some 90) ∧
    memResult (mem1 [0x1000, 0x20, 0xFFFF_FFFF] 0xFFFF_FFF0 (.aaddb false .plain (.v 2) (.v 0) (.v 1))) =
      some (0xFFFF_FFF0, some 0xFFFF_FFF0) := by decide +kernel
theorem test_acas : memResult (mem1 [0x1000, 7, 5] 5 (.acas true .plain (.v 2) (.v 0) (.v 1))) = some (7, some 5) := by decide +kernel
theorem test_lds_space : trapOf (regs [0x80000]) (.ldsN .b8 (.v 2) (.v 0) 0) = some (0x0C, 0xFFFF_FFFF, 0x0100_0000_0008_0000) := by decide +kernel
theorem test_sts : (settled (exec (.sts .b16 (.v 1) (.v 0) 0) (st (regs [0x7FFFE, 0xBEEF]) id 1))).bind (fun s =>
    (s.block? 0).map (fun b => memNat b.ds 0x7FFFE 2)) = some 0xBEEF := by decide +kernel
/-- The tree of R122 with three members: the fourth leaf is the identity. -/
theorem test_group_tree : groupValue 3 (fAdd fmtF32 .rne) [0x3F80_0000, 0x3380_0000, 0x3380_0000, 0x8000_0000] = 0x3F80_0000 := by decide +kernel

/-! ### Matrix, sampling, synchronisation (R91 to R105, R200 to R226, R236 to R244) -/

theorem test_mxclr_traps_divergent : (nextOf (exec (.mxclr 0) (st id (fun b => { b with cfg :=
    { b.cfg with handler := 0x20000, accept := BitVec.allOnes 32 } }) 1))).bind (fun s => (s.gang? 0 0).map (·.tcause)) = some 0x05 := by decide +kernel
theorem test_toss_weights : tossWeight 0x3FD3_C000 0x4000_0000 0x3F80_0000 = 3037000500 ∧
    tossWeight 0x3FA7_8000 0x4000_0000 0x3F80_0000 = 2147483647 := by decide +kernel
theorem test_toss_weight_table : weightTable 64 = 0xD744_FCCB ∧ weightTable 128 = 0xB504_F334 := by decide +kernel
theorem test_toss_weight_nan : tossWeight 0x7FC0_0000 0x4000_0000 0x3F80_0000 = 0 ∧
    tossWeight 0x4000_0000 0x4000_0000 0x3F80_0000 = 4294967295 := by decide +kernel
theorem test_drain_value : fmtF32.ofVal .rne false (scaledVal (-6400) (-7) (-6)) = 0xBF48_0000 := by decide +kernel
theorem test_qpop_unbound : trapOf id (.qpop (.v 2) 1) = some (0x0E, 0xFFFF_FFFF, 1) := by decide +kernel
/-- A lone gang at `bar.b`: all its lanes have arrived, and go on (R200). -/
theorem test_barB : (gangOf (exec .barB (st))).map (fun g => (g.held, (g.lane 0).pc)) = some ([], 0x10008) := by decide +kernel
theorem test_fence_goes_on : (gangOf (exec (.fence .dev .ar) (st))).map (fun g => (g.held, (g.lane 0).pc)) = some ([], 0x10008) := by decide +kernel
theorem test_clreq : v2 [] (.clreq (.v 2)) = some 1 := by decide +kernel
theorem test_escrow_writes : (nextOf (exec (.escrow (.v 0) (.v 1)) (st (regs [0x0012_3456_789A_BCDE, 0x42]) id 1))).map
    (fun s => (memNat s.mem 0 8, memNat s.mem 8 8)) = some (0x4212_3456_789A_BCDE, 1) := by decide +kernel
theorem test_secin : (nextOf (exec .secin (st))).bind (fun s => (s.partition? 0).map (·.c0)) = some 1 := by decide +kernel

/-! ### Steps of other agents, and the step -/

/-- One partition, with one entry in launch queue 0. -/
def oneEntry : State := { st id with parts := State.reset.parts.set 0 (some { queues := [{ base := 0x4000, tail := 1 }] }) }

theorem test_submission_head : (nextOf (exec (.launchSubmission 0 0 0 false) oneEntry)).bind
    (fun s => (s.partition? 0).map (fun p => (p.queues.getD 0 {}).head)) = some 1 := by decide +kernel
theorem test_duty_falls : (nextOf (execDutyTick 6000 (List.replicate 8 50) State.reset)).map (fun s => (s.tower 0).duty) = some 15 := by decide +kernel
theorem test_link_down : (nextOf (execLinkDown 0 1 State.reset)).map (fun s => s.mailbox.fatal) = some true := by decide +kernel
theorem test_tlim_clamps : (nextOf (execRegisterWrite .tlim 200 State.reset)).map (·.tlim) = some 100 := by decide +kernel
theorem test_atomicop : (nextOf (execHostAtomicopReject State.reset)).map (·.hostReply) = some .unsupportedRequest := by decide +kernel
theorem test_aperture : (nextOf (execHostApertureWrite 0x40 [0xAB] State.reset)).map (fun s => cellGet s.mem 0x40) = some 0xAB := by decide +kernel
theorem test_thermal_trip_needs_heat : (nextOf (execThermalTrip 0 State.reset)).map (fun s => (s.tower 0).clockStopped) = some false := by decide +kernel
/-- A step fetches the clause at the entry and runs its word: `movi.i64 v2, #7`. -/
theorem test_step_runs : (nextOf (step (State.reset.withFetchWord 32 0x3BC1_0007))).bind (fun s =>
    (s.gang? 0 0).map (fun g => (regGet (g.lane 5).regs 2, (g.lane 5).pc))) = some (7, 0x10008) := by decide +kernel
theorem test_reset_steps : (nextOf (step State.reset)).isSome = true := by decide +kernel

/-- The published value of SHAKE256 of the empty message (FIPS 202): its first bytes. -/
theorem test_shake256_empty : (shake256 []).take 4 = [0x46, 0xb9, 0xdd, 0x2b] := by decide +kernel
/-! ### For each statement, a state and operands that meet its hypotheses -/

theorem ok_eq {ε α : Type} (e : Except ε α) (v : α) (h : e.toOption = some v) : e = .ok v := by
  cases e <;> simp_all [Except.toOption]

theorem err_eq {ε α : Type} (e : Except ε α) (v : ε) (h : (match e with | .error x => some x | .ok _ => none) = some v) : e = .error v := by
  cases e <;> simp_all

theorem reaches_of (c : Ctx) (s : State) (k : AccKind) (home : Loc → Bool) (reads : Bool) (n : Nat) (ls : List Nat) (ea : Nat → Nat)
    (loc : Nat → Loc × Bool)
    (h : ls.all (fun l => decide (ea l < 2 ^ 56) && decide (ea l % n = 0) && (match walk s (s.coreTlb c.iss.core) c.blk.cfg.asid (ea l) with
      | .ok x leaf => x == (loc l).1 && leaf.allows c.blk.cfg.smode k && leaf.ms == (loc l).2
      | .fault _ => false) && home (loc l).1 && (!reads || s.failing.isEmpty)) = true)
    {own : Nat → Nat → Bool} {lanes : Nat → LaneBits} : c.Reaches s k home reads n ls ea loc own lanes := by
  intro l hl
  have h1 := List.all_eq_true.mp h l hl
  cases hw : walk s (s.coreTlb c.iss.core) c.blk.cfg.asid (ea l) with
  | fault f => simp [hw] at h1
  | ok x leaf =>
    simp only [hw, Bool.and_eq_true, decide_eq_true_eq, beq_iff_eq, Bool.or_eq_true, Bool.not_eq_true', List.isEmpty_iff] at h1
    obtain ⟨⟨⟨⟨a, b⟩, ⟨rfl, d⟩, m⟩, e⟩, f⟩ := h1
    exact ⟨a, b, ⟨leaf, rfl, d, m⟩, e, fun hr i _ _ hf => by
      obtain ⟨p, _, hm, _⟩ := hf
      rw [hr] at f
      simp_all⟩

/-- The window at its last legal base, and the index registers at the last register. -/
def top (g : Gang) : Gang := { g with wb := 416, lanes := g.lanes.map (fun l => { l with x := [511, 511, 511, 511] }) }

theorem top_ctx : ctx? (st top) = some (cx top) := by decide +kernel
theorem top_ok (rs : List Src) (h : ((cx top).check rs).isOk = true) : (cx top).Ok rs := ok_of _ _ h

theorem wit_DecodeOfEncodeIsTheInstruction : ∃ (i : Instr) (w : Nat), i.wf = true ∧ encode i = some w :=
  ⟨.shli .b64 (.v 95) (.ix 3) 63, _, holds, rfl⟩

theorem wit_EveryStepKeepsTheInvariant : (∃ s t : State, s.Inv ∧ step s = .next t) ∧ (State.reset.withFetchWord 32 0x3BC1_0007).Inv :=
  ⟨⟨State.reset, (next_of (step State.reset) holds).choose, by unfold State.Inv; decide +kernel,
    (next_of (step State.reset) holds).choose_spec⟩, by unfold State.Inv; decide +kernel⟩

/-- The block with its lanes inside a clause, one word before its end. -/
def inClause (g : Gang) : Gang := { g with lanes := g.lanes.map (fun l => { l with pc := 0x10004, cpos := 1 }) }

/-- The clause of one word at 0x10000, the word being `w`. -/
def coded (w : Nat) (f : Gang → Gang) : State := (State.reset.withFetchWord 32 w).setBlock 0 { loadBlock with gangs := [f loadGang] }

/-- A path of all lanes in the clause. -/
def inPath : Path := ⟨0x10004, false, BitVec.allOnes 32⟩
/-- A path of all lanes at the header. -/
def hdrPath : Path := ⟨0x10000, true, BitVec.allOnes 32⟩

theorem wit_ADecodedWordIsTheEncodingOfItsInstruction : ∃ (w : Nat) (i : Instr), w < 2 ^ 32 ∧ decodes w = some i :=
  ⟨0xC640_0000, .mxrel, holds, holds⟩

/-- The bounds of each range of unassigned opcodes. -/
theorem wit_UnassignedMajorOpcodesAreIllegal : (∀ o ∈ [0x05, 0x0F, 0x46, 0x5F, 0x62, 0x67, 0x7F, 0x83, 0x9F, 0xB7, 0xBF, 0xD6, 0xD7],
    ((o ∈ [0x05, 0x07, 0x0A, 0x0B, 0x0C, 0x0D, 0x0E, 0x0F, 0x3E, 0x6D, 0x6E, 0x6F, 0x76, 0x77, 0x7A, 0x7B, 0x7D, 0x7E, 0x7F] ∨
      (0x46 ≤ o ∧ o ≤ 0x5F) ∨ (0x62 ≤ o ∧ o ≤ 0x67) ∨
      o ∈ [0x83, 0x8C, 0x8D, 0x8E, 0x8F, 0x93, 0x95, 0x96, 0x97, 0x99, 0x9A, 0x9B, 0x9D, 0x9E, 0x9F] ∨ (0xB7 ≤ o ∧ o ≤ 0xBF) ∨
      o = 0xD6 ∨ o = 0xD7) ∧ decodes (o * 2 ^ 24) = none)) ∧
    ∃ (s : State) (b : Block) (g : Gang), s.block? 0 = some b ∧ b.gangs[0]? = some g ∧ inPath.header = false ∧ codeAt s 0 b inPath.pc = .ok 0xD7000000 :=
  ⟨holds, coded 0xD7000000 inClause, { loadBlock with gangs := [inClause loadGang] }, inClause loadGang, holds,
    holds, rfl, ok_eq _ _ holds⟩

/-- What a statement about the word at a path asks: the block, the gang, and the code there. -/
def atPath (s : State) (p : Path) (ws : List (Nat × Nat)) : Bool :=
  match s.block? 0 with
  | none => false
  | some b => (b.gangs[0]?).isSome && ws.all (fun x => (codeAt s 0 b (p.pc + BitVec.ofNat 56 x.1)).toOption == some x.2)

/-- The gang two words before the end of its clause. -/
def twoLeft (g : Gang) : Gang := { g with lanes := g.lanes.map (fun l => { l with pc := 0x10004, cpos := 2 }) }

/-- A word in a clause, behind no header and no prefix: one that decodes, one that does not, one before its last word that is a
control transfer. -/
theorem wit_AStepRunsTheDecodedWord_clause : atPath (coded 0x08000000 inClause) inPath [(0, 0x08000000)] = true ∧
    isPfxWord 0x08000000 = false ∧ decodes 0x08000000 = some .exit ∧ (inClause loadGang).wordsLeftMax inPath.lanes ≤ 1 ∧
    atPath (coded 0 inClause) inPath [(0, 0)] = true ∧ isPfxWord 0 = false ∧ decodes 0 = none ∧
    isControl .exit = true ∧ 1 < (twoLeft loadGang).wordsLeftMax inPath.lanes := by
  decide +kernel

/-- A header, and a word that is none. -/
theorem wit_AStepRunsTheDecodedWord_header : atPath (State.reset.withFetchWord 32 0x08000000) hdrPath [(0, oneWordHeader), (4, 0x08000000)] = true ∧
    decodeHeader oneWordHeader = some { wait := 0, flagA := none, flagB := none, length := 1, yieldHint := false } ∧ hdrPath.header = true ∧
    decodeHeader 0xFFFFFFFF = none := by
  decide +kernel

/-- Two words of a clause. -/
def prefixed (w1 w2 : Nat) : State :=
  let s := coded w1 twoLeft
  { s with mem := memSetNat s.mem 0x10008 4 w2 }

/-- Behind a prefix: a fused word, no word, a word that takes no fourth operand, a control transfer, another prefix; and a prefix whose
options are none. -/
theorem wit_AStepRunsTheDecodedWord_prefix :
    (∀ w ∈ [0x40A1C306, 0, 0x80808202, 0x08000000, 0xFE15A004], atPath (prefixed 0xFE15A004 w) inPath [(0, 0xFE15A004), (4, w)] = true) ∧
    isPfxWord 0xFE15A004 = true ∧ (decodePfx 0xFE15A004).map (·.cZero) = some false ∧ (twoLeft loadGang).wordsLeft inPath.lanes = 2 ∧
    (decodes 0x40A1C306 = some (.fmaF .f32 (.v 7) (.v 6) (.v 6)) ∧ isVectorOp (opOf 0x40A1C306) = true ∧
      isControl (.fmaF .f32 (.v 7) (.v 6) (.v 6)) = false ∧ takesFourth (.fmaF .f32 (.v 7) (.v 6) (.v 6)) = true) ∧
    (takesFourth (.ldN .b32 (.v 1) (.v 2) 2) = false ∧ isVectorOp (opOf 0x08000000) = false) ∧ isPfxWord 0xFEFFFFFF = true ∧ decodePfx 0xFEFFFFFF = none := by
  decide +kernel

theorem wit_AStepRunsTheDecodedWord_second : ∃ (s : State) (b : Block) (g : Gang), s.second = some (0, 0, inPath) ∧
    ({ s with second := none } : State).block? 0 = some b ∧ b.gangs[0]? = some g ∧ inPath.still g ≠ 0 ∧
    (peekWord { s with second := none } 0 b { inPath with lanes := inPath.still g }).any
      (wordFull { s with second := none } 0 0 b g { inPath with lanes := inPath.still g }) = false :=
  ⟨{ coded 0x08000000 inClause with second := some (0, 0, inPath) }, { loadBlock with gangs := [inClause loadGang] }, inClause loadGang,
    rfl, holds, holds, holds, holds⟩

/-- A second path at a header that may still issue. -/
theorem wit_AStepRunsTheDecodedWord_secondHeader : ∃ (s : State) (b : Block) (g : Gang), s.second = some (0, 0, hdrPath) ∧ hdrPath.header = true ∧
    ({ s with second := none } : State).block? 0 = some b ∧ b.gangs[0]? = some g ∧ hdrPath.still g ≠ 0 ∧ headerOpen { s with second := none } 0 b g hdrPath.pc = true ∧
    (peekWord { s with second := none } 0 b { hdrPath with lanes := hdrPath.still g }).any
      (wordFull { s with second := none } 0 0 b g { hdrPath with lanes := hdrPath.still g }) = false :=
  ⟨{ State.reset.withFetchWord 32 0x08000000 with second := some (0, 0, hdrPath) }, loadBlock, loadGang, rfl, rfl, holds, holds, holds,
    holds, holds⟩

theorem wit_AStepRunsTheDecodedWord_turn : ∃ (s : State) (b : Block) (g : Gang) (p : Path), s.second = none ∧ (atOnce s).isNone = true ∧
    s.turns = [.issue 0 0] ∧ (({ s with turns := [] } : State).core 0).block = some b ∧ (({ s with turns := [] } : State).core 0).bind = .running ∧
    (({ s with turns := [] } : State).core 0).granted.getLsbD 0 = false ∧ (({ s with turns := [] } : State).tower 0).clockStopped = false ∧
    (({ s with turns := [] } : State).core 0).opened < (({ s with turns := [] } : State).tower 0).duty ∧
    b.gangs[0]? = some g ∧ readyGangs { s with turns := [] } 0 b 0 = [(0, [p])] :=
  ⟨{ coded 0x08000000 inClause with turns := [.issue 0 0] }, { loadBlock with gangs := [inClause loadGang] }, inClause loadGang, inPath,
    rfl, holds, rfl, holds, holds, holds, holds, holds, holds, holds⟩

/-- A gang with a path to issue; a gang suppressed to the last cycle of its yield; a promoted lane, and one at the count before. -/
theorem wit_TheArbiterAndThePathsChosen :
    (0, [inPath]) ∈ readyGangs (coded 0x08000000 inClause) 0 { loadBlock with gangs := [inClause loadGang] } 0 ∧
    (∃ (b : Block) (gs : List (Nat × List Path)), gs ≠ [] ∧ (∀ x ∈ gs, x.1 < b.gangs.length) ∧ (gs.map (·.1)).Pairwise (· < ·) ∧
      (b.gangs.getD 4 {}).yielded = some 3 ∧ (11 : Nat) ≤ 3 + 8) ∧
    ∃ (g : Gang) (ps : List Path), g.lanes.length = 32 ∧ ps.Nodup ∧ (∀ p ∈ ps, ∀ q ∈ ps, p ≠ q → p.lanes &&& q.lanes = 0) ∧
      (g.lane 2).skip = 64 ∧ (g.lane 1).skip = 63 :=
  ⟨holds,
   ⟨{ loadBlock with gangs := List.replicate 4 loadGang ++ [{ loadGang with yielded := some 3 }] }, [(0, [inPath]), (4, [inPath])], holds, holds,
    holds, holds, holds⟩,
   { loadGang with lanes := loadGang.lanes.mapIdx (fun l x => { x with skip := if l = 2 then 64 else if l = 1 then 63 else 0 }) },
   [⟨0x10000, true, 1⟩, ⟨0x10004, false, 2⟩, ⟨0x10008, false, 4⟩], holds, holds, holds, holds, holds⟩

/-- The operands at the last register they can name. -/
def last4 : List Src := [Dst.src (.v 95), .ix 3, .v 95, (cx top).fourth (.v 95)]

theorem last4_ok : (cx top).Ok last4 := top_ok _ holds

theorem sub4 (rs : List Src) (h : rs.all (fun r => last4.contains r) = true) : (cx top).Ok rs := by
  intro r hr
  have := List.all_eq_true.mp h r hr
  exact last4_ok r (List.contains_iff_mem.mp this)

theorem wit_IntegerArithmetic : ∃ (s : State) (c : Ctx) (d : Dst) (a b : Src), ctx? s = some c ∧ c.Ok [d.src, a, b] ∧
    c.Ok [d.src, a, b, c.fourth d] ∧ c.Ok [d.src, a] :=
  ⟨st top, cx top, .v 95, .ix 3, .v 95, top_ctx, sub4 _ holds, sub4 _ holds, sub4 _ holds⟩

theorem wit_IntegerLogicShiftAndBitWords : ∃ (s : State) (c : Ctx) (w : Width) (d : Dst) (a b : Src) (i : BitVec 8), ctx? s = some c ∧
    c.Ok [d.src, a, b] ∧ c.Ok [d.src, a, b, c.fourth d] ∧ c.Ok [d.src, a] ∧ i.toNat < w.bits :=
  ⟨st top, cx top, .b64, .v 95, .ix 3, .v 95, 63, top_ctx, sub4 _ holds, sub4 _ holds, sub4 _ holds, holds⟩

theorem wit_IntegerComparesSetMaskBits : ∃ (s : State) (c : Ctx) (a b : Src), ctx? s = some c ∧ c.Ok [a, b] :=
  ⟨st top, cx top, .ix 3, .v 95, top_ctx, sub4 _ holds⟩

theorem wit_SelectImmediateAndAddressWords : ∃ (s : State) (c : Ctx) (d : Dst) (a b : Src), ctx? s = some c ∧ c.Ok [d.src, a, b] ∧
    c.Ok [d.src, a] ∧ c.Ok [d.src] :=
  ⟨st top, cx top, .v 95, .ix 3, .v 95, top_ctx, sub4 _ holds, sub4 _ holds, sub4 _ holds⟩

theorem wit_ElementAndMaskWritesOfAWord : ∃ c : Ctx, (31 < c.g.lanes.length ∧ c.iss.active.getLsbD 31 = true ∧ c.g.dstIndex 31 (.v 95) = some 511 ∧
    c.g.dstIndex 31 (.v 95) ≠ some 510 ∧ 7 < Width.b8.elems) ∧ 0 < c.g.lanes.length ∧ c.iss.active.getLsbD 0 = false :=
  ⟨cx top id 0x80000000, holds, holds, holds⟩

theorem wit_ElementAndMaskWritesOfAWord_masks : ∃ l b : Nat, l < 32 ∧ b < 8 := ⟨31, 7, holds, holds⟩

theorem wit_WordsGoOnOrAreHeld : ∃ (s : State) (c : Ctx) (g : Gang), ctx? s = some c ∧ 31 < g.lanes.length ∧ (s.core 255).bind = .idle ∧ 255 ≠ c.iss.core :=
  ⟨st top, cx top, top loadGang, top_ctx, holds, holds, holds⟩

theorem wit_RegisterWordsFrame : ∃ (i : Instr) (d : Dst) (rs : Ctx → List Src) (s t : State) (c : Ctx), regWord i = some (d, rs) ∧
    i.wf = true ∧ ctx? s = some c ∧ c.Ok (d.src :: rs c) ∧ exec i s = .next t :=
  ⟨.mad .b64 (.v 95) (.ix 3) (.v 95), _, _, st top, _, cx top, rfl, holds, top_ctx, sub4 _ holds,
    (next_of (exec (.mad .b64 (.v 95) (.ix 3) (.v 95)) (st top)) holds).choose_spec⟩

/-- The window base one block higher: v80 is the first register outside. -/
def past (g : Gang) : Gang := { g with wb := 432, lanes := g.lanes.map (fun l => { l with x := [512, 511, 0, 0] }) }

theorem past_ctx : ctx? (st past) = some (cx past) := by decide +kernel

theorem wit_OperandsOutsideTheAllotmentTrap : ∃ (s : State) (c : Ctx), ctx? s = some c ∧
    ((∀ j : Fin 96, Src.v j ∈ [.v 79, .ix 0] → c.g.wb + j.val < c.blk.cfg.allot) ∧ c.blk.cfg.allot ≤ c.g.wb + (80 : Fin 96).val) ∧
    ((∀ j : Fin 96, Src.v j ∈ [.ix 1] ++ [.v 79] → c.g.wb + j.val < c.blk.cfg.allot) ∧ (∀ m : Fin 4, Src.ix m ∈ [.ix 1] → c.SrcOk (.ix m)) ∧
      0 ∈ c.lanes ∧ c.blk.cfg.allot ≤ ((c.g.lane 0).x.getD (0 : Fin 4).val 0).toNat ∧
      ∀ l' ∈ c.lanes, l' < 0 → ((c.g.lane l').x.getD (0 : Fin 4).val 0).toNat < c.blk.cfg.allot) ∧
    c.Ok [.v 79, .ix 1] ∧
    c.check [Dst.src (.v 80), .z, .z] = .error { cause := 0x03, lane := 0, info := 512 } ∧
    c.check [Dst.src (.v 80), .z] = .error { cause := 0x03, lane := 0, info := 512 } :=
  ⟨st past, cx past, past_ctx, holds, ⟨holds, fun m hm => ok_of _ [.ix 1] holds _ hm, holds,
    holds, fun _ _ h => absurd h (Nat.not_lt_zero _)⟩, ok_of _ _ holds, err_eq _ _ holds, err_eq _ _ holds⟩

theorem wit_FloatingPointWordsRoundOnce : ∃ (s : State) (c : Ctx) (d : Dst) (a b : Src), ctx? s = some c ∧ c.Ok [d.src, a, b] ∧
    c.Ok [d.src, a, b, c.fourth d] ∧ c.Ok [d.src, a] ∧ c.Ok [a, b] :=
  ⟨st top, cx top, .v 95, .ix 3, .v 95, top_ctx, sub4 _ holds, sub4 _ holds, sub4 _ holds, sub4 _ holds⟩

theorem wit_FloatingPointFollowsTheConventions :
    (fmtF32.val 0x7FC00001).isNan = true ∧ (∃ n m e, fmtBf16.val 0x3F80 = .fin n m e) ∧ (∃ n m e, 0xBF000000 < 2 ^ fmtF32.width ∧ fmtF32.val 0xBF000000 = .fin n m e) ∧
    (fmtF32.val 0xFF800000 = .inf true ∧ fmtF32.val 0x7F800000 = .inf false ∧ fClt fmtF32 0xFF800000 0x7F800000 = true) ∧
    (fmtE4m3 ∈ [fmtF32, fmtBf16, fmtE4m3, fmtE5m2] ∧ 0x7E < 2 ^ fmtE4m3.width ∧ (fmtE4m3.val 0x7E).isNan = false ∧ fmtE4m3.inf ≠ some (fmtE4m3.mag 0x7E)) ∧
    (0xFF80 < 2 ^ 16 ∧ (fmtBf16.val 0xFF80).isNan = false) :=
  ⟨holds, ⟨_, _, _, rfl⟩, ⟨_, _, _, holds, rfl⟩, holds, holds, holds⟩

theorem wit_SpecialFunctionsAreFlagBOperations :
    (∃ (s : State) (c : Ctx) (d : Dst) (a : Src), ctx? s = some c ∧ c.Ok [d.src, a]) ∧
    ∃ (s : State) (b : Block) (g : Gang) (o : Op), s.block? 0 = some b ∧ b.gangs[0]? = some g ∧ g.ops.find? (·.id == o.id) = some o ∧
      o.kind = .special ∧ o.masks = [] ∧ o.todo = [] ∧ o.group = none ∧ (∃ bits v, o.regs = [⟨31, 511, bits, v⟩]) ∧ 31 < g.lanes.length := by
  refine ⟨⟨st top, cx top, .v 95, .ix 3, top_ctx, sub4 _ holds⟩, ?_⟩
  let o : Op := { id := 7, cls := .b, kind := .special, clauses := [], lanes := 1, regs := [⟨31, 511, 0xFFFFFFFF, 1⟩] }
  let f : Gang → Gang := fun g => { g with ops := [o], nextId := 8 }
  exact ⟨st f, { loadBlock with gangs := [f loadGang] }, f loadGang, o, holds, holds, holds, rfl, rfl, rfl, rfl,
    ⟨_, _, rfl⟩, holds⟩

/-- Four times a finite value, in units of 2^-149. -/
def quartersOf (x : Nat) : Option Int :=
  match fmtF32.val x with
  | .fin n m e => some (4 * (if n then -(m : Int) else m) * 2 ^ (e + 149).toNat)
  | _ => none

/-- The arguments of R88's table: a NaN, -0, both infinities, a negative value, 1.0, 127.0 and -149.0, 0.5, 0.75. -/
theorem wit_SpecialFunctionsAreFlagBOperations_cases : (fmtF32.val 0xFFC00001).isNan = true ∧ 0x80000000 % 2 ^ 31 = 0 ∧ 0xFF800000 % 2 ^ 31 = 0x7F800000 ∧
    (0xFF800000 : Nat) = 0x7F800000 + 2 ^ 31 ∧ 2 ^ 31 < 0xBF800000 ∧
    (∀ p ∈ [((508 : Int), 0x42FE0000), (-596, 0xC3150000), (-600, 0xC3160000), (2, 0x3F000000), (3, 0x3F400000)], quartersOf p.2 = some (p.1 * 2 ^ 149)) := by
  decide +kernel

theorem wit_ConversionsAndAmaxWords : ∃ (s : State) (c : Ctx) (p : Fin 4) (d : Dst) (a : Src), ctx? s = some c ∧ c.Ok [d.src, a] ∧
    (Instr.cvtt p d a .i8 .i32).wf = true ∧ (Instr.cvt p d a .e4m3 .f32).wf = true ∧ (Instr.cvto p d a .e5m2 .f32).wf = true ∧ (Instr.cvt p d a .f32 .e4m3).wf = true ∧ c.Ok [d.src] ∧ c.Ok [a] :=
  ⟨st top, cx top, 3, .v 95, .ix 3, top_ctx, sub4 _ holds, holds, holds, holds, holds, sub4 _ holds, sub4 _ holds⟩

theorem wit_BlockQuantisingWords : (∃ (s : State) (c : Ctx) (d : Dst) (a : Src), ctx? s = some c ∧ c.Ok [d.src, a]) ∧
    ∃ vs : List FVal, ∀ v ∈ vs, v.isZero = true ∨ v.isNan = true :=
  ⟨⟨st top, cx top, .v 95, .ix 3, top_ctx, sub4 _ holds⟩, [fmtF32.val 0x80000000, fmtF32.val 0x7FC00000], holds⟩

theorem wit_ShufflesVotesAndReductions : ∃ (s : State) (c : Ctx) (w : Width) (d : Dst) (a b : Src) (i : BitVec 8), ctx? s = some c ∧
    c.Ok [d.src, a, b] ∧ c.Ok [d.src, a] ∧ i.toNat < 32 * w.elems ∧ c.Ok [d.src] ∧ c.Ok [a] :=
  ⟨st top, cx top, .b8, .v 95, .ix 3, .v 95, 255, top_ctx, sub4 _ holds, sub4 _ holds, holds, sub4 _ holds,
    sub4 _ holds⟩

theorem wit_MaskWordsChangeTheActiveLanesBits : ∃ (s : State) (c : Ctx) (r : Src) (x : Dst), ctx? s = some c ∧ c.g.m.length = 8 ∧ c.Ok [r] ∧ c.Ok [x.src] :=
  ⟨st top, cx top, .ix 3, .v 95, top_ctx, holds, sub4 _ holds, sub4 _ holds⟩

theorem wit_QueriesGiveTheSelectedValue : ∃ (s : State) (c : Ctx) (d : Dst) (a : Src), ctx? s = some c ∧ c.Ok [d.src] ∧ (0x1C : BitVec 8).toNat ≤ 0x1C ∧
    0x1C < (0x1D : BitVec 8).toNat ∧ c.Ok [d.src, a] ∧ (∃ p : Place, p.blk.cfg.det = false) ∧ ∃ p : Place, p.blk.cfg.det = true :=
  ⟨st top, cx top, .v 95, .ix 3, top_ctx, sub4 _ holds, holds, holds, sub4 _ holds,
    ⟨(cx top).place (st top), holds⟩, ⟨(cx id (fun b => { b with cfg := { b.cfg with det := true } })).place (st id), holds⟩⟩

/-- Base 416 is the last legal one of an allotment of 512, 432 the first that is not. -/
theorem wit_WindowAndIndexWords : ∃ (s : State) (c : Ctx) (d : Dst) (a : Src), ctx? s = some c ∧
    (let A : Int := c.blk.cfg.allot
     let W : Int := min 96 A
     let legal := fun (nb : Int) => 0 ≤ nb ∧ nb % 16 = 0 ∧ nb + W ≤ A
     legal (16 * (26 : BitVec 8).toNat) ∧ ¬ legal (16 * (27 : BitVec 8).toNat) ∧ legal c.g.wb ∧ legal (c.g.wb + 16 * (0xE6 : BitVec 8).toInt) ∧
     ¬ legal (c.g.wb + 16 * (1 : BitVec 8).toInt) ∧ ¬ legal (c.g.wb + 16 * (0xE5 : BitVec 8).toInt)) ∧ c.Ok [a] ∧ c.Ok [d.src] ∧
    (∃ e, (cx past).check [.ix 0] = .error e) ∧ ctx? (st past) = some (cx past) ∧ ∃ e, (cx past).check [Dst.src (.v 80)] = .error e :=
  ⟨st top, cx top, .v 95, .ix 3, top_ctx, holds, sub4 _ holds, sub4 _ holds,
    ⟨_, err_eq _ _ rfl⟩, past_ctx, ⟨_, err_eq _ _ rfl⟩⟩
theorem wit_BranchesJumpsAndCalls : ∃ (s : State) (c : Ctx) (a : Src), ctx? s = some c ∧ c.Ok [a] ∧
    (∀ l ∈ c.lanes, (c.read l a).toNat < 2 ^ 56 ∧ (c.read l a).toNat % 4 = 0) ∧
    (∃ b : Src, (∀ l ∈ c.lanes, 2 ^ 56 ≤ (c.read l b).toNat) ∧ 0 ∈ c.lanes ∧ ∀ k ∈ c.lanes, k < 0 → (c.read k b).toNat < 2 ^ 56) ∧
    (∃ b : Src, (∀ k ∈ c.lanes, (c.read k b).toNat < 2 ^ 56) ∧ (c.read 0 b).toNat % 4 ≠ 0 ∧ ∀ k ∈ c.lanes, k < 0 → (c.read k b).toNat % 4 = 0) := by
  let f := regs [0x00FF_FFFF_FFFF_FFFC, 0x0100_0000_0000_0000, 0x2002]
  exact ⟨st f, cx f, .v 0, holds, ok_of _ _ holds, holds,
    ⟨.v 1, holds, holds, holds⟩, ⟨.v 2, holds, holds, holds⟩⟩

theorem wit_LoopsCountAndPark : ∃ (s : State) (c : Ctx) (d : Dst) (a : Src), ctx? s = some c ∧ c.g.lanes.length = 32 ∧ c.Ok [a] ∧ c.g.lm = 0 ∧ c.Ok [d.src] ∧
    ∃ (s' : State) (c' : Ctx), ctx? s' = some c' ∧ c'.Ok [a] ∧ c'.g.lm ≠ 0 ∧ c'.g.lanes.length = 32 := by
  let f : Gang → Gang := fun g => { g with lm := 0x80000000 }
  exact ⟨st top, cx top, .v 95, .ix 3, top_ctx, holds, sub4 _ holds, holds, sub4 _ holds,
    st f, cx f, holds, ok_of _ _ holds, holds, holds⟩

theorem wit_RejoinMaskWordsExitNopAndYield : ∃ (s : State) (c : Ctx) (d : Dst) (a : Src), ctx? s = some c ∧ c.g.j.length = 8 ∧ c.Ok [a] ∧ c.Ok [d.src] ∧ 31 < c.g.lanes.length :=
  ⟨st top, cx top, .v 95, .ix 3, top_ctx, holds, sub4 _ holds, sub4 _ holds, holds⟩

theorem wit_RejoinMaskWordsExitNopAndYield_exit : ∃ (s : State) (c : Ctx), ctx? s = some c ∧ c.g.inHandler = false ∧ c.g.lanes.length = 32 :=
  ⟨st top, cx top, top_ctx, holds, holds⟩

/-- In a handler of no trap: half of the handler lanes exit, and all of them. -/
theorem wit_RejoinMaskWordsExitNopAndYield_handler : ∀ m ∈ [(0xFFFF : LaneBits), BitVec.allOnes 32], ∃ (s : State) (c : Ctx), ctx? s = some c ∧ c.g.inHandler = true ∧
    c.g.pending = [] ∧ c.g.lanes.length = 32 ∧ c.iss.active = m ∧ ((∃ l < 32, m.getLsbD l = false ∧ (c.g.lane l).hl = true ∧ (c.g.lane l).exited = false) ↔ m = 0xFFFF) := by
  intro m hm
  let f : Gang → Gang := fun g => { g with inHandler := true, lanes := g.lanes.map (fun l => { l with hl := true }) }
  refine ⟨st f id m, cx f id m, ?_⟩
  simp only [List.mem_cons, List.not_mem_nil, or_false] at hm
  obtain rfl | rfl := hm <;>
    exact ⟨holds, holds, holds, holds, rfl, holds⟩

/-- A launch that accepts the trap causes 0x14 and 0x15 and no other. -/
def accepting (b : Block) : Block := { b with cfg := { b.cfg with handler := 0x20000, accept := 0x300000 } }

theorem wit_ATrapEntersTheHandlerOrKillsTheBlock : ∃ (s : State) (c : Ctx) (t : Trap), ctx? s = some c ∧ c.g.inHandler = false ∧ c.blk.cfg.handler ≠ 0 ∧
    c.blk.cfg.accept.getLsbD t.cause = true ∧ ∀ o ∈ c.g.ops, o.kind ≠ .special :=
  ⟨st id accepting 2, cx id accepting 2, { cause := 0x14, lane := 1 }, holds, holds, holds, holds, holds⟩

/-- The three grounds of a kill: the cause is not accepted, there is no handler, the gang is in it. -/
theorem wit_ATrapEntersTheHandlerOrKillsTheBlock_kills : ∀ f ∈ [((fun g => { g with inHandler := false }, accepting) : (Gang → Gang) × (Block → Block)),
    (fun g => { g with inHandler := false }, id), (fun g => { g with inHandler := true }, accepting)],
    ctx? (st f.1 f.2) = some (cx f.1 f.2) ∧
    ((cx f.1 f.2).g.inHandler = true ∨ (cx f.1 f.2).blk.cfg.handler = 0 ∨ (cx f.1 f.2).blk.cfg.accept.getLsbD 0x13 = false) ∧
    loadLaunch ∈ (st f.1 f.2).launches ∧ loadLaunch.id = (cx f.1 f.2).blk.cfg.lid ∧
    (∀ y ∈ (st f.1 f.2).launches, y.id = (cx f.1 f.2).blk.cfg.lid → y = loadLaunch) ∧ loadLaunch.kill = none := by
  intro f hf
  simp only [List.mem_cons, List.not_mem_nil, or_false] at hf
  obtain rfl | rfl | rfl := hf <;>
    exact ⟨holds, holds, holds, holds, holds, holds⟩

/-- A gang in its handler after a trap of the word at 0x3000, all its lanes handler lanes, `x` in every v0. -/
def handling (x : Word) (g : Gang) : Gang := { g with
  inHandler := true, resume := some { taddr := 0x3000, words := 2, cpos := 2, hdr := false, cause := 0x0C }
  lanes := g.lanes.map (fun l => { l with hl := true, regs := [x] }) }

theorem wit_ReturnFromTheHandler : (∀ x ∈ [(0xFF_FFFF_FFFF_FFFC : Word), 0x0100_0000_0000_0000, 2], ∃ (s : State) (c : Ctx) (r : Resume), ctx? s = some c ∧
      c.g.inHandler = true ∧ c.iss.active = c.g.lanesWhere (fun l => l.hl && !l.exited) ∧ c.g.pending = [] ∧ c.g.resume = some r ∧ c.Ok [.v 0] ∧
      c.read c.low (.v 0) = x) ∧
    (∃ (s : State) (c : Ctx), ctx? s = some c ∧ c.g.inHandler = false) ∧
    ∃ (s : State) (c : Ctx), ctx? s = some c ∧ c.g.inHandler = true ∧ c.iss.active ≠ c.g.lanesWhere (fun l => l.hl && !l.exited) := by
  refine ⟨?_, ⟨st top, cx top, top_ctx, holds⟩, st (handling 0) id 1, cx (handling 0) id 1, holds, holds, holds⟩
  intro x hx
  simp only [List.mem_cons, List.not_mem_nil, or_false] at hx
  obtain rfl | rfl | rfl := hx
  · exact ⟨st (handling 0xFF_FFFF_FFFF_FFFC), cx (handling 0xFF_FFFF_FFFF_FFFC), _, holds, holds, holds, holds, rfl,
      ok_of _ _ holds, holds⟩
  · exact ⟨st (handling 0x0100_0000_0000_0000), cx (handling 0x0100_0000_0000_0000), _, holds, holds, holds, holds, rfl,
      ok_of _ _ holds, holds⟩
  · exact ⟨st (handling 2), cx (handling 2), _, holds, holds, holds, holds, rfl,
      ok_of _ _ holds, holds⟩

/-- An S-mode block. -/
def super (b : Block) : Block := { b with cfg := { b.cfg with smode := true } }

theorem wit_SpecialRegisterWords : (∃ (s : State) (c : Ctx) (d : Dst) (a : Src), ctx? s = some c ∧ c.Ok [d.src] ∧ c.Ok [a] ∧ c.blk.cfg.smode = false ∧
      (∀ n ∈ [(0x40 : BitVec 8), 0x46], 0x40 ≤ n.toNat ∧ n.toNat ≤ 0x46) ∧
      (∀ n ∈ [(0x08 : BitVec 8), 0x3F, 0x47], (0x07 < n.toNat ∧ n.toNat < 0x40) ∨ 0x46 < n.toNat) ∧
      ∀ n ∈ [(0x05 : BitVec 8), 0x08], n ≠ 0x06 ∧ n ≠ 0x07) ∧
    ∃ (s : State) (c : Ctx) (p : Partition), ctx? s = some c ∧ c.Ok [Dst.src (.v 0)] ∧ c.blk.cfg.smode = true ∧ s.partition? c.blk.cfg.part.val = some p :=
  ⟨⟨st top, cx top, .v 95, .ix 3, top_ctx, sub4 _ holds, sub4 _ holds, holds, holds, holds, holds⟩,
    st id super, cx id super, _, holds, ok_of _ _ holds, holds, rfl⟩

/-! The tables of log entry 27 map the first GiB to itself. -/

/-- A block whose uniform table has 256 entries at 0x2000. -/
def table (b : Block) : Block := { b with cfg := { b.cfg with utab := 0x2000, ucount := 200 } }

/-- The registers of the witnesses below: a last aligned address of the GiB, an address of a peer's page, one past 2^56, one not mapped, one
misaligned, and numbers. -/
def many (g : Gang) : Gang := regs [0x3FFF_FFF8, 0x0100_0000_0000_0000, 0x4000_0000, 0x1001, 199, 200] g

/-- The same state with its first GiB mapped to the peer module 3. -/
def peered (s : State) : State := { s with mem := memSetNat s.mem 0x200000 8 (0x4D + 3 * 2 ^ 52) }

/-- A deterministic launch whose commit buffer holds `n` entries, of flush `f` and lane 31. -/
def staged (n f : Nat) (b : Block) : Block := { b with
  cfg := { b.cfg with det := true }
  teller := (List.range n).map (fun k => ⟨.store, 8, 0x3FFF_FFF8, 0x1122_3344_5566_7788, f, 31, 0, k⟩) }

theorem wit_LoadsReadTheirBytes : ∃ (s : State) (c : Ctx) (d : Dst) (a : Src) (i : BitVec 8) (loc : Nat → Loc × Bool), ctx? s = some c ∧ c.Ok [d.src, a] ∧
    c.Reaches s .read (fun _ => true) true 8 c.onLanes (fun l => (c.read l a + BitVec.ofInt 64 (i.toInt * 8)).toNat) loc ∧ c.blk.cfg.det = false ∧
    (∀ l ∈ c.lanes, (c.read l (.v 4)).toNat < c.blk.cfg.ucount) ∧
    c.Reaches s .read (fun _ => true) true 8 c.onLanes (fun l => (c.blk.cfg.utab.toNat + 8 * (c.read l (.v 4)).toNat) % 2 ^ 64) (fun _ => (.pkg 0x2638, false)) ∧
    FirstLane c.lanes (fun l => c.blk.cfg.ucount ≤ (c.read l (.v 5)).toNat) 0 ∧ (199 : BitVec 8).toNat < c.blk.cfg.ucount ∧
    c.blk.cfg.ucount ≤ (200 : BitVec 8).toNat ∧ c.lanes ≠ [] :=
  ⟨st many table, cx many table, .v 95, .v 0, 0, fun _ => (.pkg 0x3FFF_FFF8, false), holds, ok_of _ _ holds,
    reaches_of _ _ _ _ _ _ _ _ _ holds, holds, holds, reaches_of _ _ _ _ _ _ _ _ _ holds,
    ⟨holds, holds, fun _ _ h => absurd h (Nat.not_lt_zero _)⟩, holds, holds, holds⟩

theorem wit_LoadsReadTheirBytes_peer : ∃ (s : State) (c : Ctx) (a : Src) (loc : Nat → Loc × Bool), ctx? s = some c ∧ c.Ok [Dst.src .z, a] ∧
    (∀ own, c.Reaches s .read (fun _ => true) true 8 c.onLanes (fun l => (c.read l a).toNat) loc own) ∧ (∃ l ∈ c.onLanes, (loc l).1.isPeer = true) ∧ c.blk.cfg.det = true :=
  ⟨peered (st many (staged 1 0) 1), cx many (staged 1 0) 1, .v 0, fun _ => (.peer 3 0x3FFF_FFF8, false), holds, ok_of _ _ holds,
    fun _ => reaches_of _ _ _ _ _ _ _ _ _ holds, ⟨0, holds, rfl⟩, holds⟩

theorem wit_StoresWriteTheirBytes : ∀ (n f : Nat), (n, f) ∈ [(480, 0), (481, 0), (481, 1)] → ∃ (s : State) (c : Ctx) (a v : Src) (loc : Nat → Loc × Bool), ctx? s = some c ∧
    c.Ok [v, a] ∧ c.Reaches s .write (fun _ => true) false 8 c.onLanes (fun l => (c.read l a).toNat) loc ∧ c.blk.cfg.det = true ∧ c.onLanes ≠ [] ∧
    (if n = 480 then c.blk.teller.length + c.onLanes.length ≤ 512 else 512 < c.blk.teller.length + c.onLanes.length) ∧
    c.blk.earlierFlush c.g = decide (f = 0) := by
  intro n f h
  simp only [List.mem_cons, Prod.mk.injEq, List.not_mem_nil, or_false] at h
  let q : Gang → Gang := fun g => { many g with flush := 1 }
  obtain ⟨rfl, rfl⟩ | ⟨rfl, rfl⟩ | ⟨rfl, rfl⟩ := h
  · exact ⟨st q (staged 480 0), cx q (staged 480 0), .v 0, .v 1, fun _ => (.pkg 0x3FFF_FFF8, false), holds, ok_of _ _ holds,
      reaches_of _ _ _ _ _ _ _ _ _ holds, holds, holds, holds, holds⟩
  · exact ⟨st q (staged 481 0), cx q (staged 481 0), .v 0, .v 1, fun _ => (.pkg 0x3FFF_FFF8, false), holds, ok_of _ _ holds,
      reaches_of _ _ _ _ _ _ _ _ _ holds, holds, holds, holds, holds⟩
  · exact ⟨st q (staged 481 1), cx q (staged 481 1), .v 0, .v 1, fun _ => (.pkg 0x3FFF_FFF8, false), holds, ok_of _ _ holds,
      reaches_of _ _ _ _ _ _ _ _ _ holds, holds, holds, holds, holds⟩

theorem wit_StoresWriteTheirBytes_plain : ∃ (s : State) (c : Ctx) (a v : Src) (loc : Nat → Loc × Bool), ctx? s = some c ∧ c.Ok [v, a] ∧
    c.Reaches s .write (fun _ => true) false 8 c.onLanes (fun l => (c.read l a).toNat) loc ∧ c.blk.cfg.det = false :=
  ⟨st many, cx many, .v 0, .v 1, fun _ => (.pkg 0x3FFF_FFF8, false), holds, ok_of _ _ holds, reaches_of _ _ _ _ _ _ _ _ _ holds,
    holds⟩

theorem wit_AWriteChangesItsBytesAndNoOther : ∃ (s : State) (ini : List (Loc × List Byte)) (p i : Nat) (bs : List Byte), s.Inv ∧ i < bs.length ∧
    s.granulesFail p bs.length = false ∧
    (∀ w ∈ ini ++ [(.pkg p, bs)], ∀ q, w.1 = .pkg q → 0x1002 < q ∨ q + w.2.length ≤ 0x1002) ∧
    (∀ w ∈ ini ++ [(.pkg p, bs)], ∀ q, w.1 = .pkg q → s.partGranules q w.2.length = []) ∧ s.copied = false := by
  refine ⟨State.reset, [(.host 0x1000, [1])], 0x1000, 1, [1, 2], by unfold State.Inv; decide +kernel, holds, holds, ?_, ?_, holds⟩ <;>
    · intro w hw q hq
      simp only [List.cons_append, List.nil_append, List.mem_cons, List.not_mem_nil, or_false] at hw
      obtain rfl | rfl := hw
      · cases hq
      · cases hq
        decide +kernel

/-- A scratchpad with a failing group: covered whole, and in part, by a store. -/
theorem wit_AWriteChangesItsBytesAndNoOther_scratch : ∃ (b : Block) (o : Nat) (bs : List Byte), b.ds.wf = true ∧ 1 ∈ b.dsFail ∧ 3 ∈ b.dsFail ∧ o ≤ 8 * 1 ∧
    8 * 1 + 8 ≤ o + bs.length ∧ ¬ (o ≤ 8 * 3 ∧ 8 * 3 + 8 ≤ o + bs.length) ∧ (o + (bs.length - 1)) / 8 = 3 ∧ (o + 8) / 8 ∉ b.dsFail :=
  ⟨{ loadBlock with dsFail := [1, 3] }, 8, List.replicate 20 1, holds, holds, holds, holds, holds, holds, holds, holds⟩

theorem wit_AccessesThatFailTrapInOrder :
    (∃ (s : State) (c : Ctx), ctx? s = some c ∧ c.Ok [Dst.src .z, .v 1] ∧ c.Ok [.v 0, .v 1] ∧ FirstLane c.onLanes (fun l => 2 ^ 56 ≤ (c.read l (.v 1)).toNat) 0 ∧
      (∀ l ∈ c.onLanes, (c.read l (.v 3)).toNat < 2 ^ 56) ∧ FirstLane c.onLanes (fun l => (c.read l (.v 3)).toNat % 2 ≠ 0) 0 ∧
      (∀ l ∈ c.onLanes, (c.read l (.v 2)).toNat < 2 ^ 56 ∧ (c.read l (.v 2)).toNat % 8 = 0) ∧
      (∃ f, walk s (s.coreTlb c.iss.core) c.blk.cfg.asid (c.read 0 (.v 2)).toNat = .fault f) ∧ 0 ∈ c.onLanes ∧ c.g.lanes.length = 32 ∧ towerOf c.iss.core < s.towers.length ∧
      (s.tower (towerOf c.iss.core)).faults.length + 32 ≤ 64) ∧
    (∃ (s : State) (c : Ctx) (x : Loc) (f : Leaf), ctx? s = some c ∧ 0 ∈ c.onLanes ∧ walk s (s.coreTlb c.iss.core) c.blk.cfg.asid (c.read 0 (.v 0)).toNat = .ok x f ∧
      f.allows c.blk.cfg.smode .write = false) ∧
    ∃ (s : State) (c : Ctx) (pa : Nat) (f : Leaf), ctx? s = some c ∧ 0 ∈ c.onLanes ∧ walk s (s.coreTlb c.iss.core) c.blk.cfg.asid (c.read 0 (.v 0)).toNat = .ok (.pkg pa) f ∧
      f.allows c.blk.cfg.smode .read = true ∧ c.Fails s (BitVec.ofNat 32 (2 ^ 0)) (.pkg pa) 0 ∧ c.blk.cfg.det = false := by
  refine ⟨⟨st many, cx many, holds, ok_of _ _ holds, ok_of _ _ holds,
    ⟨holds, holds, fun _ _ h => absurd h (Nat.not_lt_zero _)⟩, holds,
    ⟨holds, holds, fun _ _ h => absurd h (Nat.not_lt_zero _)⟩, holds, ⟨_, rfl⟩, holds, holds,
    holds, holds⟩, ?_, ?_⟩
  · let s := st many
    exact ⟨{ s with mem := memSetNat s.mem 0x200000 8 0x15 }, cx many, .pkg 0x3FFF_FFF8, ⟨true, false, true, false, false⟩, holds, holds, holds, holds⟩
  · let s := st many
    exact ⟨{ s with failing := [0x1FF_FFFF] }, cx many, 0x3FFF_FFF8, ⟨true, true, true, false, false⟩, holds, holds, holds, holds,
      ⟨0x3FFF_FFF8, rfl, holds, fun ⟨_, h, _⟩ => absurd h (List.not_mem_nil)⟩, holds⟩

/-- Registers at the edges of a data scratchpad of 512 KiB: its last 8 bytes, its end, an odd place inside. -/
def pads (g : Gang) : Gang := regs [0x7FFF8, 0x80000, 0x7FFF1] g

theorem wit_ScratchpadWordsReadAndWriteTheirBytes : ∃ (s : State) (c : Ctx), ctx? s = some c ∧ s.Inv ∧ c.blk.ds.wf = true ∧ c.Ok [Dst.src (.v 95), .v 0] ∧
    (let off := fun (r : Src) (i : BitVec 8) l => ((c.read l r).toNat : Int) + i.toInt * 8
     let inside := fun r i l => 0 ≤ off r i l ∧ off r i l + 8 ≤ ((1024 * c.blk.cfg.dsp : Nat) : Int)
     (∀ l ∈ c.onLanes, inside (.v 0) 0 l ∧ off (.v 0) 0 l % 8 = 0 ∧ c.blk.dsBad (off (.v 0) 0 l).toNat 8 = none) ∧
     FirstLane c.onLanes (fun l => ¬ inside (.v 1) 0 l) 0 ∧ FirstLane c.onLanes (fun l => ¬ inside .z 0xFF l) 0 ∧ (∀ l ∈ c.onLanes, inside (.v 2) 0 l) ∧
     FirstLane c.onLanes (fun l => off (.v 2) 0 l % 8 ≠ 0) 0 ∧ ∀ m ∈ c.onLanes, 31 < m → off (.v 0) 0 m ≠ off (.v 0) 0 31) :=
  ⟨st pads, cx pads, holds, by unfold State.Inv; decide +kernel, holds, ok_of _ _ holds, holds,
    ⟨holds, holds, fun _ _ h => absurd h (Nat.not_lt_zero _)⟩, ⟨holds, holds, fun _ _ h => absurd h (Nat.not_lt_zero _)⟩,
    holds, ⟨holds, holds, fun _ _ h => absurd h (Nat.not_lt_zero _)⟩, holds⟩
/-- The rank `r` of an ensemble of `n` blocks in a grid of `k`. -/
def rank (n k r : Nat) (b : Block) : Block := { b with cfg := { b.cfg with ens := n, grid := k, index := r } }

/-- Such a block on core 0 of rank 0, and one on core 1 of rank 1. -/
def two (n k : Nat) (f : Gang → Gang) : State := (st f (rank n k 0)).setBlock 1 (rank n k 1 { loadBlock with gangs := [f loadGang] })

theorem wit_GroupLoadsCombineTheRanks : ∃ (s : State) (c : Ctx) (d : Dst) (a : Src), ctx? s = some c ∧ c.Ok [d.src, a] ∧ 1 ≤ c.blk.cfg.ens ∧ c.blk.cfg.ens ≤ 4 ∧
    (∀ l ∈ c.lanes, (c.read l a).toNat + 8 ≤ 1024 * c.blk.cfg.dsp ∧ (c.read l a).toNat % 8 = 0) ∧ s.deadRanks c.blk = [] ∧
    (∀ m b, s.block? m = some b → b.dsFail = []) := by
  refine ⟨two 3 2 pads, cx pads (rank 3 2 0), .v 95, .v 0, holds, ok_of _ _ holds, holds, holds,
    holds, holds, ?_⟩
  intro m b hb
  have h : ((two 3 2 pads).cores.all (fun k => k.block.all (fun b => b.dsFail == []))) = true := by decide +kernel
  have hm : ((two 3 2 pads).core m).block = some b := hb
  by_cases hl : m < (two 3 2 pads).cores.length
  · have h2 := List.all_eq_true.mp h ((two 3 2 pads).core m) (by
      simp only [State.core, List.getD_eq_getElem?_getD, List.getElem?_eq_getElem hl, Option.getD_some]; exact List.getElem_mem hl)
    rw [hm] at h2
    simpa using h2
  · have : (two 3 2 pads).core m = {} := by
      simp [State.core, List.getD_eq_getElem?_getD, List.getElem?_eq_none (Nat.le_of_not_lt hl)]
    rw [this] at hm
    cases hm

theorem wit_GroupLoadsCombineTheRanks_dead : ∃ (s : State) (c : Ctx) (a : Src) (r : Nat) (rs : List Nat), ctx? s = some c ∧ c.Ok [Dst.src .z, a] ∧
    (∀ l ∈ c.lanes, (c.read l a).toNat + 8 ≤ 1024 * c.blk.cfg.dsp ∧ (c.read l a).toNat % 8 = 0) ∧
    FirstLane c.lanes (fun l => ∃ e, e < Width.b64.elems ∧ c.en l (Width.b64.bytes * e) = true) 0 ∧ s.deadRanks c.blk = r :: rs :=
  ⟨st pads (rank 4 4 0), cx pads (rank 4 4 0), .v 0, 1, [2, 3], holds, ok_of _ _ holds, holds,
    ⟨holds, ⟨0, holds, holds⟩, fun _ _ h => absurd h (Nat.not_lt_zero _)⟩, holds⟩

/-- A residue scratchpad of 1 024 KiB: its last block of 256 elements; the last 2 048 bytes of the mapped GiB. -/
def planes (g : Gang) : Gang := regs [0xFFF00, 0x3FFF_F800] g

theorem wit_ResiduePlaneWordsMoveWholeBlocks : ∀ n ∈ [15, 16], ∃ (s : State) (c : Ctx) (d a : Src) (k : BitVec 8) (loc : Nat → Loc × Bool), ctx? s = some c ∧ c.Ok [d, a] ∧
    (let r := (c.read c.low d).toNat
     let v := (c.read c.low a).toNat
     r % 256 = 0 ∧ r + 256 * (k.toNat + 1) ≤ min (256 * c.blk.cfg.rsp) (2 ^ 64) ∧ v + 2048 * (k.toNat + 1) ≤ 2 ^ 56 ∧
     c.Reaches s .read (fun _ => true) true 2048 (List.range (k.toNat + 1)) (fun j => v + 2048 * j) loc (lanes := fun _ => c.iss.active) ∧
     c.Reaches s .write (fun _ => true) false 2048 (List.range (k.toNat + 1)) (fun j => v + 2048 * j) loc (lanes := fun _ => c.iss.active) ∧
     c.Reaches s .both Loc.isPkg true 2048 (List.range (k.toNat + 1)) (fun j => v + 2048 * j) loc (lanes := fun _ => c.iss.active)) ∧
    c.blk.cfg.det = false ∧ c.blk.rs.wf = true ∧ c.g.commit.length = n := by
  intro n hn
  simp only [List.mem_cons, List.not_mem_nil, or_false] at hn
  obtain rfl | rfl := hn
  · let f : Gang → Gang := fun g => { planes g with commit := List.replicate 15 ⟨0, 0, 0⟩ }
    exact ⟨st f, cx f, .v 0, .v 1, 0, fun _ => (.pkg 0x3FFF_F800, false), holds, ok_of _ _ holds,
      ⟨holds, holds, holds, reaches_of _ _ _ _ _ _ _ _ _ holds, reaches_of _ _ _ _ _ _ _ _ _ holds,
        reaches_of _ _ _ _ _ _ _ _ _ holds⟩, holds, holds, holds⟩
  · let f : Gang → Gang := fun g => { planes g with commit := List.replicate 16 ⟨0, 0, 0⟩ }
    exact ⟨st f, cx f, .v 0, .v 1, 0, fun _ => (.pkg 0x3FFF_F800, false), holds, ok_of _ _ holds,
      ⟨holds, holds, holds, reaches_of _ _ _ _ _ _ _ _ _ holds, reaches_of _ _ _ _ _ _ _ _ _ holds,
        reaches_of _ _ _ _ _ _ _ _ _ holds⟩, holds, holds, holds⟩

/-- The home of an atomic that a host page supports (`true`), or does not. -/
def atomAt (host : Bool) (x : Loc) : Bool := host || !(match x with | .host _ => true | _ => false)

/-- The first GiB mapped to host memory. -/
def hosted (s : State) : State := { s with mem := memSetNat s.mem 0x200000 8 0x8D }

theorem wit_AtomicsReadModifyWriteInLaneOrder : ∃ (s : State) (c : Ctx) (d : Dst) (a b : Src) (loc : Nat → Loc × Bool), ctx? s = some c ∧
    c.Ok [d.src, a, b] ∧ c.Ok [d.src, a, b, c.fourth d] ∧ c.Ok [d.src, a] ∧ c.blk.cfg.det = false ∧
    c.Reaches s .both (atomAt false) true 8 c.onLanes (fun l => (c.read l a).toNat) loc ∧ c.Reaches s .both (atomAt false) true 4 c.onLanes (fun l => (c.read l a).toNat) loc ∧
    c.Reaches (hosted s) .both (atomAt true) true 8 c.onLanes (fun l => (c.read l a).toNat) (fun _ => (.host 0x3FFF_FFF8, false)) ∧ ctx? (hosted s) = some c :=
  ⟨st many, cx many, .v 95, .v 0, .v 1, fun _ => (.pkg 0x3FFF_FFF8, false), holds, ok_of _ _ holds, ok_of _ _ holds,
    ok_of _ _ holds, holds, reaches_of _ _ _ _ _ _ _ _ _ holds, reaches_of _ _ _ _ _ _ _ _ _ holds,
    reaches_of _ _ _ _ _ _ _ _ _ holds, holds⟩

theorem wit_AtomicsReadModifyWriteInLaneOrder_staged : ∃ (s : State) (c : Ctx) (a b : Src) (loc : Nat → Loc × Bool), ctx? s = some c ∧ c.Ok [Dst.src .z, a, b] ∧
    c.Reaches s .both (atomAt false) false 4 c.onLanes (fun l => (c.read l a).toNat) loc ∧ c.blk.cfg.det = true ∧ c.blk.teller.length + c.onLanes.length ≤ 512 :=
  ⟨st many (staged 480 0), cx many (staged 480 0), .v 0, .v 1, fun _ => (.pkg 0x3FFF_FFF8, false), holds, ok_of _ _ holds,
    reaches_of _ _ _ _ _ _ _ _ _ holds, holds, holds⟩

/-- A byte that a lane has staged: by a store last, and by an atomic last. -/
theorem wit_StagedStoresAreSeenAndTilesCommitOnce : ∀ k ∈ [TellerKind.store, .amaxm], ∃ (b : Block) (f : Forward) (a : Nat) (ini : List TellerEntry) (e : TellerEntry),
    a = f.va + 0 ∧ sortBy (fun p q => decide (p.seq ≤ q.seq)) (b.teller.filter (fun e =>
      e.gang = f.gang && e.lane = 31 && decide (e.seq < f.before) && decide (e.addr.toNat ≤ a) && decide (a < e.addr.toNat + e.size))) = ini ++ [e] ∧ e.kind = k ∧ ini ≠ [] := by
  intro k hk
  simp only [List.mem_cons, List.not_mem_nil, or_false] at hk
  obtain rfl | rfl := hk
  · exact ⟨{ loadBlock with teller := [⟨.store, 8, 0x100, 1, 0, 31, 0, 0⟩, ⟨.store, 4, 0x104, 2, 0, 31, 0, 1⟩, ⟨.store, 4, 0x104, 3, 0, 31, 0, 2⟩] }, ⟨0, 0x107, 2, 0⟩, 0x107 + 0,
      [⟨.store, 8, 0x100, 1, 0, 31, 0, 0⟩], ⟨.store, 4, 0x104, 2, 0, 31, 0, 1⟩, rfl, holds, rfl, holds⟩
  · exact ⟨{ loadBlock with teller := [⟨.store, 8, 0x100, 1, 0, 31, 0, 0⟩, ⟨.amaxm, 4, 0x104, 2, 0, 31, 0, 1⟩] }, ⟨0, 0x107, 2, 0⟩, 0x107 + 0,
      [⟨.store, 8, 0x100, 1, 0, 31, 0, 0⟩], ⟨.amaxm, 4, 0x104, 2, 0, 31, 0, 1⟩, rfl, holds, rfl, holds⟩

theorem wit_StagedStoresAreSeenAndTilesCommitOnce_tcommit : ∃ (s : State) (c : Ctx) (loc : Nat → Loc × Bool), ctx? s = some c ∧ c.Ok [.v 0] ∧ c.Ok [.v 1] ∧ c.blk.rs.wf = true ∧
    ((c.read c.low (.v 0)).setWidth 32).toNat ≤ c.g.tlast.toNat ∧ c.g.tlast.toNat < ((c.read c.low (.v 1)).setWidth 32).toNat ∧ c.g.commit.length = 2 ∧
    (let bs := c.g.commit.flatMap (fun e => (List.range (e.nm1 + 1)).map (fun j => (e.res + 256 * j, e.va.toNat + 2048 * j)))
     c.Reaches s .both Loc.isPkg true 2048 (List.range bs.length) (fun j => (bs.getD j (0, 0)).2) loc (lanes := fun _ => c.iss.active)) := by
  let f : Gang → Gang := fun g => { regs [7, 8] g with tlast := 7, commit := [⟨0, 0, 0x3000⟩, ⟨1, 256, 0x3FFF_F000⟩] }
  exact ⟨st f, cx f, fun j => (.pkg ([0x3000, 0x3FFF_F000, 0x3FFF_F800].getD j 0), false), holds, ok_of _ _ holds, ok_of _ _ holds,
    holds, holds, holds, holds, reaches_of _ _ _ _ _ _ _ _ _ holds⟩

/-- A gang that holds the lanes 0 and 1 of a word under the number 5. -/
def waiting (kind : HeldKind) (g : Gang) : Gang :=
  { g with held := [⟨5, iss 3, 3, kind⟩], nextId := 6, lanes := g.lanes.mapIdx (fun l x => if l < 2 then { x with wait := some 5 } else x) }

theorem wit_WordsGoOnOrAreHeld_held : ∃ (g : Gang) (w : Held), g.heldOf 5 = some w ∧ w.lanes &&& 1 ≠ 0 ∧ 1 < g.lanes.length ∧ (g.lane 1).wait = some 5 :=
  ⟨waiting .mxwait loadGang, ⟨5, iss 3, 3, .mxwait⟩, holds, holds, holds, holds⟩

/-- An access that lane 31 has issued, of a peer's byte 0 or of the scratchpads, and its operation. -/
def openOp (id : Nat) (sp : Spot) (act : AccAct) (ord : MemOrder := {}) : Op :=
  { id := id, cls := .a, kind := .memory, clauses := [], lanes := 0x80000000, peer := true,
    todo := [{ lane := 31, lanes := 0x80000000, spot := sp, n := 1, act := act, ord := ord }] }

/-- The kinds of fence: with every wait, and with one alone. -/
def fences : List HeldKind := [.fence .sc .dom, .fence .acq .block, .mxfence, .mxwait]

theorem wit_FencesAndReleasesWaitForTheirOperations :
    (∃ (g : Gang) (k : HeldKind), k = .fence .ar .block ∧ g.waitOver ⟨1, iss 1, 1, k⟩ = true ∧ g.ops ≠ []) ∧
    (∃ (s : State) (c : Ctx), ctx? s = some c ∧ c.g.held = [] ∧ c.iss.active ≠ 0 ∧ (∀ k ∈ fences, c.g.waitOver ⟨c.g.nextId, c.iss, c.iss.active, k⟩ = true)) ∧
    (∃ (s : State) (c : Ctx), ctx? s = some c ∧ c.g.held = [] ∧ c.iss.active ≠ 0 ∧
      (∀ k ∈ [HeldKind.fence .acq .block, .fence .rel .dev, .fence .sc .dom, .mxfence],
        c.g.waitOver ⟨c.g.nextId, c.iss, c.iss.active, k⟩ = false)) ∧
    ∃ (s : State) (c : Ctx), ctx? s = some c ∧ c.g.held = [] ∧ c.iss.active ≠ 0 ∧ c.g.waitOver ⟨c.g.nextId, c.iss, c.iss.active, .mxwait⟩ = false := by
  let f : Gang → Gang := fun g => { g with ops := [openOp 8 (.ds 0 0) (.load .b8 false none none), openOp 9 (.rs 0) (.store [0])], nextId := 10 }
  let h : Gang → Gang := fun g => { g with ops := [{ id := 9, cls := .b, kind := .enc, clauses := [], lanes := 1 }], nextId := 10 }
  exact ⟨⟨f loadGang, _, rfl, holds, holds⟩, ⟨st top, cx top, top_ctx, holds, holds, holds⟩,
    ⟨st f, cx f, holds, holds, holds, holds⟩,
    ⟨st h, cx h, holds, holds, holds, holds⟩⟩

theorem wit_FencesAndReleasesWaitForTheirOperations_release :
    (∃ (s : State) (b : Block) (g : Gang), s.block? 0 = some b ∧ b.gangs[0]? = some g ∧ (g.ops.map (·.id)).Nodup ∧ g.held = [] ∧ g.ops.length = 2) ∧
    ∃ (s : State) (b : Block) (g : Gang), s.block? 0 = some b ∧ b.gangs[0]? = some g ∧ (∀ o ∈ g.ops, o.todo = []) ∧ s.copied = false ∧ g.held = [] ∧ g.ops.length = 1 := by
  let f : Gang → Gang := fun g => { g with ops := [openOp 8 (.ds 0 0) (.load .b8 false none none), openOp 9 (.rs 0) (.store [0])], nextId := 10 }
  let h : Gang → Gang := fun g => { g with ops := [{ id := 9, cls := .b, kind := .enc, clauses := [], lanes := 1 }], nextId := 10 }
  exact ⟨⟨st f, (cx f).blk, f loadGang, holds, holds, holds, holds, holds⟩,
    st h, (cx h).blk, h loadGang, holds, holds, holds, holds, holds, holds⟩

theorem wit_AccessesArePerformedOneByOneInOrder :
    (∃ (s : State) (b : Block), s.block? 0 = some b ∧ b.rs.wf = true ∧ (s.core 0).l1 = [] ∧ (∀ t ∈ s.towers, t.copies = [] ∧ t.inbox = [])) ∧
    ∀ x ∈ [(AccAct.load .b8 false none none, ({} : MemOrder), Spot.ds 0 1), (.store [0], {}, .ds 0 1), (.load .b8 false none none, {}, .ds 0 0), (.store [0], {}, .ds 0 0),
        (.load .b8 false none none, { acq := true }, .vm (.pkg 0)), (.store [0], { rel := true }, .vm (.pkg 0))],
      ∃ (s : State) (g : Gang) (o : Op) (y : Access), s.gang? 0 0 = some g ∧ g.ops.find? (·.id == 9) = some o ∧ o.kind = .memory ∧ o.todo[0]? = some y ∧
        y.act = x.1 ∧ y.spot = x.2.2 ∧ s.second = none ∧ atOnce s = none ∧ s.turns = [.perform 0 0 9 0] ∧ y.writes = (x.1 == .store [0]) ∧
        (∃ p ∈ g.ops, p.id < 9 ∧ ∃ z ∈ p.todo, z.lanes = 0x80000000 ∧ z.spot = .ds 0 0) := by
  refine ⟨⟨st top, (cx top).blk, holds, holds, holds, holds⟩, ?_⟩
  intro x _
  let f : Gang → Gang := fun g => { g with ops := [openOp 8 (.ds 0 0) (.store [1]), openOp 9 x.2.2 x.1 x.2.1], nextId := 10 }
  let s : State := { st f with turns := [.perform 0 0 9 0] }
  rename_i hx
  simp only [List.mem_cons, List.not_mem_nil, or_false] at hx
  refine ⟨s, f loadGang, openOp 9 x.2.2 x.1 x.2.1, { lane := 31, lanes := 0x80000000, spot := x.2.2, n := 1, act := x.1, ord := x.2.1 }, ?_⟩
  obtain rfl | rfl | rfl | rfl | rfl | rfl := hx <;>
  exact ⟨holds, holds, holds, holds, holds, holds, holds, holds,
    holds, holds, _, List.mem_cons_self .., holds, _, List.mem_singleton_self _, rfl, rfl⟩

/-- A request to a peer and a store that the tower has posted keep an access of another operation waiting. -/
theorem wit_AccessesArePerformedOneByOneInOrder_waits :
    (∃ (s : State) (b : Block), s.block? 0 = some b ∧ b.rs.wf = true ∧ (s.core 0).l1 = [] ∧ (∀ t ∈ s.towers, t.copies = [] ∧ t.inbox = [] ∧ t.posted = [])) ∧
    ∃ (s : State) (g : Gang) (o p : Op) (x y : Access) (m a e : Nat), s.gang? 0 0 = some g ∧ g.openOps.find? (·.id == 9) = some o ∧ o.todo = [x] ∧
      p ∈ g.openOps ∧ p.id ≠ 9 ∧ y ∈ p.todo ∧ y.turn < x.turn ∧ x.spot = .vm (.peer m a) ∧ y.spot = .vm (.peer m e) ∧
      a / 256 * 256 < e + y.n ∧ e / 256 * 256 < a + x.n ∧ x.lanes &&& y.lanes = 0 ∧ x.writes = true ∧
      (∃ q ∈ (s.tower 0).posted, q.op ≠ 9 ∧ ∃ u ∈ q.acc.spots, ∃ v ∈ x.spots, u.meets q.acc.n v x.n = true) ∧
      s.second = none ∧ atOnce s = none ∧ s.turns = [.perform 0 0 9 0] := by
  let y : Access := { lane := 0, lanes := 1, spot := .vm (.peer 1 256), n := 1, act := .store [0], turn := 1 }
  let x : Access := { lane := 31, lanes := 0x80000000, spot := .vm (.peer 1 511), n := 1, act := .store [0], turn := 2 }
  let p : Op := { id := 8, cls := .a, kind := .memory, clauses := [], lanes := 1, peer := true, todo := [y] }
  let o : Op := { id := 9, cls := .a, kind := .memory, clauses := [], lanes := 0x80000000, peer := true, todo := [x] }
  let f : Gang → Gang := fun g => { g with ops := [p, o], nextId := 10 }
  let s : State := { (st f).modTower 0 (fun t => { t with posted := [⟨1, 0, 3, { x with lane := 4, lanes := 16 }⟩] }) with turns := [.perform 0 0 9 0] }
  exact ⟨⟨st top, (cx top).blk, holds, holds, holds, holds⟩,
    s, f loadGang, o, p, x, y, 1, 511, 256, holds, holds, rfl, holds, holds, holds, holds, rfl, rfl,
    holds, holds, holds, holds, holds, holds, holds, rfl⟩

/-- The object of serial 9 at entry 63 of tower `t`, for 8 lanes. -/
def barrier (t : Nat) (device : Bool) (s : State) : State :=
  s.modTower t (fun x => { x with nbars := [{ index := 63, serial := 9, device := device, n := 8, arrived := 7, lid := 0, block := 0 }], nextSerial := 10 })

/-- Its handle, by the fields of R201: serial, scope, tower, index. -/
def handleOf (t : Nat) (device : Bool) : Word := BitVec.ofNat 64 (9 * 2 ^ 16 + device.toNat * 2 ^ 9 + t * 2 ^ 6 + 63)

theorem wit_BarriersReleaseTheirLanesWhenAllHaveArrived :
    (∃ (s : State) (c : Ctx) (r : Nat) (rs : List Nat), ctx? s = some c ∧ s.deadRanks c.blk = r :: rs) ∧
    (∃ (s : State) (c : Ctx), ctx? s = some c ∧ s.deadRanks c.blk = [] ∧ c.Ok [.z] ∧ s.barrier? (c.read (lowLane c.iss.active) .z) = none) ∧
    ∀ x ∈ [(0, false), (7, true), (7, false)], ∃ (s : State) (c : Ctx) (n : NBar), ctx? s = some c ∧ c.Ok [.v 0] ∧
      s.barrier? (c.read (lowLane c.iss.active) (.v 0)) = some (x.1, n) ∧ n.device = x.2 := by
  refine ⟨⟨st pads (rank 4 4 0), cx pads (rank 4 4 0), 1, [2, 3], holds, holds⟩,
    ⟨two 3 2 pads, cx pads (rank 3 2 0), holds, holds, ok_of _ _ holds, holds⟩, ?_⟩
  intro x hx
  simp only [List.mem_cons, List.not_mem_nil, or_false] at hx
  obtain rfl | rfl | rfl := hx
  · exact ⟨barrier 0 false (st (regs [handleOf 0 false])), cx (regs [handleOf 0 false]), { index := 63, serial := 9, device := false, n := 8, arrived := 7, lid := 0, block := 0 },
      holds, ok_of _ _ holds, holds, rfl⟩
  · exact ⟨barrier 7 true (st (regs [handleOf 7 true])), cx (regs [handleOf 7 true]), { index := 63, serial := 9, device := true, n := 8, arrived := 7, lid := 0, block := 0 },
      holds, ok_of _ _ holds, holds, rfl⟩
  · exact ⟨barrier 7 false (st (regs [handleOf 7 false])), cx (regs [handleOf 7 false]), { index := 63, serial := 9, device := false, n := 8, arrived := 7, lid := 0, block := 0 },
      holds, ok_of _ _ holds, holds, rfl⟩

theorem wit_NamedBarriersAreCreatedAndFreed :
    (∃ (s : State) (c : Ctx) (d : Dst), ctx? s = some c ∧ c.Ok [d.src, .v 0] ∧ c.Ok [d.src, .v 1] ∧ c.Ok [.v 1] ∧
      (let r := (c.read (lowLane c.iss.active) (.v 0)).toNat
       let free := fun (i : Nat) => i < 64 ∧ ∀ n ∈ (s.tower (c.iss.core / 32)).nbars, n.index ≠ i
       free 0 ∧ (∀ j, j < 0 → ¬ free j) ∧ r % 2 ^ 32 ≠ 0 ∧ r < 2 ^ 33) ∧ 2 ^ 33 ≤ (c.read (lowLane c.iss.active) (.v 1)).toNat ∧
      (s.retire c.g).barrier? (c.read (lowLane c.iss.active) (.v 1)) = none) ∧
    ∃ (s : State) (c : Ctx) (n : NBar), ctx? s = some c ∧ c.Ok [.v 0] ∧ (s.retire c.g).barrier? (c.read (lowLane c.iss.active) (.v 0)) = some (0, n) := by
  let f := regs [0x1_FFFF_FFFF, 0x2_0000_0001]
  exact ⟨⟨st f, cx f, .v 95, holds, ok_of _ _ holds, ok_of _ _ holds, ok_of _ _ holds,
    ⟨holds, fun _ h => absurd h (Nat.not_lt_zero _), holds, holds⟩, holds, holds⟩,
    barrier 0 false (st (regs [handleOf 0 false])), cx (regs [handleOf 0 false]), { index := 63, serial := 9, device := false, n := 8, arrived := 7, lid := 0, block := 0 },
    holds, ok_of _ _ holds, holds⟩

theorem wit_ClearingFollowsItsCounters :
    (∀ q ∈ [false, true], ∃ p : Partition, (p.pend = true ∧ (if (p.gen - 1).toNat % 2 = 0 then p.c0 else p.c1) = 0) ∧ p.queued = q) ∧
    (∃ p : Partition, ¬ (p.pend = true ∧ (if (p.gen - 1).toNat % 2 = 0 then p.c0 else p.c1) = 0)) ∧
    ∀ x ∈ [(0, (3 : Word)), (1, 4), (2, 5), (1, 2)], ∃ (s : State) (c : Ctx) (p : Partition), ctx? s = some c ∧ s.partition? c.blk.cfg.part.val = some p ∧
      c.Ok [Dst.src (.v 95)] ∧ c.Ok [.v 0] ∧ c.g.depth = x.1 ∧ c.g.entryGen = 4 ∧ p.done = 2 ∧ c.read (lowLane c.iss.active) (.v 0) = x.2 := by
  refine ⟨?_, ⟨{ pend := true, gen := 2, c1 := 1 }, holds⟩, ?_⟩
  · intro q hq
    simp only [List.mem_cons, List.not_mem_nil, or_false] at hq
    obtain rfl | rfl := hq
    · exact ⟨{ pend := true, gen := 1 }, holds, rfl⟩
    · exact ⟨{ pend := true, gen := 1, queued := true }, holds, rfl⟩
  · intro x hx
    let p : Partition := { cores := [0], gen := 4, done := 2 }
    let f : Nat → Word → Gang → Gang := fun n w g => { regs [w] g with depth := n, entryGen := 4 }
    simp only [List.mem_cons, List.not_mem_nil, or_false] at hx
    obtain rfl | rfl | rfl | rfl := hx
    · exact ⟨(st (f 0 3)).setPartition 0 p, cx (f 0 3), p, holds, holds, ok_of _ _ holds, ok_of _ _ holds,
        holds, holds, rfl, holds⟩
    · exact ⟨(st (f 1 4)).setPartition 0 p, cx (f 1 4), p, holds, holds, ok_of _ _ holds, ok_of _ _ holds,
        holds, holds, rfl, holds⟩
    · exact ⟨(st (f 2 5)).setPartition 0 p, cx (f 2 5), p, holds, holds, ok_of _ _ holds, ok_of _ _ holds,
        holds, holds, rfl, holds⟩
    · exact ⟨(st (f 1 2)).setPartition 0 p, cx (f 1 2), p, holds, holds, ok_of _ _ holds, ok_of _ _ holds,
        holds, holds, rfl, holds⟩

theorem wit_MonitorsEscrowAndFlush :
    (∃ p : Partition, ∀ e ∈ p.ring, p.done.toNat < e.stamp.toNat) ∧
    (∃ (p : Partition) (pre post : List Escrow) (e : Escrow), p.ring = pre ++ e :: post ∧ e.stamp.toNat ≤ p.done.toNat ∧
      (∀ x ∈ pre, e.stamp.toNat < x.stamp.toNat) ∧ ∀ x ∈ post, e.stamp.toNat ≤ x.stamp.toNat) ∧
    ∃ (s : State) (c : Ctx) (d : Dst) (a b : Src) (loc : Nat → Loc × Bool) (p : Partition), ctx? s = some c ∧ s.partition? c.blk.cfg.part.val = some p ∧ c.Ok [d.src, a, b] ∧
      c.Ok [a, b] ∧ c.Ok [d.src] ∧ c.Reaches s .read (fun _ => true) true 8 c.onLanes (fun l => (c.read l a).toNat) loc ∧
      (let xs := (c.lanes.map (fun l => ((c.read l a).setWidth 56, (c.read l b).setWidth 8))).filter (fun x => x.1 != 0)
       p.ring.length + xs.length = 2 ^ p.escLog2 ∧ 2 ^ ({ p with escLog2 := 4 } : Partition).escLog2 < p.ring.length + xs.length) :=
  ⟨⟨{ done := 4, ring := [⟨0, 8, 1, 5⟩] }, holds⟩,
    ⟨{ done := 4, ring := [⟨0, 8, 1, 5⟩, ⟨1, 16, 2, 4⟩, ⟨2, 24, 3, 4⟩] }, [⟨0, 8, 1, 5⟩], [⟨2, 24, 3, 4⟩], ⟨1, 16, 2, 4⟩, rfl, holds, holds, holds⟩,
    (st many).setPartition 0 { cores := [0], escLog2 := 5 }, cx many, .v 95, .v 0, .v 1, fun _ => (.pkg 0x3FFF_FFF8, false), { cores := [0], escLog2 := 5 }, holds,
    holds, ok_of _ _ holds, ok_of _ _ holds, ok_of _ _ holds, reaches_of _ _ _ _ _ _ _ _ _ holds,
    holds⟩
/-- Operands of matrix words: unit scales and K = 4 096 of class i16; the same with recorded scales and K = 8; the last tile of K = 4 096; the last tile of
K = 8 with the last scale bytes; a drain of bx8 rows 36 bytes apart to the last place of the scratchpad, and to virtual memory; an encode of 128 columns. -/
def matrix (g : Gang) : Gang := regs [0x1000_0002_0011, 0x8_0000_0000, 0xE0000, 0x7FFE0_00_0FFF00, 0x24_0004, 0x24_000C, 0x7FB80, 0x3FFF_FB80, 0xF0_0000_000F_F000] g

/-- Slot 0 with `n` words outstanding and recorded scales of ones. -/
def slotted (n : Nat) (g : Gang) : Gang :=
  (matrix g).setSlot 0 { scales := some (List.replicate 32 1, List.replicate 32 1), prog := List.replicate n { kind := .mxgsum 0, clauses := [] } }

theorem wit_MatrixWordsAtIssue : ∃ (s : State) (c : Ctx), ctx? s = some c ∧ c.iss.active = BitVec.allOnes 32 ∧ (7 : Fin 8).val < c.blk.cfg.slots ∧
    (c.g.slot 7).prog.length < 16 ∧ (c.g.slot 0).prog.length + (c.g.ops.filter (fun o => o.slot == some 0)).length = 15 ∧ c.Ok [.v 0, .v 1, .v 2, .v 3, .v 4, .v 5, .v 6, .v 7, .v 8] ∧
    (∀ l, l < 32 → ∀ r, r < 9 → c.read l (.v (Fin.ofNat 96 r)) = c.read 0 (.v (Fin.ofNat 96 r))) ∧
    c.blk.lease.holder = none ∧ c.blk.lease.waiting = [] ∧
    (let V := fun (n : Nat) => (c.read 0 (.v (Fin.ofNat 96 n))).toNat
     let format := fun (n k : Nat) => bitsOf (V n) 63 48 = 0 ∧ bitsOf (V n) 31 18 = 0 ∧ bitsOf (V n) 15 8 = 0 ∧ bitsOf (V n) 47 32 = k
     format 0 4096 ∧ format 1 8 ∧ bitsOf (V 0) 17 17 = 1 ∧ bitsOf (V 1) 17 17 = 0 ∧ clsOf (bitsOf (V 0) 3 0) = some .i16 ∧ clsOf (bitsOf (V 1) 7 4) = some .i8 ∧
     (bitsOf (V 2) 63 51 = 0 ∧ bitsOf (V 2) 31 24 = 0 ∧ bitsOf (V 2) 23 0 % 256 = 0 ∧ bitsOf (V 2) 23 0 + 32 * 4096 = 256 * c.blk.cfg.rsp) ∧
     (bitsOf (V 3) 63 51 = 0 ∧ bitsOf (V 3) 31 24 = 0 ∧ bitsOf (V 3) 23 0 % 256 = 0 ∧ bitsOf (V 3) 23 0 + 32 * 8 = 256 * c.blk.cfg.rsp ∧
       bitsOf (V 3) 50 32 % 32 = 0 ∧ bitsOf (V 3) 50 32 + 32 = 1024 * c.blk.cfg.dsp ∧ c.blk.dsBad (bitsOf (V 3) 50 32) 32 = none) ∧
     (∃ p q, (c.g.slot 0).scales = some (p, q) ∧ p.length = 32 ∧ q.length = 32 ∧ (p, q) ≠ (List.replicate 32 0, List.replicate 32 0)) ∧
     (∀ n ∈ [4, 5], bitsOf (V n) 63 40 = 0 ∧ bitsOf (V n) 15 7 = 0 ∧ bitsOf (V n) 6 5 = 0 ∧ bitsOf (V n) 2 0 = 4 ∧ bitsOf (V n) 39 16 = 36) ∧
     bitsOf (V 4) 3 3 = 0 ∧ bitsOf (V 5) 3 3 = 1 ∧ V 6 % 4 = 0 ∧ V 6 + (31 * 36 + 36) = 1024 * c.blk.cfg.dsp ∧ V 7 % 4 = 0 ∧ V 7 + (31 * 36 + 36) ≤ 2 ^ 56 ∧
     (∀ p ∈ piecesOf (V 7) (31 * 36 + 36), ∃ z h, walk s (s.coreTlb c.iss.core) c.blk.cfg.asid p.1 = .ok z h ∧ h.allows c.blk.cfg.smode .write = true) ∧
     bitsOf (V 8) 63 57 = 0 ∧ bitsOf (V 8) 51 51 = 0 ∧ bitsOf (V 8) 31 24 = 0 ∧ 0 + 128 / 2 ≤ c.blk.cfg.allot ∧ bitsOf (V 8) 50 32 % 32 = 0 ∧
     bitsOf (V 8) 50 32 + 32 ≤ 1024 * c.blk.cfg.dsp ∧ bitsOf (V 8) 23 0 % 256 = 0 ∧ bitsOf (V 8) 23 0 + 32 * 128 = 256 * c.blk.cfg.rsp) ∧ s.deadRanks c.blk = [] := by
  refine ⟨st (slotted 15), cx (slotted 15), holds, holds, holds, holds, holds, ok_of _ _ holds,
    holds, holds, holds, ?_, holds⟩
  refine ⟨holds, holds, holds, holds, holds, holds, holds, holds,
    ⟨List.replicate 32 1, List.replicate 32 1, holds, rfl, rfl, holds⟩, holds, holds, holds, holds, holds,
    holds, holds, ?_, holds⟩
  intro p hp
  have h : piecesOf ((cx (slotted 15)).read 0 (.v (Fin.ofNat 96 7))).toNat (31 * 36 + 36) = [(0x3FFF_FB80, 1152)] := by decide +kernel
  rw [h] at hp
  simp only [List.mem_singleton] at hp
  subst hp
  exact ⟨.pkg 0x3FFF_FB80, ⟨true, true, true, false, false⟩, holds, holds⟩

theorem wit_MatrixWordsAtIssue_divergent : ∃ (s : State) (c : Ctx), ctx? s = some c ∧ c.Ok [.v 0, .lid] ∧ c.iss.active = BitVec.allOnes 32 ∧
    FirstLane (List.range 32) (fun m => c.read m .lid ≠ c.read 0 .lid) 1 ∧ ∃ (s' : State) (c' : Ctx), ctx? s' = some c' ∧ c'.iss.active ≠ BitVec.allOnes 32 :=
  ⟨st matrix, cx matrix, holds, ok_of _ _ holds, holds, by unfold FirstLane; decide +kernel, st id id 0x7FFF_FFFF, cx id id 0x7FFF_FFFF,
    holds, holds⟩

theorem wit_MatrixWordsAtIssue_waits : (∃ (s : State) (c : Ctx), ctx? s = some c ∧ c.Ok [.v 0, .v 2] ∧ (7 : Fin 8).val < c.blk.cfg.slots ∧ (c.g.slot 7).prog = [] ∧
    c.blk.lease.holder = some 0 ∧ c.blk.lease.count = 64) ∧ ∃ (s : State) (c : Ctx) (r : Nat) (rs : List Nat), ctx? s = some c ∧ c.iss.active = BitVec.allOnes 32 ∧
    (7 : Fin 8).val < c.blk.cfg.slots ∧ (c.g.slot 7).prog = [] ∧ s.deadRanks c.blk = r :: rs := by
  let h : Block → Block := fun b => { b with lease := { holder := some 0, waiting := [1], count := 64 } }
  exact ⟨⟨st matrix h, cx matrix h, holds, ok_of _ _ holds, holds, holds, rfl, rfl⟩,
    st matrix (rank 4 4 0), cx matrix (rank 4 4 0), 1, [2, 3], holds, holds, holds, holds, holds⟩

/-- Recorded scales that first differ from bytes of zeros in byte 3 of the first vector, and of the second; descriptors and a control with a reserved
bit set. -/
theorem wit_MatrixWordsAtIssue_mismatch : ∀ x ∈ [([0, 0, 0, 9], List.replicate 32 0), (List.replicate 32 (0 : Byte), [0, 0, 0, 9])], ∃ (s : State) (c : Ctx), ctx? s = some c ∧
    c.iss.active = BitVec.allOnes 32 ∧ (0 : Fin 8).val < c.blk.cfg.slots ∧ c.Ok [.v 1, .v 3] ∧ (c.g.slot 0).scales = some x ∧ c.blk.lease.holder = none ∧
    bitsOf (c.read 0 (.v 1)).toNat 16 16 = 0 ∧ c.scaleBytes s.freshCount ⟨bitsOf (c.read 0 (.v 3)).toNat 23 0, some (bitsOf (c.read 0 (.v 3)).toNat 50 32)⟩ = List.replicate 32 0 ∧
    bitsOf (c.read 0 (.v 7)).toNat 63 57 = 0 ∧ bitsOf (c.read 0 (.v 0)).toNat 31 24 = 0 ∧ bitsOf (c.read 0 (.v 0)).toNat 63 57 ≠ 0 := by
  intro x hx
  let f : Gang → Gang := fun g => (matrix g).setSlot 0 { scales := some x }
  let f' : Gang → Gang := fun g => regs [0x8000_0000_0000_0000, 0x8_0000_0000, 0xE0000, 0x7FFE0_00_0FFF00] (f g)
  simp only [List.mem_cons, List.not_mem_nil, or_false] at hx
  obtain rfl | rfl := hx <;>
  exact ⟨st f', cx f', holds, holds, holds, ok_of _ _ holds, rfl, rfl, holds, holds,
    holds, holds, holds⟩

/-- Slot 7 with a first `mxm` of K = 8, its tiles at 0 and at the last place. -/
def accumulating (g : Gang) : Gang :=
  g.setSlot 7 { prog := [{ kind := .mxm 0x8_0002_0000 0 0xFFF00, clauses := [] }, { kind := .mxclr, clauses := [] }] }

/-- A drain of slot 7 to registers, to the scratchpad, or to memory. -/
def drainOf (part : Option Nat) (virt : Bool) : DrainJob := { slot := 7, ofmt := 1, mode := .rne, part := part, regs := [(31, 511)], virt := virt }

/-- It held under the number 5. -/
def draining (part : Option Nat) (virt : Bool) (g : Gang) : Gang := waiting (.drain (drainOf part virt)) g

/-- A sum of slot 7 held under the number 5. -/
def summing (g : Gang) : Gang := waiting (.mxgsum 7 0) g

theorem wit_ArraysAccumulateDecideAndSum_accumulate : ∃ (s : State) (b : Block) (g : Gang) (p : Prog) (rest : List Prog) (fw aw bw : Word), s.block? 0 = some b ∧
    b.gangs[0]? = some g ∧ (g.slot 7).prog = p :: rest ∧ p.kind = .mxm fw aw bw ∧ 7 < g.slots.length ∧ b.rs.wf = true ∧ cellsWf (g.slot 7).res = true ∧
    bitsOf fw.toNat 47 32 % 8 = 0 ∧ 8 * p.ksteps ≤ bitsOf fw.toNat 47 32 ∧ p.live = true :=
  ⟨st accumulating, { loadBlock with gangs := [accumulating loadGang] }, accumulating loadGang, _, _, _, _, _, holds, holds, rfl, rfl,
    holds, holds, holds, holds, holds, rfl⟩

theorem wit_ArraysAccumulateDecideAndSum_drain : ∀ x ∈ [((some 7 : Option Nat), false), (none, false), (none, true)], ∃ (s : State) (b : Block) (g : Gang) (h : Held) (j : DrainJob), s.block? 0 = some b ∧ b.gangs[0]? = some g ∧
    g.heldOf 5 = some h ∧ h.kind = .drain j ∧ j.part = x.1 ∧ j.virt = x.2 ∧ b.cfg.det = false ∧ (g.slot j.slot).prog = [] ∧ cellsWf (g.slot j.slot).res = true ∧ g.pending = [] ∧
    (b.gangs.all (fun z => z.held.all (fun k => match k.kind with | .drain i => decide (j.ord ≤ i.ord) | _ => true))) = true ∧ (∀ e ∈ j.elements, e < 1024) ∧ (j.part = none ∨ j.part = some 7) ∧ 1023 ∈ j.elements ∧
    (∀ e ∈ j.elements, ∃ v ch, decideElem (radices (retiredChannel s 0)) (decide ((g.slot j.slot).bound.toNat ≤ Config.bigH))
      (fun ch => (cellGet (g.slot j.slot).res (1024 * ch + e)).toNat) = .value v ch) ∧ ∀ q ∈ j.regs, q.1 < 32 := by
  intro x hx
  refine ⟨st (draining x.1 x.2), { loadBlock with gangs := [draining x.1 x.2 loadGang] }, draining x.1 x.2 loadGang, ⟨5, iss 3, 3, .drain (drainOf x.1 x.2)⟩, drainOf x.1 x.2,
    ?_, ?_, ?_, rfl, rfl, rfl, rfl, ?_, ?_, ?_, ?_, ?_, ?_, ?_, ?value, ?_⟩
  case value =>
    have h : ((draining x.1 x.2 loadGang).slot 7).res = [] ∧ decideElem (radices (retiredChannel (st (draining x.1 x.2)) 0))
        (decide (((draining x.1 x.2 loadGang).slot 7).bound.toNat ≤ Config.bigH)) (fun _ => 0) = .value 0 none := by
      revert x; decide +kernel
    intro e _
    refine ⟨0, none, ?_⟩
    show decideElem _ _ (fun ch => (cellGet ((draining x.1 x.2 loadGang).slot 7).res (1024 * ch + e)).toNat) = _
    rw [h.1]
    exact h.2
  all_goals (revert x; decide +kernel)

theorem wit_ArraysAccumulateDecideAndSum_sum : ∃ (s : State) (b : Block) (g : Gang) (h : Held), s.block? 0 = some b ∧ b.gangs[0]? = some g ∧ b.cfg.ens ≠ 1 ∧ h ∈ g.held ∧
    h.kind = .mxgsum 7 0 ∧ (∀ k ∈ g.held, ∀ r, k.kind = .mxgsum 7 r → r = 0) ∧ b.present ≤ (s.participants b 0 7 0).length ∧
    ∀ x ∈ s.participants b 0 7 0, ∀ y ∈ s.participants b 0 7 0, ∀ u v, (x.gang.slot 7).scales = some u → (y.gang.slot 7).scales = some v → u = v := by
  refine ⟨two 2 2 summing, rank 2 2 0 { loadBlock with gangs := [summing loadGang] }, summing loadGang, ⟨5, iss 3, 3, .mxgsum 7 0⟩, holds, holds,
    holds, holds, rfl, ?_, holds, ?_⟩
  · intro k hk r hr
    have : k = ⟨5, iss 3, 3, .mxgsum 7 0⟩ := by
      have h : (summing loadGang).held = [⟨5, iss 3, 3, .mxgsum 7 0⟩] := rfl
      rw [h] at hk
      simpa using hk
    subst this
    cases hr
    rfl
  · intro x hx y hy u v hu
    have h : ((two 2 2 summing).participants (rank 2 2 0 { loadBlock with gangs := [summing loadGang] }) 0 7 0).all (fun x => (x.gang.slot 7).scales.isNone) = true := by
      decide +kernel
    have h1 := List.all_eq_true.mp h x hx
    simp [hu] at h1

theorem wit_ArraysAccumulateDecideAndSum_one : ∃ (s : State) (b : Block) (g : Gang) (h : Held), s.block? 0 = some b ∧ b.gangs[0]? = some g ∧ b.cfg.ens = 1 ∧ h ∈ g.held ∧
    h.kind = .mxgsum 7 0 ∧ (∀ k ∈ g.held, ∀ r, k.kind = .mxgsum 7 r → r = 0) ∧ b.present ≤ (s.participants b 0 7 0).length ∧
    ∀ x ∈ s.participants b 0 7 0, ∀ y ∈ s.participants b 0 7 0, ∀ u v, (x.gang.slot 7).scales = some u → (y.gang.slot 7).scales = some v → u = v := by
  refine ⟨st summing, { loadBlock with gangs := [summing loadGang] }, summing loadGang, ⟨5, iss 3, 3, .mxgsum 7 0⟩, holds, holds,
    holds, holds, rfl, ?_, holds, ?_⟩
  · intro k hk r hr
    have h : (summing loadGang).held = [⟨5, iss 3, 3, .mxgsum 7 0⟩] := rfl
    rw [h] at hk
    obtain rfl : k = ⟨5, iss 3, 3, .mxgsum 7 0⟩ := by simpa using hk
    cases hr
    rfl
  · intro x hx y hy u v hu
    have h : ((st summing).participants { loadBlock with gangs := [summing loadGang] } 0 7 0).all (fun x => (x.gang.slot 7).scales.isNone) = true := by
      decide +kernel
    have h1 := List.all_eq_true.mp h x hx
    simp [hu] at h1

theorem wit_ArraysAccumulateDecideAndSum_lease : ∀ l ∈ [({ holder := none, waiting := [0] } : Lease), { holder := some 0, waiting := [0], count := 64 },
      { holder := some 0, count := 64 }], ∃ (s : State) (b : Block), s.block? 0 = some b ∧ b.lease = l ∧ (b.gangs[0]?).isSome = true := by
  intro l hl
  let h : Block → Block := fun b => { b with lease := l }
  simp only [List.mem_cons, List.not_mem_nil, or_false] at hl
  obtain rfl | rfl | rfl := hl <;>
    exact ⟨st id h, h { loadBlock with gangs := [loadGang] }, holds, rfl, holds⟩

/-- A Toss record at 0x2000: V = 32, n = 2, base 30, temperature 1, logits at 0x3000, candidates at 0x4000, capacity 4. -/
def tossed (s : State) : State := { s with
  mem := memSetNat (memSetNat (memSetNat (memSetNat (memSetNat s.mem 0x2000 8 0x3000) 0x2008 8 (30 * 2 ^ 24 + 2)) 0x2010 8 (32 * 2 ^ 32 + 0x3F80_0000)) 0x2020 8 (4 * 2 ^ 32))
    0x2028 8 0x4000 }

theorem ranges_of (c : Ctx) (s : State) (rs : List RangeReq) (hf : s.failing = []) (h : rs.all (fun q => decide (q.va + q.n ≤ 2 ^ 56) && decide (q.va % q.align = 0) &&
    (piecesOf q.va q.n).all (fun p => match walk s (c.unitTlb s) c.blk.cfg.asid p.1 with
      | .ok _ leaf => leaf.allows c.blk.cfg.smode q.kind
      | .fault _ => false)) = true) : c.RangesOk s rs := by
  intro q hq
  have h1 := List.all_eq_true.mp h q hq
  simp only [Bool.and_eq_true, decide_eq_true_eq] at h1
  obtain ⟨⟨a, b⟩, d⟩ := h1
  refine ⟨a, b, fun p hp => ?_⟩
  have h2 := List.all_eq_true.mp d p hp
  cases hw : walk s (c.unitTlb s) c.blk.cfg.asid p.1 with
  | fault f => simp [hw] at h2
  | ok x leaf =>
    simp only [hw] at h2
    exact ⟨x, leaf, rfl, h2, fun _ _ _ => .inr (fun ⟨_, _, hm, _⟩ => by simp [hf] at hm)⟩

theorem wit_TossWordsJoinTheUnitAndComplete_issue : ∃ (s : State) (c : Ctx) (r : List Word), ctx? s = some c ∧ c.Ok [Dst.src (.v 95), .v 0] ∧ (s.tower 0).toss.length = 31 ∧
    c.RangesOk s [⟨(c.read (lowLane c.iss.active) (.v 0)).toNat, 128, 64, false⟩] ∧
    (∀ o ∈ c.g.ops, o.todo = []) ∧ r = (List.range 16).map (fun i => BitVec.ofNat 64 (memNat s.mem (0x2000 + 8 * i) 8)) ∧ tossFieldsBad (.cand .f32) r = none ∧ c.RangesOk s (tossRangesAll (.cand .f32) r []) ∧
    tossFieldsBad (.cand .f32) (r.set 13 1) = some 1 := by
  let f := regs [0x2000]
  let s := (tossed (st f)).modTower 0 (fun t => { t with toss := List.replicate 31 (3, 0, 0) })
  exact ⟨s, cx f, _, holds, ok_of _ _ holds, holds, ranges_of _ _ _ rfl holds, holds, rfl, holds,
    ranges_of _ _ _ rfl holds, holds⟩

/-- The range of the record at 0x2000. -/
def recordRange : TossRange := { va := 0x2000, n := 128, locs := [(.pkg 0x2000, 128, false)] }

/-- A `tossgen` word held under the number 5. -/
def tossing (g : Gang) : Gang := waiting (.toss { kind := .genHi, regs := [(0, 3), (1, 511)], words := List.replicate 16 0, ins := [], outs := [], record := recordRange }) g

/-- A `tossmax` word held under the number 5, and one whose record gives a list that ends in no weight. -/
def maxing (g : Gang) : Gang := waiting (.toss { kind := .max .f32, regs := [(0, 3)], words := List.replicate 16 0, ins := [{ va := 0x3000, n := 8, locs := [(.pkg 0x3000, 8, false)] }], outs := [], record := recordRange }) g

theorem wit_TossWordsJoinTheUnitAndComplete_unit : ∃ (s : State) (b : Block) (g : Gang) (h : Held) (j : TossJob) (val : Nat → Nat), (s.tower 0).toss = (0, 0, 5) :: [] ∧
    s.block? 0 = some b ∧ b.gangs[0]? = some g ∧ g.heldOf 5 = some h ∧ h.kind = .toss j ∧ (j.regs.map (·.1)).Nodup ∧ b.cfg.det = false ∧ g.pending = [] ∧
    (∀ x ∈ g.held, x.id ≠ 5 → x.lanes &&& h.lanes = 0) ∧ s.badRange 0 h.lanes b j.ins = none ∧ (∀ x ∈ s.towers, x.posted = []) ∧ s.Inv ∧ j.result (s.seenRanges 0 0 h.lanes b j.ins).2 = .done val [] :=
  ⟨(st tossing).modTower 0 (fun t => { t with toss := [(0, 0, 5)] }), { loadBlock with gangs := [tossing loadGang] }, tossing loadGang, _, _, _, holds,
    holds, holds, rfl, rfl, holds, holds, rfl, holds, holds, holds, by unfold State.Inv; decide +kernel, rfl⟩

theorem wit_TossWordsJoinTheUnitAndComplete_read : ∃ (s : State) (b : Block) (q : TossRange), s.block? 0 = some b ∧ (s.core 0).l1 = [] ∧ s.copied = false ∧ (∀ x ∈ s.towers, x.posted = []) ∧ q.got = [] ∧
    b.cfg.det = false ∧ q.locs ≠ [] :=
  ⟨st maxing, { loadBlock with gangs := [maxing loadGang] }, { va := 0x3000, n := 8, locs := [(.pkg 0x3000, 8, false)] }, holds, holds, holds, holds, rfl,
    holds, holds⟩

/-- The same `tossmax` word at the head of the queue, a granule of its logits failing. -/
theorem wit_TossWordsJoinTheUnitAndComplete_fails : ∃ (s : State) (b : Block) (g : Gang) (h : Held) (j : TossJob), (s.tower 0).toss = [(0, 0, 5)] ∧ s.block? 0 = some b ∧
    b.gangs[0]? = some g ∧ g.heldOf 5 = some h ∧ h.kind = .toss j ∧ (∀ p ∈ g.pending, p.heldId ≠ 5) ∧ s.badRange 0 h.lanes b j.ins = some (0x3000, 0x3000) :=
  ⟨{ (st maxing).modTower 0 (fun t => { t with toss := [(0, 0, 5)] }) with failing := [0x180] }, { loadBlock with gangs := [maxing loadGang] }, maxing loadGang, _, _,
    holds, holds, holds, rfl, rfl, holds, holds⟩

/-- The record of the draw below: V = 9, a list of up to four entries. -/
def drawJob : TossJob := { kind := .draw, regs := [], words := [0, 0, 9 * 2 ^ 32, 0, 4 * 2 ^ 32], ins := [], outs := [], record := recordRange }

theorem wit_TossWordsJoinTheUnitAndComplete_draw : ∃ (ws : List (Nat × Nat)) (pre post : List (Nat × Nat)) (e : Nat × Nat), ws.drop 1 = pre ++ e :: post ∧
    bitsOf (ws.headD (0, 0)).1 63 24 = 0 ∧ bitsOf (ws.headD (0, 0)).1 23 0 ≤ bitsOf (drawJob.words.getD 4 0).toNat 55 32 ∧
    (∀ x ∈ ws.drop 1, bitsOf x.1 63 56 = 0 ∧ bitsOf x.1 55 32 < bitsOf (drawJob.words.getD 2 0).toNat 55 32) ∧ (ws.headD (0, 0)).2 = (((ws.drop 1).getLast?).map (·.2)).getD 0 ∧
    0 < (ws.headD (0, 0)).2 ∧ (let u := toss128 0 0 / 2 ^ 64 * (ws.headD (0, 0)).2 / 2 ^ 64
      (∀ x ∈ pre, x.2 ≤ u) ∧ u < e.2) := by
  by_cases h : toss128 0 0 / 2 ^ 64 * 16 / 2 ^ 64 < 8
  · exact ⟨[(2, 16), (3 * 2 ^ 32, 8), (8 * 2 ^ 32, 16)], [], [(8 * 2 ^ 32, 16)], (3 * 2 ^ 32, 8), rfl, holds, holds, holds, rfl, holds, by simp, h⟩
  · refine ⟨[(2, 16), (3 * 2 ^ 32, 8), (8 * 2 ^ 32, 16)], [(3 * 2 ^ 32, 8)], [], (8 * 2 ^ 32, 16), rfl, holds, holds, holds, rfl, holds, ?_, ?_⟩
    · simpa using h
    · have : toss128 0 0 < 2 ^ 128 := by decide +kernel
      show toss128 0 0 / 2 ^ 64 * 16 / 2 ^ 64 < 16
      omega

/-- `n` commands of queue 7 of the block. -/
def queued (n : Nat) (s : State) : State := { s with
  commands := (List.range n).map (fun i => { id := i, kind := .cpy, lid := 0, block := 0, core := 0, queue := 7, ord := i, asid := 0, smode := false, regs := [] }), nextCommand := n }

theorem wit_CommandWordsQueueCommands : ∀ n ∈ [31, 32], ∃ (s : State) (c : Ctx) (r : Dst), ctx? s = some c ∧ c.g.wb + (92 : Fin 93).val + 3 < c.blk.cfg.allot ∧
    (s.commands.filter (fun x => x.lid = c.blk.cfg.lid && x.block = c.blk.cfg.index && x.queue = 7)).length = n ∧ c.Ok [r.src] ∧
    ∃ (s' : State) (c' : Ctx), ctx? s' = some c' ∧ c'.blk.cfg.allot ≤ c'.g.wb + (77 : Fin 93).val + 3 := by
  intro n hn
  simp only [List.mem_cons, List.not_mem_nil, or_false] at hn
  obtain rfl | rfl := hn
  · exact ⟨queued 31 (st top), cx top, .v 95, holds, holds, holds, sub4 _ holds, st past, cx past, past_ctx, holds⟩
  · exact ⟨queued 32 (st top), cx top, .v 95, holds, holds, holds, sub4 _ holds, st past, cx past, past_ctx, holds⟩

/-- Stream `h` of tower 0, of the block on core 0. -/
def streamOf (h : Nat) : Stream := { handle := h, lid := 0, block := 0, core := 0, asid := 0, smode := false, cls := 0, bnd := 0, mtab := 0, mcount := 0, notok := true }

/-- The streams 1 to 15 on tower 0. -/
def streamed (s : State) : State := s.modTower 0 (fun t => { t with streams := (List.range 15).map (fun i => streamOf (i + 1)) })

/-- Requests of `qbind`: unbind, an input with the record at 0x3FFFFFC0, the output and the quarantine of stream 15, the Escrow, kind 5, a reserved bit. -/
def binding (g : Gang) : Gang := regs [0, 0x0100_0000_3FFF_FFC0, 0x0200_0000_0000_000F, 0x0300_0000_0000_000F, 0x0400_0000_0000_0000, 0x0500_0000_0000_0000, 0x1000_0000_0000_0000] g

theorem wit_QueueRegistersReachTheirPorts_bind : ∃ (s : State) (c : Ctx), ctx? s = some c ∧ c.Ok [Dst.src (.v 95), .v 0] ∧ c.Ok [Dst.src (.v 95), .v 6] ∧ (c.blk.binds[3]?).join = none ∧
    (let x := fun (n : Nat) => (c.read (lowLane c.iss.active) (.v (Fin.ofNat 96 n))).toNat
     (∀ n, n < 6 → bitsOf (x n) 63 60 = 0 ∧ bitsOf (x n) 59 56 = n) ∧ bitsOf (x 6) 63 60 = 1 ∧ bitsOf (x 0) 55 0 = 0 ∧ bitsOf (x 4) 55 0 = 0 ∧ bitsOf (x 2) 55 0 = 15 ∧
     bitsOf (x 1) 55 0 % 64 = 0 ∧ bitsOf (x 1) 55 0 = 0x3FFF_FFC0) ∧
    (∃ y, (s.tower 0).stream? 15 = some y ∧ y.lid = c.blk.cfg.lid ∧ y.block = c.blk.cfg.index ∧ y.hasOut = false ∧ y.hasQuar = false) ∧
    (s.tower 0).stream? 16 = none ∧ (∀ g, 1 ≤ g → g < 16 → (s.tower 0).stream? g ≠ none) ∧
    walk s (s.coreTlb c.iss.core) c.blk.cfg.asid 0x3FFF_FFC0 = .ok (.pkg 0x3FFF_FFC0) ⟨true, true, true, false, false⟩ ∧ s.locFails (.pkg 0x3FFF_FFC0) 64 = false ∧
    ∃ (s' : State) (c' : Ctx), ctx? s' = some c' ∧ (c'.blk.binds[3]?).join = some .escrow ∧ Binding.isPop .escrow = true ∧
      ∃ (s'' : State) (c'' : Ctx), ctx? s'' = some c'' ∧ (c''.blk.binds[3]?).join = some (.intakeIn 15) ∧ Binding.isPop (.intakeIn 15) = false := by
  let h : Binding → Block → Block := fun p b => { b with binds := b.binds.set 3 (some p) }
  refine ⟨streamed (st binding), cx binding, holds, ok_of _ _ holds, ok_of _ _ holds, holds, holds,
    ⟨streamOf 15, holds, rfl, rfl, rfl, rfl⟩, holds, ?_, holds, holds, st binding (h .escrow), cx binding (h .escrow), holds,
    holds, holds, st binding (h (.intakeIn 15)), cx binding (h (.intakeIn 15)), holds, holds, holds⟩
  intro g h1 h2
  have h : ((List.range 16).all fun g => decide (g = 0) || ((streamed (st binding)).tower 0).stream? g != none) = true := by decide +kernel
  have := List.all_eq_true.mp h g (List.mem_range.mpr h2)
  simpa [show g ≠ 0 by omega] using this

theorem wit_QueueRegistersReachTheirPorts_push : ∃ (s : State) (b : Block) (x : Nat) (y : Stream), s.block? 0 = some b ∧ (s.tower 0).stream? x = some y ∧
    y.inQ.length + 16 ≤ 16 ∧ 16 < y.inQ.length + 17 :=
  ⟨streamed (st id), { loadBlock with gangs := [loadGang] }, 15, streamOf 15, holds, holds, holds, holds⟩

theorem wit_QueueRegistersReachTheirPorts_pop : ∀ es ∈ [[], [(7 : Word)]], ∃ (s : State) (b : Block) (p : Binding), s.block? 0 = some b ∧ s.portHeld 0 b.cfg.part p = es.length := by
  intro es hes
  let t : State := (st id).modTower 0 (fun t => { t with streams := [{ streamOf 15 with outQ := es }] })
  simp only [List.mem_cons, List.not_mem_nil, or_false] at hes
  obtain rfl | rfl := hes <;> exact ⟨t, { loadBlock with gangs := [loadGang] }, .intakeOut 15, holds, holds⟩

/-- A taken output port, and a record whose first granule fails. -/
theorem wit_QueueRegistersReachTheirPorts_refused :
    (∃ (s : State) (c : Ctx) (y : Stream), ctx? s = some c ∧ (s.tower 0).stream? 15 = some y ∧ y.lid = c.blk.cfg.lid ∧ y.block = c.blk.cfg.index ∧ y.hasOut = true) ∧
    ∃ (s : State) (c : Ctx), ctx? s = some c ∧ c.Fails s c.iss.active (.pkg 0x3FFF_FFC0) 0 :=
  ⟨⟨(st id).modTower 0 (fun t => { t with streams := [{ streamOf 15 with hasOut := true }] }), cx, { streamOf 15 with hasOut := true }, holds, holds,
    rfl, rfl, rfl⟩, { st id with failing := [0x1FF_FFFE] }, cx, holds, 0x3FFF_FFC0, rfl, holds, fun ⟨_, h, _⟩ => absurd h (List.not_mem_nil)⟩
/-- A gang with one operation, number 9, of lane 31, its stores still to be performed. -/
def operating (k : OpKind) (todo : List Access) (g : Gang) : Gang := { g with
  ops := [{ id := 9, cls := .a, kind := k, clauses := [], lanes := 0x80000000, cmd := some 3, todo := todo,
            regs := [{ lane := 31, reg := 511, value := 7 }, { lane := 31, reg := 511, bits := 0xFF, value := 8 }] }], nextId := 10 }

/-- Stores to the last bytes of the data scratchpad and to the last column group of the residue scratchpad. -/
def stores : List Access :=
  [{ lane := 31, lanes := 0x80000000, spot := .ds 0 0x7FFF8, n := 8, act := .store (List.replicate 8 1), async := true },
   { lane := 31, lanes := 0x80000000, spot := .rs (2048 * 4095), n := 2048, act := .store (List.replicate 2048 1), async := true }]

theorem wit_OperationsCompleteWithTheirResults : ∀ x ∈ [(OpKind.memory, stores), (.special, []), (.enc, stores), (.drainWrite, stores), (.command, []), (.memory, [])],
    ∃ (s : State) (b : Block) (g : Gang) (o : Op), s.block? 0 = some b ∧ b.gangs[0]? = some g ∧ g.ops.find? (·.id == 9) = some o ∧ o.kind = x.1 ∧ o.todo = x.2 ∧
      o.todo.all (fun y => !s.mustWait 0 0 g 9 y) = true ∧ g.held = [] ∧ o.regs ≠ [] ∧ o.masks = [] ∧ (g.ops.all (fun x => decide (9 ≤ x.id))) = true := by
  intro x hx
  refine ⟨st (operating x.1 x.2), { loadBlock with gangs := [operating x.1 x.2 loadGang] }, operating x.1 x.2 loadGang, (operating x.1 x.2 loadGang).ops.headD (openOp 0 (.rs 0) (.fill 0)), ?_⟩
  simp only [List.mem_cons, List.not_mem_nil, or_false] at hx
  obtain rfl | rfl | rfl | rfl | rfl | rfl := hx <;>
    exact ⟨holds, holds, holds, rfl, rfl, holds, rfl, holds, rfl, holds⟩

/-- A load of lanes 0 and 1 held on peer memory. -/
def peerLoad : Op := { openOp 5 (.vm (.peer 3 0x1000)) (.load .b8 false (some 511) none) with lanes := 3 }

theorem wit_OperationsCompleteWithTheirResults_peer : ∃ (s : State) (b : Block) (g : Gang) (h : Held) (o : Op), s.block? 0 = some b ∧ b.gangs[0]? = some g ∧
    (∀ o ∈ g.ops, o.id ≠ 5) ∧ g.heldOf 5 = some h ∧ h.kind = .peer o [] ∧ o.todo ≠ [] ∧ o.todo.all (fun x => !s.mustWait 0 0 g o.id x) = true ∧ g.pending = [] ∧ h.lanes.getLsbD 1 = true :=
  let f := waiting (.peer peerLoad [])
  ⟨st f, { loadBlock with gangs := [f loadGang] }, f loadGang, _, _, holds, holds, holds,
    rfl, rfl, holds, holds, holds, holds⟩

/-- Lanes 0 and 1 wait in `monw.u64.ne` at 0x10000, which holds the code; lane 0 and 1 wait in `qpop` on the Escrow. -/
def watching (g : Gang) : Gang := waiting (.monw .b64 .ne [{ lane := 1, reg := some 511, va := 0x10000, v := 0 }]) g

theorem wit_WaitsEndWhenTheirConditionsHold_lanes :
    (∃ (s : State) (b : Block) (g : Gang) (h : Held) (w : Width) (k : Cond) (e : MemElem) (loc : Loc) (leaf : Leaf), s.block? 0 = some b ∧ b.gangs[0]? = some g ∧
      g.held.findSome? (fun h => (h.monElem 1).map (fun x => (h, x))) = some (h, w, k, e) ∧ walk s (s.coreTlb 0) b.cfg.asid e.va = .ok loc leaf ∧ leaf.allows b.cfg.smode .read = true ∧
      s.locFails loc w.bytes = false ∧ g.pending = [] ∧ g.blocked h.id (e.monRead w loc) = false ∧ k = .ne ∧ ofLeBytes (s.readLoc loc w.bytes) ≠ e.v.toNat % 2 ^ w.bits) ∧
    (∃ (s : State) (b : Block) (g : Gang) (h : Held), s.block? 0 = some b ∧ b.gangs[0]? = some g ∧
      g.held.find? (fun h => h.lanes.getLsbD 1 && (match h.kind with | .qpop _ _ | .qpush _ _ => true | _ => false)) = some h ∧ (s.queueHeld 0 0 h).isSome = true) ∧
    ∃ (s : State) (b : Block) (g : Gang) (t : Nat), s.block? 0 = some b ∧ b.gangs[0]? = some g ∧ g.yielded = some t ∧ t + 8 < (s.core 0).cycles := by
  let p : Gang → Gang := waiting (.qpop .escrow [(1, 511)])
  let y : Gang → Gang := fun g => { g with yielded := some 5 }
  refine ⟨⟨st watching, { loadBlock with gangs := [watching loadGang] }, watching loadGang, _, _, _, _, .pkg 0x10000, ⟨true, true, true, false, false⟩, holds,
    holds, rfl, holds, holds, holds, rfl, holds, rfl, holds⟩,
    ⟨(st p).setPartition 0 { cores := [0], done := 4, ring := [⟨0, 8, 1, 4⟩] }, { loadBlock with gangs := [p loadGang] }, p loadGang, _, holds, holds,
      rfl, holds⟩, ?_⟩
  let s := st y
  exact ⟨s.setCore 0 { s.core 0 with cycles := 14 }, { loadBlock with gangs := [y loadGang] }, y loadGang, 5, holds, holds, rfl, holds⟩

theorem wit_WaitsEndWhenTheirConditionsHold_block :
    (∃ (s : State) (b : Block), s.block? 0 = some b ∧ s.flushReady b = true) ∧
    (∃ (s : State) (b : Block), s.block? 0 = some b ∧ (s.core 0).bind = .running ∧ b.quantumPassed = false ∧ b.since + 2 ^ 20 = (s.core 0).cycles) ∧
    (∀ k ∈ [TellerKind.store, .fadda, .amaxm], ∃ (s : State) (b : Block) (e : TellerEntry) (loc : Loc) (leaf : Leaf), s.block? 0 = some b ∧ e.kind = k ∧
      walk s (s.coreTlb 0) b.cfg.asid e.addr.toNat = .ok loc leaf ∧ leaf.allows b.cfg.smode e.kind.access = true ∧ (∀ p, loc ≠ .host p) ∧ s.locFails loc e.size = false) ∧
    (∃ (s : State) (b : Block) (e : TellerEntry) (loc : Loc) (leaf : Leaf), s.block? 0 = some b ∧ walk s (s.coreTlb 0) b.cfg.asid e.addr.toNat = .ok loc leaf ∧
      leaf.allows b.cfg.smode e.kind.access = false) ∧
    (∃ (s : State) (b : Block) (e : TellerEntry) (p : Nat) (leaf : Leaf), s.block? 0 = some b ∧ walk s (s.coreTlb 0) b.cfg.asid e.addr.toNat = .ok (.host p) leaf ∧
      leaf.allows b.cfg.smode e.kind.access = true ∧ e.kind ≠ .store) ∧
    ∃ (s : State) (src dst : Nat) (clock : List Nat), src < 8 ∧ dst < 8 ∧ src ≠ dst ∧ src < s.part.towers ∧ dst < s.part.towers ∧ (s.tower dst).inbox = [⟨src, clock, 0x40, List.replicate 64 1, none⟩] ∧ clock.getD src 0 = (s.tower dst).vclock.getD src 0 + 1 ∧
      ∀ t, t < 8 → t ≠ src → clock.getD t 0 ≤ (s.tower dst).vclock.getD t 0 := by
  let flushed : Gang → Gang := fun g => { g with flush := 1 }
  let e : TellerKind → TellerEntry := fun k => ⟨k, 4, 0x3FFF_FFFC, 7, 0, 31, 0, 0⟩
  refine ⟨⟨st flushed (staged 1 0), staged 1 0 { loadBlock with gangs := [flushed loadGang] }, holds, holds⟩, ?_, ?_, ?_, ?_,
    ⟨State.reset.modTower 0 (fun t => { t with inbox := [⟨7, [0, 0, 0, 0, 0, 0, 0, 1], 0x40, List.replicate 64 1, none⟩] }), 7, 0, [0, 0, 0, 0, 0, 0, 0, 1],
      holds, holds, holds, holds, holds⟩⟩
  · let s := st id
    exact ⟨s.setCore 0 { s.core 0 with cycles := 2 ^ 20 }, { loadBlock with gangs := [loadGang] }, holds, holds, holds, holds⟩
  · have h : ∀ k ∈ [TellerKind.store, .fadda, .amaxm], (⟨true, true, true, false, false⟩ : Leaf).allows false k.access = true := by decide
    intro k hk
    exact ⟨st id, { loadBlock with gangs := [loadGang] }, e k, .pkg 0x3FFF_FFFC, ⟨true, true, true, false, false⟩, holds, rfl,
      by show walk (st id) ((st id).coreTlb 0) 0 0x3FFF_FFFC = _; decide +kernel, h k hk, fun p h => (nomatch h), by show (st id).locFails (.pkg 0x3FFF_FFFC) 4 = _; decide +kernel⟩
  · let s := st id
    exact ⟨{ s with mem := memSetNat s.mem 0x200000 8 0x15 }, { loadBlock with gangs := [loadGang] }, e .fadda, .pkg 0x3FFF_FFFC, ⟨true, false, true, false, false⟩, holds,
      holds, holds⟩
  · exact ⟨hosted (st id), { loadBlock with gangs := [loadGang] }, e .fadda, 0x3FFF_FFFC, ⟨true, true, false, false, false⟩, holds, holds, holds,
      holds⟩

/-- A command of the block, its registers `rs`. -/
def command (k : CmdKind) (rs : List Word) : Command :=
  { id := 3, kind := k, lid := 0, block := 0, core := 0, queue := 7, ord := 1, asid := 0, smode := false, regs := rs }

/-- Nothing stands between a command and its homes: no copy of a line, no posted store, nothing of it done, and no write for it to miss. -/
def calm (s : State) (c : Command) : Prop :=
  s.copied = false ∧ (∀ x ∈ s.towers, x.posted = []) ∧ c.got = [] ∧ c.did = [] ∧ (c.rel = true ∨ s.homeLog = [])

theorem wit_EngineCommandsRunAndComplete :
    (∀ k ∈ [CmdKind.cpy, .cpyrd, .cpycv, .coll], ∃ (s : State) (c : Command), s.command? 3 = some c ∧ s.mayStart c = true ∧ c.coll = none ∧ c.kind = k ∧ c.skipped = false ∧ c.failure = none) ∧
    (∃ (s : State) (c : Command), s.command? 3 = some c ∧ s.mayStart c = true ∧ c.coll = none ∧ c.skipped = true ∧ c.started = false) ∧
    (∃ (s : State) (c : Command) (n e dst src : Nat) (x y : Loc) (fx fy : Leaf), s.command? 3 = some c ∧ s.mayStart c = true ∧ c.coll = none ∧ c.skipped = false ∧ calm s c ∧ c.kind = .cpy ∧
      c.reg 0 = dst ∧ c.reg 1 = src ∧ c.reg 2 = n + e * 2 ^ 40 ∧ e < 4 ∧ 0 < n ∧ n < 2 ^ 40 ∧ n % 2 ^ e = 0 ∧ dst % 2 ^ e = 0 ∧ src % 2 ^ e = 0 ∧ dst % 2 ^ 16 + n ≤ 2 ^ 16 ∧
      src % 2 ^ 16 + n ≤ 2 ^ 16 ∧ dst + n ≤ 2 ^ 56 ∧ src + n ≤ 2 ^ 56 ∧ (dst + n ≤ src ∨ src + n ≤ dst) ∧ walk s (c.tlb s) c.asid dst = .ok x fx ∧ fx.allows c.smode .write = true ∧
      walk s (c.tlb s) c.asid src = .ok y fy ∧ fy.allows c.smode .read = true ∧ s.locFails y n = false) ∧
    ∀ r ∈ [(0 : Word), 0x3FFF_FFF8, 0x3FFF_FFFC], ∃ (s : State) (c : Command), s.command? 3 = some c ∧ c.stopped = false ∧ c.finished = true ∧ c.stalled = false ∧
      (∀ x ∈ s.commands, x.lid = c.lid → x.block = c.block → x.queue = c.queue → c.id ≤ x.id) ∧ c.reg 3 = r.toNat ∧
      walk s (c.tlb s) c.asid 0x3FFF_FFF8 = .ok (.pkg 0x3FFF_FFF8) ⟨true, true, true, false, false⟩ := by
  refine ⟨?_, ?_, ?_, ?_⟩
  · intro k hk
    let s : State := { st id with commands := [command k []] }
    refine ⟨s, command k [], ?_, ?_, rfl, rfl, rfl, rfl⟩ <;>
      · simp only [List.mem_cons, List.not_mem_nil, or_false] at hk
        obtain rfl | rfl | rfl | rfl := hk <;> decide +kernel
  · exact ⟨{ st id with commands := [{ command .cpy [] with skipped := true }] }, { command .cpy [] with skipped := true }, holds, holds, rfl, rfl, rfl⟩
  · let c := command .cpy [0x1FFF_FFF8, 0x3FFF_FFF8, 3 * 2 ^ 40 + 8]
    exact ⟨{ st id with commands := [c] }, c, 8, 3, 0x1FFF_FFF8, 0x3FFF_FFF8, .pkg 0x1FFF_FFF8, .pkg 0x3FFF_FFF8, ⟨true, true, true, false, false⟩, ⟨true, true, true, false, false⟩,
      holds, holds, rfl, rfl, by unfold calm; decide +kernel, rfl, holds, holds, holds, holds, holds, holds, holds, holds, holds,
      holds, holds, holds, holds, holds, holds, holds, holds, holds, holds⟩
  · intro r hr
    let c : Word → Command := fun r => { command .cpy [0, 0, 0, r] with finished := true }
    refine ⟨{ st id with commands := [c r] }, c r, ?_, rfl, rfl, rfl, ?_, ?_, ?_⟩ <;>
      · simp only [List.mem_cons, List.not_mem_nil, or_false] at hr
        obtain rfl | rfl | rfl := hr <;> decide +kernel

/-- A `cpyrd` of one element by each operator, and a `cpycv` of eight columns of rows 32 bytes apart, up to the last bytes of the page. -/
theorem wit_EngineCommandsRunAndComplete_reductions : ∀ op < 6, ∃ (s : State) (c : Command) (dst src : Nat) (x y : Loc) (fx fy : Leaf), s.command? 3 = some c ∧
    s.mayStart c = true ∧ c.coll = none ∧ c.skipped = false ∧ calm s c ∧ c.kind = .cpyrd ∧ c.reg 0 = dst ∧ c.reg 1 = src ∧
    c.reg 2 = [4, 2, 4, 8, 4, 4].getD op 0 + op * 2 ^ 44 ∧ dst % 8 = 0 ∧ src % 8 = 0 ∧ dst + 8 ≤ 2 ^ 56 ∧ src + 8 ≤ 2 ^ 56 ∧
    walk s (c.tlb s) c.asid dst = .ok x fx ∧ fx.allows c.smode .both = true ∧ (∀ p, x ≠ .host p) ∧
    walk s (c.tlb s) c.asid src = .ok y fy ∧ fy.allows c.smode .read = true ∧ s.failing = [] := by
  intro op h
  let w : Nat → Word := fun op => BitVec.ofNat 64 ([4, 2, 4, 8, 4, 4].getD op 0 + op * 2 ^ 44)
  let c : Nat → Command := fun op => command .cpyrd [0x1FFF_FFF8, 0x3FFF_FFF8, w op]
  have hw : ∀ op < 6, (w op).toNat = [4, 2, 4, 8, 4, 4].getD op 0 + op * 2 ^ 44 := by decide
  exact ⟨{ st id with commands := [c op] }, c op, 0x1FFF_FFF8, 0x3FFF_FFF8, .pkg 0x1FFF_FFF8, .pkg 0x3FFF_FFF8, ⟨true, true, true, false, false⟩, ⟨true, true, true, false, false⟩,
    rfl, by revert op; decide +kernel, rfl, rfl, ⟨by revert op; decide +kernel, by revert op; decide +kernel, rfl, rfl, .inr rfl⟩, rfl, rfl, rfl, hw op h,
    holds, holds, holds, holds, by revert op; decide +kernel, rfl, fun _ h => (nomatch h), by revert op; decide +kernel, rfl, rfl⟩

theorem wit_EngineCommandsRunAndComplete_conversion : ∃ (s : State) (c : Command) (dst src stride : Nat) (x : Loc) (y : Nat → Loc), s.command? 3 = some c ∧
    s.mayStart c = true ∧ c.coll = none ∧ c.skipped = false ∧ calm s c ∧ c.kind = .cpycv ∧ c.reg 0 = dst ∧ c.reg 1 = src ∧ stride < 2 ^ 32 ∧
    c.reg 2 = 8 + 2 ^ 18 + stride * 2 ^ 32 ∧ stride % 4 = 0 ∧ src % 4 = 0 ∧ dst % 2048 = 0 ∧ dst + 2080 ≤ 2 ^ 56 ∧ dst % 2 ^ 16 + 2080 ≤ 2 ^ 16 ∧ src < 2 ^ 56 ∧
    (∀ i < 32, src + i * stride + 32 ≤ 2 ^ 56 ∧ (src + i * stride) % 2 ^ 16 + 32 ≤ 2 ^ 16 ∧
      walk s (c.tlb s) c.asid (src + i * stride) = .ok (y i) ⟨true, true, true, false, false⟩ ∧ s.locFails (y i) 32 = false) ∧
    walk s (c.tlb s) c.asid dst = .ok x ⟨true, true, true, false, false⟩ ∧ (⟨true, true, true, false, false⟩ : Leaf).allows c.smode .both = true := by
  let c := command .cpycv [0x1FFF_F000, 0x3FFF_FC00, 0x20_0004_0008]
  exact ⟨{ st id with commands := [c] }, c, 0x1FFF_F000, 0x3FFF_FC00, 32, .pkg 0x1FFF_F000, fun i => .pkg (0x3FFF_FC00 + i * 32), rfl, holds, rfl, rfl,
    by unfold calm; decide +kernel, rfl, rfl, rfl, holds, rfl, holds, holds, holds, holds, holds, holds, holds, holds, holds⟩

/-- Completion objects past the address space, not aligned, denied, and in a failing granule. -/
theorem wit_EngineCommandsRunAndComplete_objects : ∃ (s : State) (c : Word → Command), (∀ r, (c r).stopped = false ∧ (c r).finished = true ∧ (c r).stalled = false) ∧
    2 ^ 56 ≤ (c (2 ^ 56)).reg 3 ∧ (c 4).reg 3 % 8 ≠ 0 ∧
    (∃ x f, walk s ((c 0x3FFF_FFF8).tlb s) 0 0x3FFF_FFF8 = .ok x f ∧ f.allows (c 0x3FFF_FFF8).smode .both = false) ∧
    ∃ t pa f, walk t ((c 0x3FFF_FFF8).tlb t) 0 0x3FFF_FFF8 = .ok (.pkg pa) f ∧ f.allows (c 0x3FFF_FFF8).smode .both = true ∧ t.granulesFail pa 8 = true := by
  let c : Word → Command := fun r => { command .cpy [0, 0, 0, r] with finished := true }
  let s := st id
  exact ⟨{ s with mem := memSetNat s.mem 0x200000 8 0x15 }, c, fun _ => ⟨rfl, rfl, rfl⟩, holds, holds,
    ⟨.pkg 0x3FFF_FFF8, ⟨true, false, true, false, false⟩, holds, holds⟩,
    { s with failing := [0x1FF_FFFF] }, 0x3FFF_FFF8, ⟨true, true, true, false, false⟩, holds, holds, holds⟩

/-- Two ranks, with a buffer of 64 bytes to send and one to receive; this one is rank 0. -/
def coll : Coll := { n := 2, peers := [(0x1000_0000, 0x2000_0000), (0x1010_0000, 0x2010_0000)], bufs := [(0, 64), (0x1000, 64)] }

/-- A step with operation `op`: the other rank, buffers 0 and 1. -/
def stepWord (op : Nat) : Word := BitVec.ofNat 64 (op * 2 ^ 60 + (if op = 2 ∨ op = 3 ∨ op = 4 then 2 ^ 44 else 0) + (if op < 6 ∧ op ≠ 1 then 2 ^ 36 else 0))

/-- The program stands at such a step, with the partner's ready counter at 1. -/
def stepping (op : Nat) : State :=
  let s := st id
  { s with
    mem := memSetNat s.mem 0x2010_0000 8 1
    commands := [{ command .coll [] with started := true, coll := some { coll with steps := [stepWord op] } }] }

def engOk {α : Type} (e : Eng α) : Bool := match e with | .ok _ => true | _ => false

theorem of_engOk {α : Type} (e : Eng α) (h : engOk e = true) : ∃ a, e = .ok a := by
  cases e with
  | ok a => exact ⟨a, rfl⟩
  | fail c => simp [engOk] at h
  | stall f a k => simp [engOk] at h

theorem ran_chain (r : Ran) (f : State → Eng State) (g : State → Eng State)
    (h : (match r with | .done s _ => (match f s with | .ok t => engOk (g t) | _ => false) | _ => false) = true) :
    ∃ s1 z s2 s3, r = .done s1 z ∧ f s1 = .ok s2 ∧ g s2 = .ok s3 := by
  split at h
  · split at h
    · rename_i s1 z _ s2 h2
      obtain ⟨s3, h3⟩ := of_engOk _ h
      exact ⟨s1, z, s2, s3, rfl, h2, h3⟩
    · simp at h
  · simp at h

theorem wit_EngineCommandsRunAndComplete_steps : ∀ op, 1 ≤ op → op ≤ 9 → ∃ (s : State) (c : Command) (k : Coll), s.command? 3 = some c ∧ c.coll = some k ∧ c.finished = false ∧
    c.stalled = false ∧ c.stopped = false ∧ c.failure = none ∧ bitsOf (k.steps.getD k.pos 0).toNat 63 60 = op := by
  intro op h1 h9
  refine ⟨stepping op, _, { coll with steps := [stepWord op] }, rfl, rfl, rfl, rfl, rfl, rfl, ?_⟩
  have h : ((List.range 10).all fun op => decide (op = 0) || bitsOf (stepWord op).toNat 63 60 == op) = true := by decide
  have := List.all_eq_true.mp h op (List.mem_range.mpr (by omega))
  simpa [show op ≠ 0 by omega, coll] using this

theorem wit_EngineCommandsRunAndComplete_send : ∃ s1, (command .coll []).modCounter (stepping 1) 0x2000_0000 (· + 1) = .ok s1 :=
  of_engOk _ holds

theorem wit_EngineCommandsRunAndComplete_ready : (command .coll []).readCounter (stepping 2) 0x2010_0000 = .ok 1 ∧ (1 : Nat) < 2 ^ 63 ∧ coll.got.getD 0 0 < 1 ∧
    coll.size 0 = coll.size 1 := by
  refine ⟨?_, holds, holds, holds⟩
  have h : (match (command .coll []).readCounter (stepping 2) 0x2010_0000 with | .ok v => v == 1 | _ => false) = true := by decide +kernel
  split at h
  · rename_i v hv
    rw [hv]
    simpa using h
  · simp at h

theorem wit_EngineCommandsRunAndComplete_recv : ∃ s1 z s2 s3, (command .coll []).stepCopy ((command .coll []).acquired (stepping 2) 0x2010_0000) (.virt (coll.at 0 1 0)) (.virt (coll.at 1 0 0)) 64 = .done s1 z ∧
    (command .coll []).modCounter s1 (0x2010_0000 + 8) (· + 1) = .ok s2 ∧ (command .coll []).modCounter s2 0x2000_0000 (· + 1) = .ok s3 :=
  ran_chain _ _ _ holds

theorem wit_EngineCommandsRunAndComplete_reduce : ∃ s1 z s2 s3,
    (command .coll []).stepReduce { coll with steps := [stepWord 4] } ((command .coll []).acquired (stepping 4) 0x2010_0000) (.virt (coll.at 0 1 0)) (.virt (coll.at 1 0 0)) 64 = .done s1 z ∧
    (command .coll []).modCounter s1 (0x2010_0000 + 8) (· + 1) = .ok s2 ∧ (command .coll []).modCounter s2 0x2000_0000 (· + 1) = .ok s3 :=
  ran_chain _ _ _ holds

theorem wit_EngineCommandsRunAndComplete_wait : (∃ v, (command .coll []).readCounter (stepping 6) (0x2000_0000 + 8) = .ok v) ∧
    (match (command .coll []).allDone coll (stepping 9) (List.range 16) with | .ok b => b | _ => false) = true ∧
    ∃ s1, (command .coll []).clearOwn coll (List.range 32)
      ((List.range 16).foldl (fun s t => (command .coll []).acquired s (0x2000_0000 + 16 * t + 8)) (stepping 9)) = .ok s1 :=
  ⟨of_engOk _ holds, holds, of_engOk _ holds⟩
/-- A launch of two blocks, queued, its record's words `w`. -/
def launchOf (w : List Word) (p : Phase) (grid : Nat) : Launch :=
  { id := 0, part := 0, prio := 0, asid := 0, smode := false, lrec := 0x5000, fateAddr := 0x6000, words := w, phase := p, grid := grid }

/-- A launch record's words: grid 2, ensembles of 2 blocks, 1 gang, 32 registers; semaphore at 0x7000, at least 4. -/
def recWords : List Word := [0x10000, 0, 0, 0x2_0000_8001, 0x0101_0101_0000_0000, 0, 0, 0x7000, 4, 0, 0, 0, 0, 0, 0, 0]

def excOk {ε α : Type} (e : Except ε α) (p : α → Bool) : Bool := match e with | .ok x => p x | .error _ => false

theorem of_excOk {ε α : Type} (e : Except ε α) (p : α → Bool) (h : excOk e p = true) : ∃ x, e = .ok x ∧ p x = true := by
  cases e with
  | ok x => exact ⟨x, rfl, h⟩
  | error x => simp [excOk] at h

theorem of_excErr {ε α : Type} (e : Except ε α) (h : excOk e (fun _ => true) = false) : ∃ x, e = .error x := by
  cases e with
  | ok x => simp [excOk] at h
  | error x => exact ⟨x, rfl⟩

/-- The fields of a bind record of a block of that launch. -/
def fields (block : BitVec 32) : BindFields := ⟨0x5000, false, 9, block, 0x80, 0, 0, 0⟩

/-- Partition 0 of cores 0 and 1, its ring at 0x4000 with one entry: a record at `r`, a fate at 0x6000. -/
def ringed (q : Partition) (r : Nat) : State :=
  let s := (st id).setPartition 0 q
  { s with mem := memSetNat (cellSetList (memSetNat s.mem 0x4000 8 r) 0x5000 (recWords.flatMap (fun x => leBytes 8 x.toNat))) 0x4008 8 0x6000 }

/-- That partition; in it, the entry has been cancelled. -/
def ring (cancelled : List Nat := []) : Partition := { cores := [0, 1], queues := [{ base := 0x4000, tail := 1, cancelled := cancelled }] }

theorem wit_LaunchesAreSubmittedAndDequeued_submit : ∀ x ∈ [(0x5000, ring, none), (0x5000, ring [0], none), (0x5001, ring, some 2), (0x4040, ring, some 4)],
    ∃ (s : State) (p : Partition), s.partition? 0 = some p ∧ (p.queues.getD 0 {}).head ≠ (p.queues.getD 0 {}).tail ∧ memNat s.mem 0x4000 8 = x.1 ∧ p = x.2.1 ∧ p.lost = [] ∧ p.leaving = none ∧
      (s.submission 0 0 0 false p (memNat s.mem 0x4000 8) (memNat s.mem 0x4008 8)).2.2 = x.2.2 := by
  intro x hx
  refine ⟨ringed x.2.1 x.1, x.2.1, ?_⟩
  simp only [List.mem_cons, List.not_mem_nil, or_false] at hx
  obtain rfl | rfl | rfl | rfl := hx <;>
    exact ⟨holds, holds, holds, rfl, rfl, rfl, holds⟩

theorem wit_LaunchesAreSubmittedAndDequeued_read : (∃ bs, (ringed ring 0x5000).readRun [] 0 false 0x5000 128 = .ok bs ∧ true = true) ∧
    ∃ f, (ringed ring 0x5000).readRun [] 0 false 0x4000_0000_0000 128 = .error f := by
  refine ⟨of_excOk _ (fun _ => true) holds, ?_⟩
  exact of_excErr _ holds

/-- The queued launch of that record, the semaphore of which stands at `v`. -/
def dequeuing (v : Nat) : State :=
  let s := st id
  { s with launches := [launchOf recWords .queued 0], mem := memSetNat s.mem 0x7000 8 v }

theorem wit_LaunchesAreSubmittedAndDequeued_dequeue : ∀ v ∈ [3, 4], ∃ (s : State) (l : Launch), s.launch? 0 = some l ∧ l.phase = .queued ∧
    s.launches = [l] ∧ recWord l.words 7 % 2 ^ 56 ≠ 0 ∧ recWord l.words 8 = 4 ∧ bitsOf (recWord l.words 3) 18 18 = 0 ∧
    (∃ bs, s.readRun [] l.asid l.smode (recWord l.words 7 % 2 ^ 56) 8 = .ok bs ∧ (ofLeBytes bs == v) = true) ∧
    (∃ x, s.dequeueWords l = .ok x ∧ (x == (none, none, none, [])) = true) ∧ bitsOf (recWord l.words 3) 63 32 ≠ 0 := by
  intro v hv
  refine ⟨dequeuing v, launchOf recWords .queued 0, ?_⟩
  simp only [List.mem_cons, List.not_mem_nil, or_false] at hv
  obtain rfl | rfl := hv <;>
    exact ⟨holds, rfl, rfl, holds, holds, holds, of_excOk _ _ holds, of_excOk _ _ holds, holds⟩

/-- Cores 0 and 1 free, for the running launch of two blocks; with both blocks saved. -/
def placing (saved : List Saved) (x : List Nat) : State := { State.reset.withFetchWord 32 0 with
  cores := List.replicate 256 {}
  parts := some { cores := [0, 1] } :: List.replicate 15 none, launches := [{ launchOf recWords .running 2 with started := x }], saved := saved }

/-- The launch's block `i`, saved as the `i`-th. -/
def savedBlock (i : Nat) : Saved :=
  { area := 0x80000 + 0x40000 * i, block := { loadBlock with cfg := { loadBlock.cfg with lrec := 0x5000, index := i, ens := 2, grid := 2 } }, seq := i }

theorem wit_BindRecordsAndBlocksTakeTheirSteps_idle : (∃ (s : State) (l : Launch), 1 < s.cores.length ∧ (s.core 1).bind = .idle ∧ (fields 1).reserved = 0 ∧
      s.mayPlace false 1 (fields 1) = some l) ∧
    (∃ (s : State), 255 < s.cores.length ∧ (s.core 255).bind = .idle ∧ (fields 1).reserved = 0 ∧ s.mayPlace false 255 (fields 1) = none ∧ s.mayPlace true 255 (fields 1) = none) ∧
    (∃ (s : State) (l : Launch) (x : Saved), 1 < s.cores.length ∧ (s.core 1).bind = .idle ∧ s.mayPlace true 1 (fields 1) = some l ∧ s.savedFor l (fields 1) = some x) ∧
    ({ fields 1 with reserved := 1 } : BindFields).reserved ≠ 0 :=
  ⟨⟨placing [] [], { launchOf recWords .running 2 with started := [] }, holds, holds, rfl, holds⟩,
    ⟨placing [] [], holds, holds, rfl, holds, holds⟩,
    ⟨placing [savedBlock 0, savedBlock 1] [0, 1], { launchOf recWords .running 2 with started := [0, 1] }, savedBlock 1, holds, holds,
      holds, holds⟩, holds⟩

theorem wit_BindRecordsAndBlocksTakeTheirSteps_busy : ∀ k ∈ [BindState.saved, .exited, .killed, .start],
    (({ State.reset with cores := List.replicate 255 {} ++ [{ bind := k }] } : State).core 255).bind = k := by decide +kernel

/-- A sliced block past its quantum, on core 0 of a partition of one core, for which another launch of its priority waits. -/
def sliced (b : Block) : Block := { b with quantumPassed := true, cfg := { b.cfg with sliced := true } }

/-- The words of that launch: one block, an ensemble of one, sliced. -/
def slicedWords : List Word := [0x10000, 0, 0, 0x1_0002_0001, 0x0101_0101_0000_0000, 0, 0, 0, 0, 0, 0, 0, 0, 0, 0, 0]

/-- The module in which core 0 is to be handed over, and one in which nobody waits. -/
def handing : State := { (st id sliced).setPartition 0 { cores := [0] } with
  launches := [{ launchOf slicedWords .running 1 with started := [0] }, { launchOf slicedWords .running 1 with id := 1, order := 1 }] }

theorem wit_BindRecordsAndBlocksTakeTheirSteps_save : (∃ (s : State) (b : Block), (s.core 0).block = some b ∧ (s.core 0).bind = .running ∧ s.maySave b = true) ∧
    ∃ (s : State) (b : Block), (s.core 0).block = some b ∧ (s.core 0).bind = .running ∧ s.maySave b = false :=
  ⟨⟨handing, sliced { loadBlock with gangs := [loadGang] }, holds, holds, holds⟩,
    st id, { loadBlock with gangs := [loadGang] }, holds, holds, holds⟩

/-- The block on core 0 is being saved. -/
def saving : State := (st id).setCore 0 { (st id).core 0 with bind := .saving }

theorem saving_members : saving.membersOf ({ loadBlock with gangs := [loadGang] } : Block).ensemble = [0] := by decide +kernel
theorem saving_core : (saving.core 0).block = some { loadBlock with gangs := [loadGang] } ∧ saving.block? 0 = some { loadBlock with gangs := [loadGang] } ∧
    (saving.core 0).bind = .saving := by decide +kernel
theorem saving_quiet : saving.quiesced ({ loadBlock with gangs := [loadGang] } : Block).quiet = true ∧ ({ loadBlock with gangs := [loadGang] } : Block).finished = false := by
  decide +kernel

theorem wit_BindRecordsAndBlocksTakeTheirSteps_saving : ∃ (s : State) (b : Block), (s.core 0).block = some b ∧ (s.core 0).bind = .saving ∧
    ∀ m ∈ s.membersOf b.ensemble, (s.core m).bind = .saving ∧ ∃ x, s.block? m = some x ∧ s.quiesced x.quiet = true ∧ x.finished = false := by
  refine ⟨saving, _, saving_core.1, saving_core.2.2, fun m hm => ?_⟩
  rw [saving_members, List.mem_singleton] at hm
  subst hm
  exact ⟨saving_core.2.2, _, saving_core.2.1, saving_quiet.1, saving_quiet.2⟩

/-- A gang whose lanes have all exited. -/
def gone (g : Gang) : Gang := { g with lanes := g.lanes.map (fun l => { l with exited := true }) }

theorem wit_BindRecordsAndBlocksTakeTheirSteps_exit : ((st gone).core 0).block = some { loadBlock with gangs := [gone loadGang] } ∧ ((st gone).core 0).bind = .running ∧
    ({ loadBlock with gangs := [gone loadGang] } : Block).finished = true ∧ (st gone).saved = [] ∧
    (st gone).cores.length = 256 ∧ ((List.range 256).all fun m => decide (m = 0) || ((st gone).block? m).isNone) = true := by decide +kernel

/-- The launch of the block on core 0 has had a block killed; a command of that block names its scratchpads, all its lanes having exited. -/
theorem wit_BindRecordsAndBlocksTakeTheirSteps_killed : (∃ (s : State) (b : Block), (s.core 0).block = some b ∧ (s.launch? b.cfg.lid).any (·.kill.isSome) = true) ∧
    ∃ (s : State) (b : Block) (c : Command), (s.core 0).block = some b ∧ b.finished = true ∧ c ∈ s.commands ∧ c.lid = b.cfg.lid ∧ c.block = b.cfg.index ∧
      c.namesScratch = true ∧ c.finished = false ∧ c.failure = none := by
  let c : Command := { id := 3, kind := .cpy, lid := 0, block := 0, core := 0, queue := 7, ord := 1, asid := 0, smode := false, regs := [0x1000, 0, 2 ^ 42] }
  exact ⟨⟨{ st id with launches := [{ launchOf recWords .running 2 with kill := some { block := 0, src := 2 } }] }, { loadBlock with gangs := [loadGang] }, holds, holds⟩,
    { st gone with commands := [c] }, { loadBlock with gangs := [gone loadGang] }, c, holds, holds, List.mem_singleton_self c, rfl, rfl,
    holds, rfl, rfl⟩

/-- Cores 0 and 1 with records that read start, for the two blocks of a running launch. -/
def starting : State :=
  let s := placing [] []
  (s.setCore 0 { s.core 0 with bind := .start, bindRec := fields 0 }).setCore 1 { s.core 1 with bind := .start, bindRec := fields 1 }

theorem wit_BindRecordsAndBlocksTakeTheirSteps_start : (starting.core 0).bind = .start ∧ starting.launchOf (starting.core 0) = some (launchOf recWords .running 2) ∧
    [0, 1] = (starting.startCores (starting.core 0)).filter (fun m =>
      (ensembleBlocks (launchOf recWords .running 2) (starting.core 0).bindRec.block.toNat).contains (starting.core m).bindRec.block.toNat) ∧
    [0, 1].length = (ensembleBlocks (launchOf recWords .running 2) (starting.core 0).bindRec.block.toNat).length ∧
    ([0, 1].map (fun m => (starting.core m).bindRec.block.toNat)).Nodup ∧
    (ensembleBlocks (launchOf recWords .running 2) (starting.core 0).bindRec.block.toNat).headD 0 = (launchOf recWords .running 2).started.length ∧
    (∀ m ∈ [0, 1], m / 4 = [0, 1].headD 0 / 4) ∧ starting.takesBlocks ([0, 1].headD 0 / 32) = true := by decide +kernel

/-! Intake: tower 0 with the stream 1. -/

/-- Tower 0 with the stream `x`. -/
def withStream (x : Stream) : State := (st id).modTower 0 (fun t => { t with streams := [x] })

/-- The stream 1 with the element `e` waiting and room for one marker. -/
def streamIn (e : Word) : Stream := { streamOf 1 with inQ := [e], outQ := List.replicate 63 0 }

theorem wit_IntakeStreamsTakeTheirStages_start : (((withStream (streamIn 0x2000)).tower 0).stream? 1 = some (streamIn 0x2000) ∧ ((withStream (streamIn 0x2001)).tower 0).stream? 1 = some (streamIn 0x2001)) ∧ (streamIn 0).stopped = false ∧
    (streamIn 0).stalled = [] ∧ (streamIn 0).msg = none ∧
    (∀ e, (streamIn e).inQ = [e]) ∧ (streamIn 0).outQ.length = 63 ∧
    walk (withStream (streamIn 0x2000)) ((streamIn 0x2000).tlb (withStream (streamIn 0x2000))) 0 0x2000 = .ok (.pkg 0x2000) ⟨true, true, true, false, false⟩ ∧ (⟨true, true, true, false, false⟩ : Leaf).allows false .read = true ∧
    (withStream (streamIn 0x2000)).locFails (.pkg 0x2000) 64 = false :=
  ⟨holds, rfl, rfl, rfl, fun _ => rfl, holds, holds, holds, holds⟩

/-- A message of two bytes of ASCII at 0x3000, its text to be at 0x4000. -/
def message2 : Msg := { desc := 0x2000, src := 0x3000, srclen := 2, policy := false, cs := 0, frm := 0, text := 0x4000, cap := 2 }

/-- The stream that works on the message `m`, with its tables at 0x8000 and one merge. -/
def working (m : Msg) : Stream := { streamOf 1 with msg := some m, notok := false, cls := 0x8000, bnd := 0x8100, mtab := 0x8140, mcount := 1 }

theorem wit_IntakeStreamsTakeTheirStages_decode : ((withStream (working message2)).tower 0).stream? 1 = some (working message2) ∧ (working message2).msg = some message2 ∧
    (working message2).stopped = false ∧ (working message2).stalled = [] ∧ message2.decodeDone = false ∧
    message2.fault = none ∧ (∃ d, message2.decode (working message2) (withStream (working message2)) = .ok d ∧
      (d.cause.isNone && decide ((transcode message2.cs message2.policy (d.final && d.cause.isNone) ((message2.decoded ++ d.bytes).length + 1) 0 (message2.decoded ++ d.bytes)).bytes.length ≤ 2)
        && (transcode message2.cs message2.policy (d.final && d.cause.isNone) ((message2.decoded ++ d.bytes).length + 1) 0 (message2.decoded ++ d.bytes)).err.isNone) = true) ∧
    ∃ s1, (working message2).writeText (withStream (working message2)) 0x4000 [0x61, 0x62] = .ok s1 ∧ true = true :=
  ⟨holds, rfl, rfl, rfl, rfl, rfl, of_excOk _ _ holds, of_excOk _ (fun _ => true) holds⟩

/-- The same with its text written and none of it tokenised; with a token waiting; with all of it delivered; and with a fault. -/
def message3 : Msg := { message2 with decodeDone := true, utf8 := [0x61, 0x62] }
def message4 : Msg := { message3 with consumed := 2, pendingTokens := [0x61] }
def message5 : Msg := { message3 with consumed := 2 }
def message6 : Msg := { message2 with fault := some (1, 2) }

theorem wit_IntakeStreamsTakeTheirStages_tokens :
    (∀ m ∈ [message3, message4, message5, message6], ((withStream (working m)).tower 0).stream? 1 = some (working m) ∧ (working m).msg = some m ∧ (working m).stalled = []) ∧
    (message4.pendingTokens ≠ [] ∧ (working message4).outQ.length < 64) ∧
    (message3.pendingTokens = [] ∧ message3.consumed < message3.utf8.length ∧ ∃ t, (working message3).tables (withStream (working message3)) = .ok t ∧
      (pieceLen t.1 t.2.1 (message3.decodeDone && message3.fault.isNone) (message3.utf8.drop message3.consumed) 0 0 0).isSome = true) :=
  ⟨holds, holds, rfl, holds, of_excOk _ _ holds⟩

theorem wit_IntakeStreamsTakeTheirStages_end : (message5.decodeDone = true ∧ message5.fault = none ∧ message5.pendingTokens = [] ∧ message5.utf8.length ≤ message5.consumed) ∧
    (message6.fault = some (1, 2) ∧ message6.pendingTokens = [] ∧ (working message6).quarQ.length < 16 ∧ message6.noStatus = false) ∧
    (∃ s1, (withStream (working message5)).writeRun [] 0 false (message5.desc.toNat + 56) (leBytes 8 2) = .ok s1 ∧ true = true) ∧
    ∃ s1, (withStream (working message6)).writeRun [] 0 false (message6.desc.toNat + 56) (leBytes 8 (2 + 2 ^ 40)) = .ok s1 ∧ true = true :=
  ⟨holds, holds, of_excOk _ (fun _ => true) holds, of_excOk _ (fun _ => true) holds⟩
/-! Faults, the host and management. -/

/-- A fault record of tower 0 in entry 63, on which word 5 of gang 0 waits. -/
def faultRec : FaultRec :=
  { key := 0x200000, kind := 1, level := 2, page := 0, asid := 0, acc := 0, src := 0, srcno := 0, count := 1, entry := some 63, reqs := [.word 0 0 5] }

/-- What that word repeats: a load of lanes 0 and 1. -/
def work : VWork := .load .b64 false {} [{ lane := 0, reg := some 3, va := 0x4000_0000 }, { lane := 1, reg := some 511, va := 0x1000 }] []

/-- That word, of a clause of which one word is left. -/
def faulting (k : Option VWork) (g : Gang) : Gang :=
  let g1 := waiting (.fault [(0x200000, 1, 0x4000_0000)] k) g
  { g1 with lanes := g1.lanes.map (fun l => { l with cpos := 1 }) }

/-- The module with the record and the word. -/
def faulted (k : Option VWork) : State := (st (faulting k)).modTower 0 (fun t => { t with faults := [faultRec] })

theorem wit_FaultRecordsAndInvalidations :
    ((((faulted work).tower 0).faults.find? (fun x => x.entry == some 63) = some faultRec) ∧ ∀ r ∈ ((faulted work).tower 0).faults, r.entry ≠ some 0) ∧
    (∀ k ∈ [none, some work], ∃ (b : Block) (g : Gang) (h : Held), (faulted k).block? 0 = some b ∧ b.gangs[0]? = some g ∧ g.heldOf 5 = some h ∧
      h.kind = .fault [(0x200000, 1, 0x4000_0000)] k ∧ (g.lane (lowLane h.lanes)).cpos ≠ 0) ∧
    [((0x200000 : Nat), (1 : Nat), (0x4000_0000 : Nat))].find? (fun w => w.1 == 0x200000) = some (0x200000, 1, 0x4000_0000) ∧
    ∃ c u, ctx? ({ (faulted work).setGang 0 0 ((faulting work loadGang).unhold 5 3) with cur := iss 3 } : State) = some c ∧
      c.repeatWork ({ (faulted work).setGang 0 0 ((faulting work loadGang).unhold 5 3) with cur := iss 3 } : State) work = .next u := by
  refine ⟨holds, ?_, holds, ?_⟩
  · intro k hk
    refine ⟨{ loadBlock with gangs := [faulting k loadGang] }, faulting k loadGang, ⟨5, iss 3, 3, .fault [(0x200000, 1, 0x4000_0000)] k⟩, ?_⟩
    simp only [List.mem_cons, List.not_mem_nil, or_false] at hk
    obtain rfl | rfl := hk <;>
      exact ⟨holds, holds, holds, rfl, holds⟩
  · let c : Ctx := ⟨{ loadBlock with gangs := [(faulting work loadGang).unhold 5 3] }, (faulting work loadGang).unhold 5 3, iss 3⟩
    obtain ⟨u, hu⟩ := next_of (c.repeatWork ({ (faulted work).setGang 0 0 ((faulting work loadGang).unhold 5 3) with cur := iss 3 } : State) work) holds
    exact ⟨c, u, holds, hu⟩

/-- A `qbind` that stalled on its record, and is to repeat. -/
theorem wit_FaultRecordsAndInvalidations_bind : ∃ (g : Gang) (h : Held) (c : Ctx), (faulted (some (.bind (.v 3) 0 0x4000_0000))).gang? 0 0 = some g ∧ g.heldOf 5 = some h ∧
    h.kind = .fault [(0x200000, 1, 0x4000_0000)] (some (.bind (.v 3) 0 0x4000_0000)) ∧
    ctx? ({ (faulted (some (.bind (.v 3) 0 0x4000_0000))).setGang 0 0 (g.unhold 5 h.lanes) with cur := h.iss } : State) = some c :=
  let k : Option VWork := some (.bind (.v 3) 0 0x4000_0000)
  ⟨faulting k loadGang, ⟨5, iss 3, 3, .fault [(0x200000, 1, 0x4000_0000)] k⟩, ⟨{ loadBlock with gangs := [(faulting k loadGang).unhold 5 3] }, (faulting k loadGang).unhold 5 3, iss 3⟩,
    holds, holds, rfl, holds⟩

/-- The module with an invalidation of the page at 0x10000 of context 0xFFFF; in it, gang 0 of a block in that context has a load to perform. -/
def invalidating (g : Gang → Gang) : State :=
  { st g (fun b => { b with cfg := { b.cfg with asid := 0xFFFF } }) with inval := some (some (0xFFFF, some 1)) }

theorem wit_FaultRecordsAndInvalidations_inval :
    State.reset.inval = none ∧ (∃ s : State, s.inval = some (some (0xFFFF, some 1)) ∧ ∃ k ∈ s.cores, ∃ b, k.block = some b ∧ b.cfg.asid = 0xFFFF ∧ ∃ g ∈ b.gangs, ∃ o ∈ g.ops,
      (∃ x ∈ o.todo, ∃ l, x.spot = .vm l) ∧ o.asid = some 0xFFFF) ∧
    ∃ s : State, s.inval = some (some (0xFFFF, some 1)) ∧ s.cores.all (fun k => k.block.isNone) = true := by
  let o : Op := { openOp 9 (.vm (.pkg 0)) (.load .b8 false none none) with asid := some 0xFFFF }
  let f : Gang → Gang := fun g => { g with ops := [o], nextId := 10 }
  refine ⟨rfl, ⟨invalidating f, rfl, (invalidating f).core 0, ?_, { loadBlock with gangs := [f loadGang], cfg := { loadBlock.cfg with asid := 0xFFFF } }, holds, rfl,
    f loadGang, List.mem_singleton_self _, o, List.mem_singleton_self _, ⟨_, List.mem_singleton_self _, .pkg 0, rfl⟩, rfl⟩,
    { State.reset with inval := some (some (0xFFFF, some 1)) }, rfl, holds⟩
  have h : (invalidating f).cores[0]? = some ((invalidating f).core 0) := by decide +kernel
  exact List.mem_of_getElem? h

/-- What else an invalidation of the page at 0x10000 of context 0xFFFF waits for, by the entries used: a word held on a peer's memory, in the Toss unit, or at a drain to
memory; and the entries of that page that it removes, at each level, and one of another page that it does not. -/
theorem wit_FaultRecordsAndInvalidations_used :
    (∀ k ∈ [HeldKind.peer { openOp 5 (.vm (.peer 3 0x1000)) (.load .b8 false none none) with asid := some 0xFFFF } [],
        .toss { kind := .genHi, regs := [], words := [], ins := [], outs := [], record := recordRange, vias := [(0, 1)] }, .drain { drainOf none true with vias := [(1, 0)] }],
      ∃ (s : State) (b : Block) (g : Gang) (h : Held), s.inval = some (some (0xFFFF, some 1)) ∧ s.block? 0 = some b ∧ b.cfg.asid = 0xFFFF ∧ b.cfg.det = false ∧ b.gangs[0]? = some g ∧
        h ∈ g.held ∧ h.kind = k) ∧
    (∀ v ∈ [(4, 0), (3, 0), (2, 0), (1, 0), (0, 1)], v.2 = pageAt (1 * 2 ^ 16) v.1) ∧ pageAt (1 * 2 ^ 16) 0 ≠ 2 := by
  refine ⟨?_, holds, holds⟩
  intro k hk
  refine ⟨invalidating (waiting k), { loadBlock with gangs := [waiting k loadGang], cfg := { loadBlock.cfg with asid := 0xFFFF } }, waiting k loadGang, ⟨5, iss 3, 3, k⟩, rfl, ?_, rfl,
    rfl, rfl, List.mem_singleton_self _, rfl⟩
  simp only [List.mem_cons, List.not_mem_nil, or_false] at hk
  obtain rfl | rfl | rfl := hk <;> decide +kernel

/-- The device ready, with a message of the words `ws` as its first entry, in a state `s`. -/
def hostSends (ws : List Word) (s : State) : State :=
  { s with hostMem := cellSetList [] (0x9000 + 64) ((1 :: ws).flatMap (fun x => leBytes 8 x.toNat)), mailbox := { s.mailbox with ready := true, h2dbase := 0x9000, h2dtail := 1 } }

/-- The entry that the device reads next is the first, and its second word is `w1`. -/
def nextIs (s : State) (w1 : Word) : Bool := match s.nextEntry with
  | some (q, w) => q == 1 && w.getD 0 0 == q && w.getD 1 0 == w1
  | none => false

/-- A partition of core 0, with two launches of that partition: one queued, one running. -/
def hosting : State := { st id with
  parts := (List.replicate 15 none) ++ [some { cores := [0] }]
  launches := [launchOf recWords .queued 0, { launchOf recWords .running 2 with id := 1, fateAddr := 0x6008 }] }

theorem wit_HostMessagesHaveTheirEffects_kinds : ∀ k, 1 ≤ k → k ≤ 9 → nextIs (hostSends [BitVec.ofNat 64 (k + 15 * 2 ^ 8), 0x6000] hosting) (BitVec.ofNat 64 (k + 15 * 2 ^ 8)) = true ∧
    bitsOf (BitVec.ofNat 64 (k + 15 * 2 ^ 8)).toNat 7 0 = k ∧ bitsOf (BitVec.ofNat 64 (k + 15 * 2 ^ 8)).toNat 11 8 = 15 := by
  intro k h1 h9
  have h : ((List.range 10).all fun k => nextIs (hostSends [BitVec.ofNat 64 (k + 15 * 2 ^ 8), 0x6000] hosting) (BitVec.ofNat 64 (k + 15 * 2 ^ 8)) &&
      (bitsOf (BitVec.ofNat 64 (k + 15 * 2 ^ 8)).toNat 7 0 == k && bitsOf (BitVec.ofNat 64 (k + 15 * 2 ^ 8)).toNat 11 8 == 15)) = true := by decide +kernel
  have := List.all_eq_true.mp h k (List.mem_range.mpr (by omega))
  simpa using this

theorem wit_HostMessagesHaveTheirEffects_submit :
    hosting.partition? 0 = none ∧ (∃ x, hosting.partition? 15 = some x ∧ (x.queues.getD 7 {}).tail - (x.queues.getD 7 {}).head < 2 ^ (x.queues.getD 7 {}).log2) ∧
    ∃ lq : LaunchQueue, lq.tail - lq.head = 2 ^ lq.log2 := by
  exact ⟨holds, ⟨{ cores := [0] }, holds, holds⟩, { tail := 16 }, holds⟩

theorem wit_HostMessagesHaveTheirEffects_abort :
    hosting.launches.find? (fun l => l.phase != .ended && l.fateAddr != 0 && l.fateAddr.toNat == 0x6000) = some (launchOf recWords .queued 0) ∧
    hosting.launches.find? (fun l => l.phase != .ended && l.fateAddr != 0 && l.fateAddr.toNat == 0x6008) = some { launchOf recWords .running 2 with id := 1, fateAddr := 0x6008 } ∧
    ∀ l ∈ hosting.launches, l.phase = .ended ∨ l.fateAddr = 0 ∨ l.fateAddr.toNat ≠ 0x6010 := by decide +kernel

theorem wit_HostMessagesHaveTheirEffects_unread : ∃ (s : State) (x : Partition) (lq : LaunchQueue), s.partition? 0 = some x ∧ x.queues[0]? = some lq ∧ lq.head ≤ 0 ∧ 0 < lq.tail ∧
    0 ∉ lq.cancelled ∧ bitsOf (memNat s.mem (lq.base + 16 * (0 % 2 ^ lq.log2) + 8) 8) 55 0 = 0x6000 ∧ s.launches.all (fun l => l.fateAddr.toNat != 0x6000) = true ∧
    x.cores ≠ [] ∧ State.reset.security.staged = false :=
  ⟨ringed ring 0x5000, ring, { base := 0x4000, tail := 1 }, holds, rfl, holds, holds, holds, holds, holds, holds, rfl⟩

theorem wit_HostMessagesHaveTheirEffects_towers :
    ((hosting.tower 7).retired = false ∧ (hosting.tower 7).retirePending = false) ∧ ((hosting.modTower 7 (fun t => { t with retirePending := true })).tower 7).retirePending = true ∧
    (hosting.core (32 * 7 + 31)).bind = .idle ∧ (hosting.core 0).bind ≠ .idle ∧ 7 < (match Part.p88 with | .p88 => 8 | .p48 => 4 | .p28 => 2) ∧
    (match Part.p28 with | .p88 => 8 | .p48 => 4 | .p28 => 2) ≤ 2 := by decide +kernel

/-- The words of a PARTITION_CONFIG of partition 15 with the cores 1 and 255: Escrow log2 10, launch queues log2 4, as R373 lays them out. -/
def partWords (e : Nat) : List Nat := [1, 6 + 15 * 2 ^ 8 + 2 ^ 16, 2, 0, 0, 2 ^ 63, e + 4 * 2 ^ 8, 0]

theorem wit_HostMessagesHaveTheirEffects_partition :
    partBad (partWords 9) State.reset 15 [1, 255] = true ∧ partBad (partWords 10) State.reset 15 [1, 255] = false ∧
    (List.range 256).filter (fun c => ((partWords 10).getD (2 + c / 64) 0).testBit (c % 64)) = [1, 255] ∧
    State.reset.refusesCores 15 [1, 255] = false ∧ ({ State.reset with mailbox := { State.reset.mailbox with reduced := true } } : State).refusesCores 15 [1, 255] = true ∧
    State.reset.ringsOk 0x10000 (List.replicate 8 0x20000) 10 4 = true ∧ State.reset.partition? 15 = none ∧
    (∃ x, hosting.partition? 15 = some x ∧ ∀ c ∈ x.cores, c ∉ [0, 1] → (hosting.core c).bind ≠ .start ∧ (hosting.core c).block = none) := by
  refine ⟨holds, holds, holds, holds, holds, holds, holds, { cores := [0] }, holds, ?_⟩
  intro c hc h
  simp only [List.mem_singleton] at hc
  subst hc
  simp at h

/-- The block on core 0 departs, by a reconfiguration of partition 15 under way that leaves it out; none departs once it is saved; an ensemble of the partition is being placed. -/
def leaving (s : State) : State := { s with parts := (List.replicate 15 none) ++ [some { cores := [0, 1], leaving := some [1] }] }

theorem wit_HostMessagesHaveTheirEffects_leaving :
    ((leaving (st id)).underWay = some (15, [1]) ∧ (leaving (st id)).departs 0 = true ∧ ((leaving (st id)).core 0).block ≠ none ∧ 0 < (leaving (st id)).cores.length) ∧
    ((leaving State.reset).underWay = some (15, [1]) ∧ ((List.range 256).all fun c => ((leaving State.reset).core c).block.isNone) = true ∧
      ((leaving State.reset).partition? 15).isSome = true) ∧
    (∃ s : State, s.underWay = none ∧ (s.partition? 0).isSome = true ∧ s.placing 0 = true) ∧
    ∃ (s : State) (x : Partition), s.underWay = none ∧ s.partition? 15 = some x ∧ s.placing 15 = false ∧ (s.setPartition 15 { x with leaving := some [1] }).departs 0 = true ∧
      (s.core 0).block ≠ none := by
  refine ⟨holds, holds, ⟨?_, ?_, ?_, ?_⟩, ⟨hosting, { cores := [0] }, holds, holds, holds, holds, holds⟩⟩
  · let s := placing [] []
    exact s.setCore 0 { s.core 0 with bind := .start, bindRec := fields 0, lid := 0 }
  · decide +kernel
  · decide +kernel
  · decide +kernel

theorem wit_HostMessagesHaveTheirEffects_reports : State.reset.security.attestIndex < 65536 ∧
    65536 ≤ ({ State.reset with security := { State.reset.security with attestIndex := 65536 } } : State).security.attestIndex ∧
    imagePasses [] State.reset.security.fusedSvn = false := by decide +kernel

theorem wit_ManagementAndReliabilityStepsHaveTheirEffects_stores :
    (State.reset.mailbox.apbase.toNat + (2 ^ 36 - 8) + 8 ≤ State.reset.part.towers * Config.towerBytes) ∧ (2 ^ 36 - 8) + 8 ≤ 2 ^ 36 ∧
    State.reset.granulesFail (2 ^ 36 - 8) 8 = false ∧ (2 ^ 36 - 8) % 8 = 0 ∧ (State.reset.core 255).bind = .idle ∧ ((st id).core 0).bind ≠ .idle ∧
    (256 : Word).getLsbD 8 = true ∧ (255 : Word).getLsbD 8 = false ∧ (State.reset.tower 7).retired = false ∧ (State.reset.tower 7).retirePending = false ∧
    ((State.reset.modTower 7 (fun t => { t with retirePending := true })).tower 7).retirePending = true ∧ State.reset.towerRuns 7 = false := by decide +kernel

/-- A store of lane 31 to peer 3 that is not answered. -/
def storing (g : Gang) : Gang := { g with ops := [openOp 9 (.vm (.peer 3 0)) (.store [7])], nextId := 10 }

/-- A copy from peer 3, and one that has finished, its object there. -/
def peerCopy : Command := command .cpy [0x4000_0000, 0x3FFF_FFF8, 3 * 2 ^ 40 + 8]
def peerDone : Command := { command .cpy [0x4000_0000, 0, 0, 0x3FFF_FFF8] with finished := true }

theorem wit_ManagementAndReliabilityStepsHaveTheirEffects_peers :
    (∃ (g : Gang) (h : Held) (o : Op) (y : Access) (l : Nat), (st (waiting (.peer { openOp 5 (.vm (.peer 3 0x1000)) (.load .b8 false (some 511) none) with
        todo := [{ lane := 0, lanes := 1, spot := .vm (.peer 3 0x1000), n := 1, act := .load .b8 false (some 511) none }] } [(0, 0x1000)]))).gang? 0 0 = some g ∧
      g.held.find? (fun h => h.lanes.getLsbD l && !g.pending.any (fun p => p.heldId == h.id)) = some h ∧ h.kind = .peer o [(0, 0x1000)] ∧
      o.todo.find? (fun x => x.lane == l && x.spot.isPeer && x.reads) = some y ∧ y.spot = .vm (.peer 3 0x1000)) ∧
    (∃ (g : Gang) (o : Op), (st storing).gang? 0 0 = some g ∧ g.ops.find? (·.id == 9) = some o ∧ o.todo.any (fun y => y.spot.isPeer && y.writes && !g.blocked 9 y) = true) ∧
    (∃ (s : State) (c : Command) (a : Nat), s.command? 3 = some c ∧ c.finished = false ∧ c.stalled = false ∧ c.stopped = false ∧ c.skipped = false ∧ c.failure = none ∧
      c.kind ≠ .coll ∧ s.mayStart c = true ∧ c.peerAddr s (c.runs s) = some a) ∧
    ∃ (s : State) (c : Command) (a : Nat), s.command? 3 = some c ∧ s.commands = [c] ∧ c.finished = true ∧ c.stalled = false ∧ c.stopped = false ∧ c.reg 3 ≠ 0 ∧
      c.peerAddr s [(c.reg 3, 8)] = some a := by
  refine ⟨⟨_, _, _, _, 0, rfl, rfl, rfl, rfl, rfl⟩, ⟨storing loadGang, openOp 9 (.vm (.peer 3 0)) (.store [7]), holds, holds, holds⟩,
    ⟨peered { st id with commands := [peerCopy] }, peerCopy, 0x3FFF_FFF8, holds, rfl, rfl, rfl, rfl, rfl, holds, holds, holds⟩,
    peered { st id with commands := [peerDone] }, peerDone, 0x3FFF_FFF8, holds, rfl, rfl, rfl, rfl, holds, holds⟩

theorem wit_ManagementAndReliabilityStepsHaveTheirEffects_clocks : 7 < State.reset.part.towers ∧ 7 < State.reset.towers.length ∧
    (List.replicate 8 (95 : Byte)).length = 8 ∧ 110 ≤ ((State.reset.modTower 7 (fun t => { t with tj := 110 })).tower 7).tj.toNat ∧
    ((State.reset.modTower 7 (fun t => { t with stage := 7 })).tower 7).stage < 8 ∧ (State.reset.tower 7).stage ∉ (State.reset.tower 7).barred ∧ (State.reset.tower 7).stage ≠ 5 := by decide +kernel

theorem wit_ManagementAndReliabilityStepsHaveTheirEffects_stage5 :
    ((State.reset.modTower 0 (fun t => { t with stage := 5 })).tower 0).stage = 5 ∧
    (∀ i, i < 0 → ¬ (5 ≤ ((State.reset.modTower 0 (fun t => { t with stage := 5 })).tower i).stage)) ∧
    ∃ s : State, s.serviceTower = some 0 ∧ (∀ i, i < s.part.towers → (s.tower i).stage = 8) ∧ s.mailbox.reduced = true ∧ s.towerRuns 0 = false :=
  ⟨holds, fun _ h => absurd h (Nat.not_lt_zero _),
    { State.reset with towers := List.replicate 8 { stage := 8, inService := true }, mailbox := { State.reset.mailbox with reduced := true } }, holds, holds,
    holds, holds⟩

theorem wit_ManagementAndReliabilityStepsHaveTheirEffects_upsets : ∃ (s : State) (b : Block) (g : Gang), s.block? 0 = some b ∧ b.gangs[0]? = some g ∧
    (7 < g.slots.length ∧ 63 < 64 ∧ 31 < 32 ∧ 31 < 32 ∧ (32 * 31 + 31) % 64 / 8 = 63 % 8) ∧ 32 * (2 ^ 31 - 1) + 32 ≤ s.part.towers * Config.towerBytes ∧ 2 ^ 31 - 1 ∉ s.failing ∧
    8 * 65535 + 8 = 1024 * b.cfg.dsp ∧ 65535 ∉ b.dsFail ∧ 0xFFFFF < 256 * b.cfg.rsp :=
  ⟨st id, { loadBlock with gangs := [loadGang] }, loadGang, holds, holds, holds, holds, holds, holds,
    holds, holds⟩

theorem wit_ManagementAndReliabilityStepsHaveTheirEffects_unassigned : ctx? (st top) = some (cx top) := top_ctx

/-- A register drain of slot 7. -/
def drainJob : DrainJob := { slot := 7, ofmt := 1, mode := .rne, part := some 7, regs := [(31, 511)] }

/-- A store of residue planes still to be performed. -/
def spilling : Access := { lane := 0, lanes := 1, spot := .vm (.pkg 0x3FFF_F800), n := 2048, act := .spill 0 }

/-- A slot whose residues of the first element that the drain reads stand for no value, in five channels. -/
def slotRes : Slot := { res := [(896, 1), (1920, 7), (2944, 5), (3968, 9), (4992, 11)] }

/-- A gang with both, the drain held under the number 5. -/
def crossing (g : Gang) : Gang := { (waiting (.drain drainJob) g).setSlot 7 slotRes with ops := [{ openOp 2 (.vm (.pkg 0)) (.spill 0) with todo := [spilling] }] }

/-- What arrives for the drain when a group's bytes of a beat are damaged. -/
def damaged : State := (st crossing).setGang 0 0 ((crossing loadGang).setSlot 7 { res := (slotRes.damage 0 14 (List.replicate 8 1)).res })

theorem wit_ManagementAndReliabilityStepsHaveTheirEffects_elevators : ∃ (s : State) (b : Block) (g : Gang), s.block? 0 = some b ∧
    b.gangs[0]? = some g ∧ b.rs.wf = true ∧ Memory.wf (g.slot 7).res = true ∧ (63 < 64 ∧ (List.replicate 8 (1 : Byte)).length = 8) ∧
    g.heldOf 5 = some ⟨5, iss 3, 3, .drain drainJob⟩ ∧ g.slot 7 = slotRes ∧ g.ops.map (·.id) = [2] ∧ g.ops.map (·.todo) = [[spilling]] ∧ g.blocked 2 spilling = false :=
  ⟨st crossing, { loadBlock with gangs := [crossing loadGang] }, crossing loadGang, holds, holds, holds, holds,
    holds, holds, holds, holds, holds, holds⟩

theorem wit_ManagementAndReliabilityStepsHaveTheirEffects_drain : (tryDrainDecision 0 0 5 damaged).isSome = true := by decide +kernel

/-- A command to a peer that has been found in order, and a store to a peer that is answered while nothing is before it. -/
theorem wit_ManagementAndReliabilityStepsHaveTheirEffects_answers :
    (let s := peered { st id with commands := [peerCopy] }
     s.command? 3 = some peerCopy ∧ s.mayStart peerCopy = true ∧ peerCopy.startBad s = none ∧ peerCopy.stopped = false) ∧
    (∃ y ∈ (openOp 9 (.vm (.peer 3 0)) (.store [7])).todo, (y.spot.isPeer && y.writes && !(st storing).mustWait 0 0 (storing loadGang) 9 y) = true) := by
  refine ⟨holds, _, List.mem_singleton_self _, holds⟩

/-- Towers at each stage: one not served before, one that is not the first, one with a retirement and images in its banks. -/
theorem wit_ManagementAndReliabilityStepsHaveTheirEffects_stages :
    (∀ n < 8, ((State.reset.modTower 7 (fun t => { t with stage := n })).tower 7).stage = n ∧ ((State.reset.modTower 7 (fun t => { t with stage := n })).tower 7).barred = []) ∧
    (∃ s : State, (s.tower 7).stage = 5 ∧ ∃ i, i < s.part.towers ∧ (s.tower i).inService = true) ∧
    (∃ s : State, (s.tower 0).stage = 5 ∧ ∀ i, i < s.part.towers → (s.tower i).inService = false) ∧
    (∃ s : State, ∀ i, i < s.part.towers → ((s.modTower 0 (fun x => { x with stage := 8 })).tower i).stage = 8) ∧
    ∃ s : State, (s.tower 0).stage = 7 ∧ ¬ ∀ i, i < s.part.towers → ((s.modTower 0 (fun x => { x with stage := 8 })).tower i).stage = 8 :=
  ⟨holds, ⟨{ State.reset with towers := List.replicate 7 { stage := 8, inService := true } ++ [{ stage := 5 }] }, holds, 0, holds, holds⟩,
    ⟨State.reset.modTower 0 (fun t => { t with stage := 5 }), holds, holds⟩,
    ⟨{ State.reset with towers := { stage := 7 } :: List.replicate 7 { stage := 8 } }, holds⟩,
    State.reset.modTower 0 (fun t => { t with stage := 7 }), holds, holds⟩

/-- What is on its way up or down the elevator: a plane load, an encode's store, a plane store, a staged store of planes, and a resumed or a saved block. -/
theorem wit_ManagementAndReliabilityStepsHaveTheirEffects_lifts :
    (∀ x ∈ [(Spot.vm (.pkg 0x3FFF_F800), AccAct.fill 0), (.rs 0, .store (List.replicate 2048 1)), (.vm (.pkg 0x3FFF_F800), .reduce 0)], ∃ (s : State) (g : Gang) (o : Op) (y : Access),
      s.gang? 0 0 = some g ∧ g.openOps.find? (·.id == 9) = some o ∧ o.todo[0]? = some y ∧ y.spot = x.1 ∧ y.act = x.2 ∧ (∀ z ∈ o.groupOf y, s.mustWait 0 0 g 9 z = false)) ∧
    (∃ (g : Gang) (o : Op), (st (fun g => { g with ops := [{ openOp 9 (.rs 0) (.fill 0) with staged := some (0, 256, 0, 0x1000) }] })).gang? 0 0 = some g ∧
      g.ops.find? (·.id == 9) = some o ∧ o.staged = some (0, 256, 0, 0x1000)) ∧
    (∃ (s : State) (b : Block), s.block? 0 = some b ∧ s.inTransit 0 b = true) ∧ ∃ (s : State) (b : Block), s.block? 0 = some b ∧ s.inTransit 0 b = false := by
  refine ⟨?_, ⟨_, _, rfl, rfl, rfl⟩, ⟨(st id).setCore 0 { (st id).core 0 with lifting := true }, { loadBlock with gangs := [loadGang] }, holds, holds⟩,
    st id, { loadBlock with gangs := [loadGang] }, holds, holds⟩
  intro x hx
  let f : Gang → Gang := fun g => { g with ops := [openOp 9 x.1 x.2], nextId := 10 }
  refine ⟨st f, f loadGang, openOp 9 x.1 x.2, { lane := 31, lanes := 0x80000000, spot := x.1, n := 1, act := x.2 }, ?_⟩
  simp only [List.mem_cons, List.not_mem_nil, or_false] at hx
  obtain rfl | rfl | rfl := hx <;>
    exact ⟨holds, holds, holds, rfl, rfl, holds⟩
end Sys2Proof.Tests
end

section
/-! SUPPORT. What every step keeps: package memory, host memory and peer memory in canonical form, and as many cores, towers and
partition registers as before (R1 to R4). For each function `f` of the model that gives a state, `State.Inv.f` says that the state it gives
keeps the invariant of the one it was given, so that a proof names the functions a word is made of: `h.setTower.pump`. The lemmas stand
in the order of the model's files and end with `stepBody`. -/

namespace Sys2Proof.Machine
open Sys2Proof

/-! ### What keeps the invariant -/

/-- An act that may not happen keeps the invariant: the state it gives, if it gives one, has it. -/
def Kept (o : Option State) : Prop := ∀ t, o = some t → t.Inv

/-- A run of reads or writes that may fail keeps the invariant where it succeeds. -/
def OkKept {ε : Type} (e : Except ε State) : Prop := ∀ t, e = .ok t → t.Inv

/-- A read that leaves a state where it fails keeps the invariant there. -/
def ErrKept {α : Type} (e : Except State α) : Prop := ∀ t, e = .error t → t.Inv

/-- An access of an engine keeps the invariant where it succeeds. -/
def Eng.Keeps (e : Eng State) : Prop := ∀ t, e = .ok t → t.Inv

/-- A transfer of an engine keeps the invariant, done or failed. -/
def Ran.Keeps : Ran → Prop
  | .done s _ => s.Inv
  | .fail _ s => s.Inv
  | .stall _ _ _ => True

/-- A step of a collective program keeps the invariant, done or failed. -/
def Stepped.Keeps : Stepped → Prop
  | .ok s _ => s.Inv
  | .fail _ s => s.Inv
  | .wait => True
  | .stall _ _ _ => True

/-- An entry that the Teller applies keeps the invariant. -/
def Applied.Keeps : Applied → Prop
  | .done s => s.Inv
  | .stall _ _ => True

/-- A fetch keeps the invariant, whether a word comes of it or not. -/
def Fetched.Keeps : Fetched → Prop
  | .exec _ s => s.Inv
  | .stop s => s.Inv

theorem kept_none : Kept none := fun _ e => nomatch e

theorem kept_some {t : State} (h : t.Inv) : Kept (some t) := fun _ e => Option.some.inj e ▸ h

theorem Kept.getD {o : Option State} {s : State} (ho : Kept o) (h : s.Inv) : (o.getD s).Inv := by
  cases o with
  | none => exact h
  | some t => exact ho t rfl

theorem Kept.or {o p : Option State} (ho : Kept o) (hp : Kept p) : Kept (o.or p) := by
  cases o with
  | none => exact hp
  | some t => exact ho

theorem kept_bind {α : Type} {o : Option α} {f : α → Option State} (hf : ∀ a, Kept (f a)) : Kept (o.bind f) := by
  cases o with
  | none => exact kept_none
  | some a => exact hf a

theorem kept_map {α : Type} {o : Option α} {f : α → State} (hf : ∀ a, (f a).Inv) : Kept (o.map f) := by
  cases o with
  | none => exact kept_none
  | some a => exact kept_some (hf a)

theorem Kept.map {o : Option State} {f : State → State} (ho : Kept o) (hf : ∀ t, t.Inv → (f t).Inv) : Kept (o.map f) := by
  cases o with
  | none => exact kept_none
  | some t => exact kept_some (hf t (ho t rfl))

theorem kept_findSome? {α : Type} {l : List α} {f : α → Option State} (hf : ∀ a, Kept (f a)) : Kept (l.findSome? f) := fun t e => by
  obtain ⟨a, -, ha⟩ := List.exists_of_findSome?_eq_some e
  exact hf a t ha

theorem ite_inv {p : Prop} [Decidable p] {a b : State} (ha : a.Inv) (hb : b.Inv) : (if p then a else b).Inv :=
  iteInduction (motive := State.Inv) (fun _ => ha) (fun _ => hb)

theorem elim_inv {α : Type} {o : Option α} {s : State} {f : α → State} (h : s.Inv) (hf : ∀ a, (f a).Inv) : (o.elim s f).Inv := by
  cases o with
  | none => exact h
  | some a => exact hf a

theorem okKept_ok {ε : Type} {t : State} (h : t.Inv) : OkKept (.ok t : Except ε State) := fun _ e => Except.ok.inj e ▸ h

theorem okKept_error {ε : Type} {x : ε} : OkKept (.error x) := fun _ e => nomatch e

theorem errKept_error {α : Type} {t : State} (h : t.Inv) : ErrKept (.error t : Except State α) := fun _ e => Except.error.inj e ▸ h

theorem errKept_ok {α : Type} {a : α} : ErrKept (.ok a) := fun _ e => nomatch e

theorem ErrKept.map {α β : Type} {e : Except State α} {f : α → β} (he : ErrKept e) : ErrKept (e.map f) := by
  cases e with
  | error t => exact errKept_error (he t rfl)
  | ok a => exact errKept_ok

theorem Out.keeps_next {t : State} (h : t.Inv) : Out.Keeps (.next t) := fun _ e => Host.Outcome.next.inj e ▸ h

theorem Out.keeps_fault {f : Fault} : Out.Keeps (.fault f) := fun _ e => nomatch e

theorem Out.keeps_refused {r : Refusal} : Out.Keeps (.refused r) := fun _ e => nomatch e

theorem ite_keeps {p : Prop} [Decidable p] {a b : Out} (ha : a.Keeps) (hb : b.Keeps) : Out.Keeps (if p then a else b) :=
  iteInduction (motive := Out.Keeps) (fun _ => ha) (fun _ => hb)

theorem Eng.keeps_ok {t : State} (h : t.Inv) : Eng.Keeps (.ok t) := fun _ e => Eng.ok.inj e ▸ h

theorem Eng.keeps_fail {c : Nat} : Eng.Keeps (.fail c) := fun _ e => nomatch e

theorem Eng.keeps_stall {f : WalkFault} {va : Nat} {k : AccKind} : Eng.Keeps (.stall f va k) := fun _ e => nomatch e

theorem Eng.keeps_andThen {α : Type} {e : Eng α} {k : α → Eng State} (hk : ∀ a, (k a).Keeps) : (e.andThen k).Keeps := by
  cases e with
  | ok a => exact hk a
  | fail c => exact Eng.keeps_fail
  | stall f va acc => exact Eng.keeps_stall

theorem Eng.Keeps.andThen {e : Eng State} {k : State → Eng State} (he : e.Keeps) (hk : ∀ t, t.Inv → (k t).Keeps) :
    (e.andThen k).Keeps := by
  cases e with
  | ok t => exact hk t (he t rfl)
  | fail c => exact Eng.keeps_fail
  | stall f va acc => exact Eng.keeps_stall

theorem Eng.Keeps.ran {e : Eng State} {bad : State} (he : e.Keeps) (h : bad.Inv) : (e.ran bad).Keeps := by
  cases e with
  | ok t => exact he t rfl
  | fail c => exact h
  | stall f va acc => trivial

theorem Eng.keeps_thenStep {α : Type} {e : Eng α} {s : State} {k : α → Stepped} (h : s.Inv) (hk : ∀ a, (k a).Keeps) :
    (e.thenStep s k).Keeps := by
  cases e with
  | ok a => exact hk a
  | fail c => exact h
  | stall f va acc => trivial

theorem Eng.Keeps.thenStep {e : Eng State} {s : State} {k : State → Stepped} (he : e.Keeps) (h : s.Inv) (hk : ∀ t, t.Inv → (k t).Keeps) :
    (e.thenStep s k).Keeps := by
  cases e with
  | ok t => exact hk t (he t rfl)
  | fail c => exact h
  | stall f va acc => trivial

theorem Ran.Keeps.thenStep {r : Ran} {k : State → Stepped} (hr : r.Keeps) (hk : ∀ t, t.Inv → (k t).Keeps) : (r.thenStep k).Keeps := by
  cases r with
  | done s sat => exact hk s hr
  | fail c s => exact hr
  | stall f va acc => trivial

/-- A change of the fields that the invariant does not read. -/
theorem State.Inv.frame {s : State} {part failing launches nextLaunch commands nextCommand saved starts dequeues ctxbase inval farPub syncPub
    homeLog moduleNum domainSize mailbox hostReply pwrlim pwrnow tlim thrcnt security cur second turns freshCount} (h : s.Inv) :
    State.Inv ⟨part, s.mem, failing, s.hostMem, s.peerMem, s.cores, s.towers, s.parts, launches, nextLaunch, commands, nextCommand, saved,
      starts, dequeues, ctxbase, inval, farPub, syncPub, homeLog, moduleNum, domainSize, mailbox, hostReply, pwrlim, pwrnow, tlim, thrcnt,
      security, cur, second, turns, freshCount⟩ := h

/-- A change of those fields and of what the cores and the towers hold, as many of each as before. -/
theorem State.Inv.units {s : State} {part failing cores towers launches nextLaunch commands nextCommand saved starts dequeues ctxbase inval
    farPub syncPub homeLog moduleNum domainSize mailbox hostReply pwrlim pwrnow tlim thrcnt security cur second turns freshCount}
    (h : s.Inv) (hc : cores.length = s.cores.length) (ht : towers.length = s.towers.length) :
    State.Inv ⟨part, s.mem, failing, s.hostMem, s.peerMem, cores, towers, s.parts, launches, nextLaunch, commands, nextCommand, saved,
      starts, dequeues, ctxbase, inval, farPub, syncPub, homeLog, moduleNum, domainSize, mailbox, hostReply, pwrlim, pwrnow, tlim, thrcnt,
      security, cur, second, turns, freshCount⟩ := by
  obtain ⟨hmem, hhost, hpeer, hcores, htowers, hparts⟩ := h
  exact ⟨hmem, hhost, hpeer, hc.trans hcores, ht.trans htowers, hparts⟩

theorem State.Inv.of_fst_eq {α : Type} {p : State × α} {t : State} {a : α} (h : p.1.Inv) (e : p = (t, a)) : t.Inv := by
  rw [e] at h
  exact h

theorem State.Inv.foldl {α : Type} {f : State → α → State} {s : State} {l : List α} (h : s.Inv) (hf : ∀ s a, s.Inv → (f s a).Inv) :
    (l.foldl f s).Inv := by
  induction l generalizing s with
  | nil => exact h
  | cons a r ih => exact ih (hf s a h)

theorem State.Inv.foldlFst {α β : Type} {f : State × β → α → State × β} {p : State × β} {l : List α} (h : p.1.Inv)
    (hf : ∀ p a, p.1.Inv → (f p a).1.Inv) : (l.foldl f p).1.Inv := by
  induction l generalizing p with
  | nil => exact h
  | cons a r ih => exact ih (hf p a h)

/-- A change of package memory to a canonical one, and of the fields that the invariant does not read. -/
theorem State.Inv.mem {s : State} {part mem failing launches nextLaunch commands nextCommand saved starts dequeues ctxbase inval farPub syncPub
    homeLog moduleNum domainSize mailbox hostReply pwrlim pwrnow tlim thrcnt security cur second turns freshCount} (h : s.Inv)
    (hm : Memory.wf mem = true) :
    State.Inv ⟨part, mem, failing, s.hostMem, s.peerMem, s.cores, s.towers, s.parts, launches, nextLaunch, commands, nextCommand, saved,
      starts, dequeues, ctxbase, inval, farPub, syncPub, homeLog, moduleNum, domainSize, mailbox, hostReply, pwrlim, pwrnow, tlim, thrcnt,
      security, cur, second, turns, freshCount⟩ := ⟨hm, h.2⟩

/-- A change of host memory to a canonical one, and of the fields that the invariant does not read. -/
theorem State.Inv.hostMem {s : State} {part hostMem failing launches nextLaunch commands nextCommand saved starts dequeues ctxbase inval farPub
    syncPub homeLog moduleNum domainSize mailbox hostReply pwrlim pwrnow tlim thrcnt security cur second turns freshCount} (h : s.Inv)
    (hm : Memory.wf hostMem = true) :
    State.Inv ⟨part, s.mem, failing, hostMem, s.peerMem, s.cores, s.towers, s.parts, launches, nextLaunch, commands, nextCommand, saved,
      starts, dequeues, ctxbase, inval, farPub, syncPub, homeLog, moduleNum, domainSize, mailbox, hostReply, pwrlim, pwrnow, tlim, thrcnt,
      security, cur, second, turns, freshCount⟩ := ⟨h.1, hm, h.2.2⟩

theorem State.Inv.peerMem {s : State} {m : Memory} (h : s.Inv) (hm : m.wf = true) : State.Inv { s with peerMem := m } :=
  ⟨h.1, h.2.1, hm, h.2.2.2⟩

theorem State.Inv.parts {s : State} {ps : List (Option Partition)} (h : s.Inv) (hp : ps.length = s.parts.length) :
    State.Inv { s with parts := ps } := by
  obtain ⟨hmem, hhost, hpeer, hcores, htowers, hparts⟩ := h
  exact ⟨hmem, hhost, hpeer, hcores, htowers, hp.trans hparts⟩

/-- Each act of a list keeps the invariant. -/
def ActsKeep (l : List (State → Option State)) : Prop := ∀ f ∈ l, ∀ s : State, s.Inv → Kept (f s)

theorem actsKeep_nil : ActsKeep [] := fun _ hf => nomatch hf

theorem actsKeep_cons {f : State → Option State} {l : List (State → Option State)} (hf : ∀ s : State, s.Inv → Kept (f s))
    (hl : ActsKeep l) : ActsKeep (f :: l) := List.forall_mem_cons.mpr ⟨hf, hl⟩

theorem ActsKeep.append {l r : List (State → Option State)} (hl : ActsKeep l) (hr : ActsKeep r) : ActsKeep (l ++ r) :=
  List.forall_mem_append.mpr ⟨hl, hr⟩

theorem actsKeep_map {α : Type} {l : List α} {f : α → State → Option State} (hf : ∀ a, ∀ s : State, s.Inv → Kept (f a s)) :
    ActsKeep (l.map f) := List.forall_mem_map.mpr fun a _ => hf a

theorem actsKeep_mapIdx {α : Type} {l : List α} {f : Nat → α → State → Option State} (hf : ∀ i a, ∀ s : State, s.Inv → Kept (f i a s)) :
    ActsKeep (l.mapIdx f) := fun g hg => by
  obtain ⟨i, hi, rfl⟩ := List.mem_mapIdx.mp hg
  exact hf _ _

theorem actsKeep_flatMap {α : Type} {l : List α} {f : α → List (State → Option State)} (hf : ∀ a, ActsKeep (f a)) :
    ActsKeep (l.flatMap f) := fun g hg => by
  obtain ⟨a, -, ha⟩ := List.mem_flatMap.mp hg
  exact hf a g ha

theorem actsKeep_flatten_mapIdx {α : Type} {l : List α} {f : Nat → α → List (State → Option State)} (hf : ∀ i a, ActsKeep (f i a)) :
    ActsKeep (l.mapIdx f).flatten := fun g hg => by
  obtain ⟨acts, hacts, hg⟩ := List.mem_flatten.mp hg
  obtain ⟨i, hi, rfl⟩ := List.mem_mapIdx.mp hacts
  exact hf _ _ g hg

variable {s : State}

/-! ### Replacing one core, block, gang, tower, partition or launch -/

theorem State.Inv.setCore {c : Nat} {x : Core} (h : s.Inv) : (s.setCore c x).Inv := h.units (by simp) rfl
theorem State.Inv.setBlock {c : Nat} {b : Block} (h : s.Inv) : (s.setBlock c b).Inv := h.setCore

theorem State.Inv.modBlock {c : Nat} {f : Block → Block} (h : s.Inv) : (s.modBlock c f).Inv := by
  unfold State.modBlock
  split
  · exact h
  · exact h.setBlock

theorem State.Inv.setGang {c g : Nat} {x : Gang} (h : s.Inv) : (s.setGang c g x).Inv := h.modBlock

theorem State.Inv.modGang {c g : Nat} {f : Gang → Gang} (h : s.Inv) : (s.modGang c g f).Inv := by
  unfold State.modGang
  split
  · exact h
  · exact h.setGang

theorem State.Inv.setTower {t : Nat} {x : Tower} (h : s.Inv) : (s.setTower t x).Inv := h.units rfl (by simp)
theorem State.Inv.modTower {t : Nat} {f : Tower → Tower} (h : s.Inv) : (s.modTower t f).Inv := h.setTower

theorem State.Inv.setPartition {p : Nat} {x : Partition} (h : s.Inv) : (s.setPartition p x).Inv := by
  obtain ⟨hmem, hhost, hpeer, hcores, htowers, hparts⟩ := h
  exact ⟨hmem, hhost, hpeer, hcores, htowers, by simpa [State.setPartition] using hparts⟩

theorem State.Inv.setLaunch {x : Launch} (h : s.Inv) : (s.setLaunch x).Inv := h.frame

/-! ### Messages to the host and error logs (R358 to R360, R364) -/

theorem State.Inv.putEntry {seq : Word} {words : List Word} (h : s.Inv) : (s.putEntry seq words).Inv :=
  h.hostMem (cellSetList_wf _ _ h.2.1)

theorem State.Inv.sendEntry {words : List Word} (h : s.Inv) : (s.sendEntry words).Inv := h.putEntry.frame

theorem State.Inv.pumpN {n : Nat} (h : s.Inv) : (State.pumpN n s).Inv := by
  induction n generalizing s with
  | zero => exact h
  | succ n ih =>
    rw [State.pumpN]
    split
    · split
      · exact ih h.frame.sendEntry
      · split
        · exact h
        · exact ih h.modTower.sendEntry
    · exact h

theorem State.Inv.pump (h : s.Inv) : s.pump.Inv := h.pumpN
theorem State.Inv.post {words : List Word} (h : s.Inv) : (s.post words).Inv := h.frame.pump
theorem State.Inv.log {t : Nat} {e : LogEntry} (h : s.Inv) : (s.log t e).Inv := h.modTower.pump

/-! ### Copies of lines and vector clocks (R111, R113, R119, R141) -/

theorem State.Inv.learn {t : Nat} {clock : List Nat} (h : s.Inv) : (s.learn t clock).Inv := by
  unfold State.learn
  split
  · exact h
  · exact h.modTower

theorem State.Inv.settleTower {t : Nat} (h : s.Inv) : (s.settleTower t).Inv := h.modTower
theorem State.Inv.sendLine {writer : Option Who} {line : Nat} (h : s.Inv) : (s.sendLine writer line).Inv := h.units rfl (by simp)

theorem State.Inv.publish {t : Nat} (h : s.Inv) : (s.publish t).Inv := by
  unfold State.publish
  split
  · exact h.frame
  · exact h

theorem State.Inv.releaseFence {t : Nat} {scope : Scope} (h : s.Inv) : (s.releaseFence t scope).Inv := by
  unfold State.releaseFence
  split
  · exact h.modTower
  · exact h

theorem State.Inv.dropL1 {core : Nat} {p : Nat → Bool} (h : s.Inv) : (s.dropL1 core p).Inv := by
  unfold State.dropL1
  dsimp only
  split
  · exact h
  · exact h.setCore.modTower

theorem State.Inv.towerAcquire {t : Nat} {scope : Scope} {more : List Nat} (h : s.Inv) : (s.towerAcquire t scope more).Inv := by
  unfold State.towerAcquire
  dsimp only
  split
  · exact h.learn.modTower
  · exact h.learn

theorem State.Inv.acquireOn {core : Nat} {scope : Scope} {more : List Nat} (h : s.Inv) : (s.acquireOn core scope more).Inv := by
  unfold State.acquireOn
  split
  · exact h.towerAcquire.dropL1
  · exact h.towerAcquire

theorem State.Inv.acquireSync {core : Nat} {sc : Scope} (h : s.Inv) : (s.acquireSync core sc).Inv := h.acquireOn

/-! ### Memory at its home, and the bytes at a location (R106, R114, R126, R127, R339 to R345) -/

theorem State.Inv.logWalk {f : WalkFault} (h : s.Inv) : (s.logWalk f).Inv := by
  unfold State.logWalk
  split
  · exact h.log
  · exact h

theorem State.Inv.writePkg {a : Nat} {bytes : List Byte} (h : s.Inv) : (s.writePkg a bytes).Inv :=
  (h.mem (putRun_wf _ _ _ _ _ h.1)).foldl (fun _ _ hs => hs.log)

theorem State.Inv.sendLines {t : Option Nat} {writer : Option Who} {knows carry : List Nat} {a n : Nat} (h : s.Inv) :
    (s.sendLines t writer knows carry a n).Inv := by
  unfold State.sendLines
  refine h.foldl (fun _ _ hs => ?_)
  split
  · exact hs.learn.modTower.sendLine.modTower
  · exact hs.learn.modTower.sendLine

theorem State.Inv.noteWrite {loc : Loc} {n : Nat} (h : s.Inv) : (s.noteWrite loc n).Inv := by
  unfold State.noteWrite
  split
  · exact h.frame
  · exact h

theorem State.Inv.storeHome {loc : Loc} {bs : List Byte} (h : s.Inv) : (s.storeHome loc bs).Inv := by
  cases loc with
  | pkg a => exact h.writePkg
  | peer m a => exact h.peerMem (cellSetList_wf _ _ h.2.2.1)
  | host a => exact h.hostMem (cellSetList_wf _ _ h.2.1)

theorem State.Inv.writeHome {loc : Loc} {bs : List Byte} (h : s.Inv) : (s.writeHome loc bs).Inv := h.noteWrite.storeHome

theorem State.Inv.writeLoc {loc : Loc} {bs : List Byte} (h : s.Inv) : (s.writeLoc loc bs).Inv := by
  unfold State.writeLoc
  split
  · split
    · exact h.writeHome.sendLines
    · exact h.writeHome.frame
  · exact h.writeHome

theorem State.Inv.towerWrite {t : Nat} {writer : Option Who} {m : MemOrder} {loc : Loc} {bs : List Byte} (h : s.Inv) :
    (s.towerWrite t writer m loc bs).Inv := by
  unfold State.towerWrite
  split
  · split
    · exact h.writeHome.sendLines
    · exact h.writeHome.frame
  · exact h.writeHome

theorem State.Inv.homeRead {t : Nat} {loc : Loc} {n : Nat} (h : s.Inv) : (s.homeRead t loc n).1.Inv := by
  unfold State.homeRead
  dsimp only
  split
  · split
    · exact h.modTower
    · exact h
  · split
    · exact h.modTower
    · exact h

theorem State.Inv.towerRead {t : Nat} {who : Option Who} {loc : Loc} {n : Nat} (h : s.Inv) : (s.towerRead t who loc n).1.Inv := by
  unfold State.towerRead
  dsimp only
  split
  · exact h.homeRead
  · exact h.modTower
  · exact h

theorem State.Inv.towerRun {t : Nat} {who : Option Who} {loc : Loc} {n : Nat} (h : s.Inv) : (s.towerRun t who loc n).1.Inv :=
  h.foldlFst (fun _ _ hs => hs.towerRead)

theorem State.Inv.laneRead {who : Who} {l1 direct : Bool} {loc : Loc} {n : Nat} (h : s.Inv) : (s.laneRead who l1 direct loc n).1.Inv := by
  unfold State.laneRead
  dsimp only
  split
  · exact h.homeRead
  · split
    · exact h
    · split
      · exact h
      · exact h.towerRun

theorem State.Inv.writeThrough {core : Nat} {loc : Loc} {n : Nat} (h : s.Inv) : (s.writeThrough core loc n).Inv := by
  unfold State.writeThrough
  split
  · dsimp only
    split
    · exact h
    · exact h.setCore
  · split
    · exact h
    · exact h.modTower

theorem State.Inv.laneWrite {who : Who} {m : MemOrder} {loc : Loc} {bytes : List Byte} (h : s.Inv) : (s.laneWrite who m loc bytes).Inv :=
  h.towerWrite.writeThrough

theorem State.Inv.writePieces {l : List (Loc × Nat × Leaf)} {bs : List Byte} (h : s.Inv) : (s.writePieces l bs).Inv := by
  induction l generalizing s bs with
  | nil => exact h
  | cons p r ih => exact ih h.writeLoc

theorem State.Inv.writeRun {tlb : List TlbEntry} {asid : BitVec 16} {smode : Bool} {va : Nat} {bs : List Byte} (h : s.Inv) :
    OkKept (s.writeRun tlb asid smode va bs) := by
  unfold State.writeRun
  split
  · exact okKept_error
  · exact okKept_ok h.writePieces

/-! ### The end of a launch (R330, R331, R380) -/

theorem State.Inv.writeFate {l : Launch} {fate reason : Nat} (h : s.Inv) : (s.writeFate l fate reason).Inv := by
  unfold State.writeFate
  split
  · exact h
  · refine State.Inv.post ?_
    split
    · rename_i s' hs'
      exact h.writeRun _ hs'
    · exact h.logWalk.log
    · exact h.log

theorem State.Inv.incrementDone {l : Launch} (h : s.Inv) : (s.incrementDone l).1.Inv := by
  unfold State.incrementDone
  dsimp only
  split
  · exact h.logWalk
  · split
    · exact h
    · split
      · exact h.log
      · exact h.writeLoc

theorem State.Inv.noteLost {p : Fin 16} {loc : Option Loc} (h : s.Inv) : (s.noteLost p loc).Inv := by
  unfold State.noteLost
  split
  · split
    · exact h
    · exact h.setPartition
  · exact h

theorem State.Inv.endLaunches {n : Nat} {l : List (Nat × Nat × Nat)} (h : s.Inv) : (State.endLaunches n l s).Inv := by
  induction n generalizing l s with
  | zero => exact h
  | succ n ih =>
    cases l with
    | nil => exact h
    | cons x r =>
      obtain ⟨lid, fate, reason⟩ := x
      rw [State.endLaunches]
      split
      · exact ih h
      · split
        · exact ih h
        · dsimp only
          split
          · split
            · exact ih h.setLaunch.writeFate
            · split
              · rename_i hi
                exact ih (h.setLaunch.writeFate.incrementDone.of_fst_eq hi)
              · rename_i hi
                exact ih (h.setLaunch.writeFate.incrementDone.of_fst_eq hi).log.noteLost
          · exact ih h.setLaunch.writeFate.noteLost

theorem State.Inv.endLaunch {lid fate reason : Nat} (h : s.Inv) : (s.endLaunch lid fate reason).Inv := h.endLaunches

theorem State.Inv.checkLaunch {lid : Nat} (h : s.Inv) : (s.checkLaunch lid).Inv := by
  unfold State.checkLaunch
  split
  · exact h
  · split
    · exact h
    · split
      · split
        · exact h.endLaunch
        · exact h
      · split
        · exact h.endLaunch
        · exact h

/-! ### Accesses performed (R130 to R133, R143, R144, R147) -/

theorem State.Inv.logGroup {core : Nat} (h : s.Inv) : (s.logGroup core).Inv := h.frame.log

theorem State.Inv.storeDs {core o : Nat} {bytes : List Byte} (h : s.Inv) : (s.storeDs core o bytes).Inv := by
  unfold State.storeDs
  split
  · exact h
  · exact h.setBlock.foldl (fun _ _ hs => hs.logGroup)

theorem State.Inv.afterAcquire {core : Nat} {m : MemOrder} {sp : Spot} (h : s.Inv) : (s.afterAcquire core m sp).Inv := by
  unfold State.afterAcquire
  split
  · split <;> exact h.acquireOn
  · exact h

theorem State.Inv.readSpot {core gi : Nat} {x : Access} (h : s.Inv) : (s.readSpot core gi x).1.Inv := by
  unfold State.readSpot
  split
  · exact h.laneRead
  · exact h
  · exact h

theorem State.Inv.writeScratch {core : Nat} {sp : Spot} {bytes : List Byte} (h : s.Inv) : (s.writeScratch core sp bytes).Inv := by
  unfold State.writeScratch
  split
  · exact h
  · exact h.storeDs
  · exact h.modBlock

theorem State.Inv.writeSpot {core gi : Nat} {x : Access} {sp : Spot} {bytes : List Byte} (h : s.Inv) :
    (s.writeSpot core gi x sp bytes).Inv := by
  unfold State.writeSpot
  split
  · exact h.laneWrite
  · exact h.writeScratch

theorem State.Inv.dropRun {core : Nat} {loc : Loc} {n : Nat} (h : s.Inv) : (s.dropRun core loc n).Inv := by
  unfold State.dropRun
  split
  · exact h.dropL1
  · exact h

theorem State.Inv.atomicAt {who : Who} {m : MemOrder} {loc : Loc} {op : AtomOp} {w : Width} {v c : Word} (h : s.Inv) :
    (s.atomicAt who m loc op w v c).1.Inv :=
  h.homeRead.laneWrite.dropRun

theorem State.Inv.unpost {core gi id : Nat} {x : Access} (h : s.Inv) : (s.unpost core gi id x).Inv := by
  unfold State.unpost
  dsimp only
  split
  · exact h
  · exact h.modTower

theorem State.Inv.performOne {core gi : Nat} {p : State × Op} {x : Access} (h : p.1.Inv) : (State.performOne core gi p x).1.Inv := by
  unfold State.performOne
  dsimp only
  split
  · exact h.readSpot.afterAcquire
  · exact h.writeSpot.unpost
  · split
    · exact h.atomicAt.afterAcquire
    · exact h
  · dsimp only
    refine State.Inv.writeSpot ?_
    split
    · exact h.readSpot.dropRun
    · exact h.readSpot
  · exact h.writeSpot
  · split
    · exact h.laneWrite
    · exact h
  · exact h.readSpot

theorem State.Inv.flushPosted {t : Nat} {but : Posted → Bool} (h : s.Inv) : (s.flushPosted t but).Inv :=
  h.foldl (fun _ _ hs => hs.performOne.modGang)

theorem State.Inv.performAll {core gi : Nat} {o : Op} {xs : List Access} (h : s.Inv) : (s.performAll core gi o xs).1.Inv := by
  unfold State.performAll
  refine State.Inv.foldlFst ?_ (fun _ _ hs => hs.performOne)
  split
  · exact h.flushPosted
  · exact h

theorem State.Inv.performIn {core gi : Nat} {o : Op} {xs : List Access} (h : s.Inv) : (s.performIn core gi o xs).Inv :=
  h.performAll.modGang

theorem State.Inv.splitTurn {core gi id k n : Nat} (h : s.Inv) : (s.splitTurn core gi id k n).Inv := by
  unfold State.splitTurn
  split
  · exact h
  · exact h.modGang

theorem State.Inv.postTurn {core gi id k : Nat} (h : s.Inv) : (s.postTurn core gi id k).Inv := by
  unfold State.postTurn
  split
  · exact h
  · exact ite_inv h h.modTower

theorem State.Inv.performNow {core gi id : Nat} {p : Access → Bool} (h : s.Inv) : (s.performNow core gi id p).Inv := by
  unfold State.performNow
  split
  · exact h
  · split
    · exact h.performIn
    · exact h

theorem State.Inv.olderFirst {n t : Nat} {x : Access} (h : s.Inv) : (State.olderFirst n t x s).Inv := by
  induction n generalizing x s with
  | zero => exact h
  | succ n ih =>
    rw [State.olderFirst]
    split
    · exact h
    · refine h.foldl (fun _ _ hs => ?_)
      split
      · exact hs
      · exact ((hs.foldl (fun _ _ hs => ih hs)).foldl (fun _ _ hs => hs.performNow)).performNow

theorem State.Inv.sendPeers {t : Nat} {xs : List Access} (h : s.Inv) : (s.sendPeers t xs).Inv := h.foldl (fun _ _ hs => hs.olderFirst)

theorem State.Inv.peersFirst {t : Nat} {loc : Loc} {n : Nat} (h : s.Inv) : (s.peersFirst t loc n).Inv := by
  unfold State.peersFirst
  split
  · exact h.sendPeers
  · exact h

theorem State.Inv.performFirst {core gi : Nat} {xs : List Access} (h : s.Inv) : (s.performFirst core gi xs).Inv := by
  unfold State.performFirst
  split
  · exact h
  · dsimp only
    split
    · exact h
    · exact h.sendPeers.foldl (fun _ _ hs => hs.performNow)

theorem State.Inv.performBefore {core gi : Nat} {act : LaneBits} {far : Bool} (h : s.Inv) : (s.performBefore core gi act far).Inv := by
  unfold State.performBefore
  split
  · exact h
  · split
    · exact h
    · exact h.sendPeers.foldl (fun _ _ hs => hs.performNow)

theorem State.Inv.readLeaves {core : Nat} (h : s.Inv) : (s.readLeaves core).Inv := by
  unfold State.readLeaves
  refine h.foldl (fun s x hs => ?_)
  split
  · exact hs
  · refine hs.foldl (fun s x hs => ?_)
    split
    · exact hs
    · refine hs.foldl (fun _ _ hs => ?_)
      dsimp only
      split
      · exact hs
      · exact hs.performIn

theorem State.Inv.maybePerform {core gi : Nat} {o : Op} (h : s.Inv) : (s.maybePerform core gi o).Inv := by
  unfold State.maybePerform
  refine h.foldl (fun _ _ hs => ?_)
  split
  · exact hs.frame.performOne
  · exact hs.frame

/-! ### The ranges of a Toss word (R246, R248) -/

theorem State.Inv.readPlaces {who : Who} {ps : List (Loc × Nat × Bool)} (h : s.Inv) : (s.readPlaces who ps).1.Inv :=
  h.foldlFst (fun _ _ hs => hs.laneRead.dropRun)

theorem State.Inv.read {q : TossRange} {who : Who} (h : s.Inv) : (q.read s who).1.Inv := h.readPlaces
theorem State.Inv.readSome {q : TossRange} {who : Who} {o n : Nat} (h : s.Inv) : (q.readSome s who o n).1.Inv := h.readPlaces

theorem State.Inv.readRanges {who : Who} {qs : List TossRange} (h : s.Inv) : (s.readRanges who qs).1.Inv :=
  h.foldlFst (fun _ _ hs => hs.read)

theorem State.Inv.writePlaces {who : Who} {keep : Nat → Bool} {l : List (Loc × Nat × Bool)} {o : Nat} {bs : List Byte} (h : s.Inv) :
    (s.writePlaces who keep l o bs).Inv := by
  induction l generalizing s o bs with
  | nil => exact h
  | cons p r ih =>
    rw [State.writePlaces]
    split
    · exact h
    · refine ih ?_
      split
      · exact h.laneWrite
      · refine h.foldl (fun _ _ hs => ?_)
        split
        · exact hs.laneWrite
        · exact hs

theorem State.Inv.maybeToss {who : Who} {det : Bool} {j : TossJob} (h : s.Inv) : (s.maybeToss who det j).Inv := by
  unfold State.maybeToss
  split
  · exact h
  · split
    · exact h
    · dsimp only
      split
      · exact h
      · exact h.readRanges.frame.writePlaces

/-! ### The shared operations of the words (R39, R200 to R204, R303 to R314, R324, R348) -/

theorem State.Inv.happens {r : Option State} (h : s.Inv) (hr : Kept r) : (happens s r).Keeps := Out.keeps_next (Kept.getD hr h)

theorem keeps_withCtx {k : Ctx → Out} (hk : ∀ x, (k x).Keeps) : (withCtx s k).Keeps := by
  unfold Machine.withCtx
  split
  · exact Out.keeps_fault
  · exact hk _

theorem State.Inv.retire {g : Gang} (h : s.Inv) : (s.retire g).Inv := h.setGang
theorem State.Inv.placed {g : Gang} (h : s.Inv) : (s.placed g).Inv := h.setGang
theorem State.Inv.notIssued {g : Gang} (h : s.Inv) : (s.notIssued g).Inv := h.setGang
theorem State.Inv.awaitLease {g : Gang} (h : s.Inv) : (s.awaitLease g).Inv := h.setGang

theorem State.Inv.fenceOn {c : Nat} {sem : Sem} {sc : Scope} (h : s.Inv) : (s.fenceOn c sem sc).Inv := by
  unfold State.fenceOn
  extract_lets t total s1 s2 s3
  have h1 : s1.Inv := ite_inv h.flushPosted h
  have h2 : s2.Inv := ite_inv h1.acquireOn h1
  have h3 : s3.Inv := ite_inv h2.publish h2
  exact ite_inv h3.releaseFence h3

theorem State.Inv.fenceEffect {c gi : Nat} {k : HeldKind} (h : s.Inv) : (s.fenceEffect c gi k).Inv := by
  unfold State.fenceEffect
  split
  · exact h.fenceOn
  · exact h.modBlock
  · exact h

theorem State.Inv.wakeGang {c gi : Nat} (h : s.Inv) : (s.wakeGang c gi).Inv := by
  unfold State.wakeGang
  split
  · exact h
  · exact h.foldl (fun _ _ hs => hs.fenceEffect.modGang)

theorem State.Inv.performTurn {core gi id k : Nat} (h : s.Inv) : (s.performTurn core gi id k).Inv := by
  unfold State.performTurn
  split
  · exact h
  · split
    · exact h
    · split
      · exact h
      · exact h.performIn.wakeGang

theorem State.Inv.releasePoint {core gi : Nat} {act : LaneBits} {dev : Bool} (h : s.Inv) : (s.releasePoint core gi act dev).Inv := by
  unfold State.releasePoint
  refine State.Inv.wakeGang ?_
  split
  · exact h.performBefore.publish
  · exact h.performBefore

theorem State.Inv.withdrawGang {c g : Nat} (h : s.Inv) : (s.withdrawGang c g).Inv := h.modTower

theorem State.Inv.stall {src : Nat} {ws : List StallWalk} {work : Option VWork} (h : s.Inv) : (s.stall src ws work).Inv := by
  unfold State.stall
  dsimp only
  split
  · exact h
  · exact h.setGang.foldl (fun _ _ hs => hs.logWalk.modTower)

theorem State.Inv.settleReqs {c gi : Nat} (h : s.Inv) : (s.settleReqs c gi).Inv := by
  unfold State.settleReqs
  split
  · exact h
  · dsimp only
    split
    · exact h
    · exact h.setGang.modTower

theorem State.Inv.checkBarB {core : Nat} (h : s.Inv) : (s.checkBarB core).Inv := by
  unfold State.checkBarB
  split
  · exact h
  · split
    · exact h.acquireSync.modBlock
    · exact h.setBlock

theorem State.Inv.checkBarE {c : Nat} (h : s.Inv) : (s.checkBarE c).Inv := by
  unfold State.checkBarE
  split
  · exact h
  · dsimp only
    split
    · exact h.foldl (fun _ _ hs => hs.acquireSync.modBlock)
    · exact h.foldl (fun _ _ hs => hs.modBlock)

theorem State.Inv.releaseHeld {sc : Scope} {q : Block → Bool} {p : HeldKind → Bool} (h : s.Inv) : (s.releaseHeld sc q p).Inv := by
  unfold State.releaseHeld
  refine h.foldl (fun _ _ hs => ?_)
  split
  · exact hs
  · split
    · exact hs.acquireSync.modBlock
    · exact hs

theorem State.Inv.setClearing {p : Fin 16} {q : Partition} (h : s.Inv) : (s.setClearing p q).Inv := h.setPartition.releaseHeld

theorem State.Inv.leaveSection {p : Fin 16} {g : Gang} (h : s.Inv) : (s.leaveSection p g).Inv := by
  unfold State.leaveSection
  split
  · exact h
  · split
    · exact h
    · exact h.setClearing

theorem State.Inv.releaseBlock {core : Option Nat} {b : Block} (h : s.Inv) : (s.releaseBlock core b).1.Inv := by
  unfold State.releaseBlock
  split
  · exact (h.foldl (fun _ _ hs => hs.leaveSection)).units rfl (by simp)
  · exact ((h.foldl (fun _ _ hs => hs.leaveSection)).units rfl (by simp)).modTower

theorem State.Inv.stopCommands {lid index : Nat} (h : s.Inv) : (s.stopCommands lid index).Inv := h.units rfl (by simp)

theorem State.Inv.recordKill {lid index : Nat} {k : KillInfo} (h : s.Inv) : (s.recordKill lid index k).Inv := by
  unfold State.recordKill
  split
  · exact h
  · exact h.setLaunch

theorem State.Inv.wakeBlock {c : Nat} (h : s.Inv) : (s.wakeBlock c).Inv := by
  unfold State.wakeBlock
  split
  · exact h
  · exact h.frame.setCore.modTower.settleTower

theorem State.Inv.wakeCores {ms : List Nat} (h : s.Inv) : (s.wakeCores ms).1.Inv := h.foldl (fun _ _ hs => hs.wakeBlock)

theorem State.Inv.dropSaved {lid : Nat} (h : s.Inv) : (s.dropSaved lid).1.Inv :=
  (h.frame.foldlFst (fun _ _ hs => hs.releaseBlock.stopCommands.recordKill)).wakeCores

theorem State.Inv.maybeHeld {c gi : Nat} {det : Bool} {hd : Held} (h : s.Inv) : (s.maybeHeld c gi det hd).Inv := by
  unfold State.maybeHeld
  split
  · exact h.maybePerform
  · exact h.maybeToss
  · exact h

theorem State.Inv.maybeAll {c : Nat} (h : s.Inv) : (s.maybeAll c).Inv := by
  unfold State.maybeAll
  split
  · exact h
  · exact h.foldl (fun _ _ hs => (hs.foldl (fun _ _ hs => hs.maybePerform)).foldl (fun _ _ hs => hs.maybeHeld))

theorem State.Inv.killBlock {c : Nat} {k : KillInfo} (h : s.Inv) : (s.killBlock c k).1.Inv := by
  unfold State.killBlock
  split
  · exact h
  · exact h.readLeaves.maybeAll.setCore.releaseBlock.stopCommands.recordKill.dropSaved.checkLaunch

theorem State.Inv.raise1 {c gi : Nat} {iss : Issue} {act : LaneBits} {heldId : Option Nat} {t : Trap} (h : s.Inv) :
    (s.raise1 c gi iss act heldId t).1.Inv := by
  unfold State.raise1
  split
  · exact h
  · split
    · exact h
    · split
      · split
        · exact h.setGang
        · exact h
      · split
        · exact h.withdrawGang.setBlock
        · exact h.killBlock

theorem State.Inv.deliver {n : Nat} {l : List Notice} (h : s.Inv) : (State.deliver n l s).Inv := by
  induction n generalizing l s with
  | zero => exact h
  | succ n ih =>
    cases l with
    | nil => exact h
    | cons x r =>
      rw [State.deliver]
      split
      · exact ih h
      · split
        · exact ih h
        · exact ih h.raise1

theorem State.Inv.trapAt {c gi : Nat} {iss : Issue} {act : LaneBits} {heldId : Option Nat} {t : Trap} (h : s.Inv) :
    (s.trapAt c gi iss act heldId t).Inv :=
  h.raise1.deliver

theorem State.Inv.trap {t : Trap} (h : s.Inv) : (s.trap t).Inv := h.trapAt
theorem State.Inv.trapHeld {c gi : Nat} {hd : Held} {t : Trap} (h : s.Inv) : (s.trapHeld c gi hd t).Inv := h.trapAt

theorem State.Inv.takePending {c gi : Nat} (h : s.Inv) : (s.takePending c gi).Inv := by
  unfold State.takePending
  split
  · exact h
  · split
    · exact h
    · split
      · exact h.setGang
      · exact h.setGang.trapAt

/-! ### Words of one shape (R51 to R54, R66) -/

theorem State.Inv.gangWord {check : Ctx → Except Trap Unit} {f : Ctx → Gang} (h : s.Inv) : (gangWord s check f).Keeps := by
  unfold Machine.gangWord
  refine keeps_withCtx (fun _ => ?_)
  split
  · exact Out.keeps_next h.trap
  · exact Out.keeps_next h.retire

theorem State.Inv.elemWord {w : Width} {d : Dst} {srcs : Ctx → List Src} {f : Ctx → Nat → Nat → Nat} (h : s.Inv) :
    (elemWord s w d srcs f).Keeps :=
  h.gangWord

theorem State.Inv.unaryWord {w : Width} {d : Dst} {a : Src} {f : Nat → Nat} (h : s.Inv) : (unaryWord s w d a f).Keeps := h.elemWord

theorem State.Inv.binaryWord {w : Width} {d : Dst} {a b : Src} {f : Nat → Nat → Nat} (h : s.Inv) : (binaryWord s w d a b f).Keeps :=
  h.elemWord

theorem State.Inv.ternaryWord {w : Width} {d : Dst} {a b : Src} {f : Nat → Nat → Nat → Nat} (h : s.Inv) :
    (ternaryWord s w d a b f).Keeps :=
  h.elemWord

theorem State.Inv.compareWord {w : Width} {d : MaskNo} {a b : Src} {p : Nat → Nat → Bool} (h : s.Inv) :
    (compareWord s w d a b p).Keeps :=
  h.gangWord

/-! ### Loads and stores from step 4 of R108 on (R148, R185) -/

theorem State.Inv.vOut {src : Nat} {work : VWork} {v : VCheck} {k : List (Loc × Bool) → Out} (h : s.Inv) (hk : ∀ x, (k x).Keeps) :
    (vOut s src work v k).Keeps := by
  unfold Machine.vOut
  split
  · exact hk _
  · exact Out.keeps_next h.trap
  · exact Out.keeps_next h.log.trap
  · exact Out.keeps_next h.stall

theorem State.Inv.numbered {core : Nat} {o : Op} (h : s.Inv) : (s.numbered core o).1.Inv := by
  unfold State.numbered
  dsimp only
  split
  · exact h
  · exact h.modTower

theorem State.Inv.issueOp {c : Ctx} {o : Op} {vas : List (Nat × Nat)} (h : s.Inv) : (c.issueOp s o vas).Inv := by
  unfold Ctx.issueOp
  dsimp only
  split
  · exact h.numbered.setGang
  · exact h.numbered.retire

theorem State.Inv.stageWord {c : Ctx} {rs : List StageReq} {src : Option (Nat × Nat × Nat × Nat)} (h : s.Inv) :
    (c.stageWord s rs src).Inv := by
  unfold Ctx.stageWord
  split
  · exact h.notIssued
  · exact h.trap
  · exact h.setBlock.retire

theorem State.Inv.goLoad {c : Ctx} {w : Width} {sgn : Bool} {ord : MemOrder} {es zs : List MemElem} (h : s.Inv) :
    (c.goLoad s w sgn ord es zs).Keeps := by
  unfold Ctx.goLoad
  refine h.vOut (fun _ => ?_)
  refine Out.keeps_next ?_
  refine State.Inv.issueOp ?_
  split
  · exact h.frame
  · exact h

theorem State.Inv.goStore {c : Ctx} {w : Width} {ord : MemOrder} {es : List MemElem} (h : s.Inv) : (c.goStore s w ord es).Keeps := by
  unfold Ctx.goStore
  refine h.vOut (fun _ => ?_)
  split
  · exact Out.keeps_next h.stageWord
  · exact Out.keeps_next h.issueOp

theorem State.Inv.goAtomic {c : Ctx} {op : AtomOp} {w : Width} {sem : ASem} {es zs : List MemElem} (h : s.Inv) :
    (c.goAtomic s op w sem es zs).Keeps := by
  unfold Ctx.goAtomic
  refine h.vOut (fun _ => ?_)
  split
  · exact Out.keeps_next h.stageWord
  · exact Out.keeps_next h.issueOp

theorem State.Inv.formed {align : Nat} {es : List MemElem} {k : Out} (h : s.Inv) (hk : k.Keeps) : (formed s align es k).Keeps := by
  unfold Machine.formed
  split
  · exact Out.keeps_next h.trap
  · exact hk

theorem State.Inv.virtualLoad {c : Ctx} {w : Width} {sgn : Bool} {ord : MemOrder} {d : Dst} {ea : Nat → Nat} (h : s.Inv) :
    (c.virtualLoad s w sgn ord d ea).Keeps :=
  h.formed h.goLoad

theorem State.Inv.virtualStore {c : Ctx} {w : Width} {ord : MemOrder} {ea : Nat → Nat} {val : Nat → Word} (h : s.Inv) :
    (c.virtualStore s w ord ea val).Keeps :=
  h.formed h.goStore

theorem State.Inv.atomicWord {c : Ctx} {op : AtomOp} {w : Width} {sem : ASem} {d : Dst} {a : Src} {v cc : Nat → Word} (h : s.Inv) :
    (c.atomicWord s op w sem d a v cc).Keeps :=
  h.formed h.goAtomic

theorem State.Inv.checkedWord {srcs : Ctx → List Src} {k : Ctx → Out} (h : s.Inv) (hk : ∀ x, (k x).Keeps) :
    (checkedWord s srcs k).Keeps := by
  unfold Machine.checkedWord
  refine keeps_withCtx (fun _ => ?_)
  split
  · exact Out.keeps_next h.trap
  · exact hk _

/-! ### Atomics (R195 to R197) -/

theorem State.Inv.atomWord {op : AtomOp} {sem : ASem} {wide : Bool} {d : Dst} {a b : Src} (h : s.Inv) :
    (atomWord s op sem wide d a b).Keeps :=
  h.checkedWord (fun _ => h.atomicWord)

theorem State.Inv.atomWord4 {op : AtomOp} {sem : ASem} {wide : Bool} {d : Dst} {a b : Src} (h : s.Inv) :
    (atomWord4 s op sem wide d a b).Keeps :=
  h.checkedWord (fun _ => h.atomicWord)

/-! ### Scratchpads, group loads and residue planes (R109, R120 to R125, R189 to R194) -/

theorem State.Inv.scratchLoad {c : Ctx} {w : Width} {sgn : Bool} {d : Dst} {a : Src} {off : Int} (h : s.Inv) :
    (c.scratchLoad s w sgn d a off).Inv := by
  unfold Ctx.scratchLoad
  dsimp only
  split
  · exact h.trap
  · split
    · exact h.trap
    · exact h.issueOp

theorem State.Inv.execSts {w : Width} {d a : Src} {i : BitVec 8} (h : s.Inv) : (execSts w d a i s).Keeps := by
  unfold Machine.execSts
  refine h.checkedWord (fun _ => ?_)
  dsimp only
  split
  · exact Out.keeps_next h.trap
  · exact Out.keeps_next h.issueOp

theorem State.Inv.tableLoad {c : Ctx} {d : Dst} {idx : Nat → Nat} (h : s.Inv) : (c.tableLoad s d idx).Keeps := by
  unfold Ctx.tableLoad
  split
  · exact Out.keeps_next h.trap
  · exact h.virtualLoad

theorem State.Inv.groupWord {op : GroupOp} {d : Dst} {a : Src} (h : s.Inv) : (groupWord s op d a).Keeps := by
  unfold Machine.groupWord
  refine h.checkedWord (fun _ => ?_)
  dsimp only
  split
  · exact Out.keeps_next h.trap
  · split
    · exact Out.keeps_next h.trap
    · split
      · exact Out.keeps_next h.trap
      · exact Out.keeps_next h.retire

theorem State.Inv.planeWord {d a : Src} {n : BitVec 8} {go : Ctx → PlaneArgs → Out} (h : s.Inv) (hgo : ∀ x, ∀ y, (go x y).Keeps) :
    (planeWord s d a n go).Keeps := by
  unfold Machine.planeWord
  refine h.checkedWord (fun _ => ?_)
  dsimp only
  split
  · exact Out.keeps_next h.trap
  · split
    · exact Out.keeps_next h.trap
    · exact hgo _ _

theorem State.Inv.goRpld {c : Ctx} {p : PlaneArgs} (h : s.Inv) : (c.goRpld s p).Keeps := h.vOut (fun _ => Out.keeps_next h.issueOp)
theorem State.Inv.stageRpst {c : Ctx} {p : PlaneArgs} (h : s.Inv) : (c.stageRpst s p).Inv := h.stageWord

theorem State.Inv.goRpst {c : Ctx} {p : PlaneArgs} (h : s.Inv) : (c.goRpst s p).Keeps := by
  unfold Ctx.goRpst
  refine h.vOut (fun _ => ?_)
  split
  · split
    · exact Out.keeps_next h.trap
    · exact keeps_withCtx (fun _ => Out.keeps_next h.performFirst.stageRpst)
  · exact Out.keeps_next h.issueOp

theorem State.Inv.goRpstAdd {c : Ctx} {p : PlaneArgs} (h : s.Inv) : (c.goRpstAdd s p).Keeps := by
  unfold Ctx.goRpstAdd
  refine h.vOut (fun _ => ?_)
  split
  · exact Out.keeps_next h.trap
  · exact Out.keeps_next h.retire

theorem State.Inv.goCommit {c : Ctx} {t : BitVec 32} (h : s.Inv) : (c.goCommit s t).Keeps := h.vOut (fun _ => Out.keeps_next h.retire)

theorem State.Inv.execTcommit {a : Src} (h : s.Inv) : (execTcommit a s).Keeps := by
  unfold Machine.execTcommit
  refine h.checkedWord (fun _ => ?_)
  dsimp only
  split
  · exact Out.keeps_next h.retire
  · exact h.goCommit

/-! ### Fences, barriers, monitors, Clearing and Escrow (R198 to R206) -/

theorem State.Inv.holdOrGo {c : Ctx} {kind : HeldKind} (h : s.Inv) : (c.holdOrGo s kind).Inv := h.setGang.wakeGang

theorem State.Inv.released {dev : Bool} {k : State → Ctx → Out} (h : s.Inv) (hk : ∀ x, x.Inv → ∀ y, (k x y).Keeps) :
    (released s dev k).Keeps :=
  keeps_withCtx (fun _ => hk _ h.releasePoint _)

theorem State.Inv.execBarE (h : s.Inv) : (execBarE s).Keeps := by
  unfold Machine.execBarE
  refine keeps_withCtx (fun c => ?_)
  split
  · exact Out.keeps_next h.trap
  · exact h.released (fun _ hs _ => Out.keeps_next hs.setBlock.checkBarE)

theorem State.Inv.setNBar {t : Nat} {n : NBar} (h : s.Inv) : (s.setNBar t n).Inv := h.modTower
theorem State.Inv.releaseBarrier {hd : Word} {sc : Scope} {p : Nat} (h : s.Inv) : (s.releaseBarrier hd sc p).Inv := h.releaseHeld

theorem State.Inv.arrive {c : Ctx} {hd : Word} {t : Nat} {n : NBar} (h : s.Inv) : (c.arrive s hd t n).Inv :=
  State.Inv.modGang (ite_inv h.setNBar.releaseBarrier h.setNBar.releaseBarrier.acquireSync)

theorem State.Inv.execNbar {a : Src} (h : s.Inv) : (execNbar a s).Keeps := by
  unfold Machine.execNbar
  refine h.checkedWord (fun c => ?_)
  dsimp only
  split
  · exact Out.keeps_next h.trap
  · split
    · exact Out.keeps_next h.frame.trap
    · exact h.released (fun _ hs _ => Out.keeps_next hs.arrive)

theorem State.Inv.execNbnew {d : Dst} {a : Src} (h : s.Inv) : (execNbnew d a s).Keeps := by
  unfold Machine.execNbnew
  refine h.checkedWord (fun _ => ?_)
  dsimp only
  split
  · exact Out.keeps_next h.retire
  · split
    · exact Out.keeps_next h.retire
    · exact Out.keeps_next h.modTower.retire

theorem State.Inv.execNbfree {a : Src} (h : s.Inv) : (execNbfree a s).Keeps := by
  unfold Machine.execNbfree
  refine h.checkedWord (fun _ => ?_)
  dsimp only
  split
  · exact Out.keeps_next h.retire
  · exact Out.keeps_next h.retire.modTower.deliver

theorem State.Inv.goMonw {c : Ctx} {w : Width} {k : Cond} {es zs : List MemElem} (h : s.Inv) : (c.goMonw s w k es zs).Keeps :=
  h.vOut (fun _ => Out.keeps_next h.setGang)

theorem State.Inv.execSecin (h : s.Inv) : (execSecin s).Keeps := by
  unfold Machine.execSecin
  refine keeps_withCtx (fun _ => ?_)
  refine Out.keeps_next ?_
  split
  · exact h.acquireSync.retire.setClearing
  · exact h.acquireSync.retire

theorem State.Inv.execSecout (h : s.Inv) : (execSecout s).Keeps := by
  unfold Machine.execSecout
  refine keeps_withCtx (fun c => ?_)
  split
  · exact h.released (fun _ hs _ => Out.keeps_next hs.retire.setClearing)
  · exact Out.keeps_next h.retire

theorem State.Inv.execClwait {a : Src} (h : s.Inv) : (execClwait a s).Keeps := by
  unfold Machine.execClwait
  refine h.checkedWord (fun _ => ?_)
  dsimp only
  split
  · exact Out.keeps_next h.acquireSync.retire
  · split
    · exact Out.keeps_next h.trap
    · exact Out.keeps_next h.setGang

theorem State.Inv.appendEscrow {acc : State × Partition} {x : VAddr × Byte} {stamp : Word} (h : acc.1.Inv) :
    (appendEscrow acc x stamp).1.Inv :=
  h.writePkg

theorem State.Inv.execEscrow {a b : Src} (h : s.Inv) : (execEscrow a b s).Keeps := by
  unfold Machine.execEscrow
  refine h.checkedWord (fun c => ?_)
  dsimp only
  split
  · exact Out.keeps_next h.trap
  · exact h.released (fun _ hs _ => Out.keeps_next (hs.retire.foldlFst (fun _ _ hs => hs.appendEscrow)).setClearing)

theorem State.Inv.execDflush (h : s.Inv) : (execDflush s).Keeps := by
  unfold Machine.execDflush
  refine keeps_withCtx (fun c => ?_)
  split
  · exact keeps_withCtx (fun _ => Out.keeps_next h.performBefore.retire)
  · exact Out.keeps_next h.retire

/-! ### Command words and queue registers (R253 to R256, R260, R271) -/

theorem State.Inv.commandWord {k : CmdKind} {q : Fin 8} {d : Fin 93} {rel : Bool} (h : s.Inv) : (commandWord s k q d rel).Keeps := by
  unfold Machine.commandWord
  refine keeps_withCtx (fun _ => ?_)
  dsimp only
  split
  · exact Out.keeps_next h.trap
  · split
    · exact Out.keeps_next h.notIssued
    · exact Out.keeps_next h.frame.setBlock.retire

theorem State.Inv.modStream {t hd : Nat} {f : Stream → Stream} (h : s.Inv) : (s.modStream t hd f).Inv := h.modTower

theorem State.Inv.takePort {t : Nat} {part : Fin 16} {k : Nat} {x : Binding} (h : s.Inv) : (s.takePort t part k x).2.Inv := by
  unfold State.takePort
  split
  · exact h
  · exact h.modStream
  · exact h.modStream
  · exact h.setPartition

theorem State.Inv.popHeld {c gi : Nat} {hd : Held} {p : Binding} {regs : List (Nat × Nat)} (h : s.Inv) :
    Kept (s.popHeld c gi hd p regs) := by
  unfold State.popHeld
  split
  · exact kept_none
  · dsimp only
    split
    · exact kept_none
    · exact kept_some h.takePort.acquireSync.modGang

theorem State.Inv.pushHeld {c gi : Nat} {hd : Held} {p : Binding} {vals : List Word} (h : s.Inv) : Kept (s.pushHeld c gi hd p vals) := by
  unfold State.pushHeld
  split
  · split
    · exact kept_none
    · split
      · exact kept_none
      · exact kept_some h.modStream.modGang
  · exact kept_none

theorem State.Inv.queueHeld {c gi : Nat} {hd : Held} (h : s.Inv) : Kept (s.queueHeld c gi hd) := by
  unfold State.queueHeld
  split
  · exact h.popHeld
  · exact h.pushHeld
  · exact kept_none

theorem State.Inv.holdOnPort {c : Ctx} {kind : HeldKind} (h : s.Inv) : (c.holdOnPort s kind).Inv := by
  unfold Ctx.holdOnPort
  dsimp only
  split
  · exact h.setGang
  · exact Kept.getD h.setGang.queueHeld h.setGang

theorem State.Inv.portWord {srcs : List Src} {n : Fin 4} {ok : Binding → Bool} {k : Ctx → Binding → Out} (h : s.Inv)
    (hk : ∀ x, ∀ y, (k x y).Keeps) : (portWord s srcs n ok k).Keeps := by
  unfold Machine.portWord
  refine h.checkedWord (fun _ => ?_)
  split
  · exact Out.keeps_next h.trap
  · split
    · exact hk _ _
    · exact Out.keeps_next h.trap

theorem State.Inv.bindResult {c : Ctx} {d : Dst} {v : Nat} (h : s.Inv) : (c.bindResult s d v).Inv := h.modGang
theorem State.Inv.setBinding {c : Ctx} {n : Fin 4} {p : Option Binding} (h : s.Inv) : (c.setBinding s n p).Inv := h.modBlock
theorem State.Inv.readRecord {c : Ctx} {locs : List (Loc × Bool)} (h : s.Inv) : (c.readRecord s locs).1.Inv := h.performFirst.readPlaces

theorem State.Inv.goBind {c : Ctx} {d : Dst} {n : Fin 4} {va : Nat} (h : s.Inv) : (c.goBind s d n va).Keeps := by
  unfold Ctx.goBind
  dsimp only
  split
  · split
    · exact Out.keeps_next h.stall
    · exact Out.keeps_next h.bindResult
    · exact Out.keeps_next h.log.bindResult
    · split
      · exact Out.keeps_next h.readRecord.bindResult
      · exact Out.keeps_next h.readRecord.modTower.setBinding.bindResult
  · exact Out.keeps_next h.bindResult

theorem State.Inv.bindInput {c : Ctx} {d : Dst} {n : Fin 4} {va : Nat} (h : s.Inv) : (c.bindInput s d n va).Keeps := by
  unfold Ctx.bindInput
  split
  · exact Out.keeps_next h.bindResult
  · exact h.goBind

theorem State.Inv.unbind {c : Ctx} {n : Fin 4} {p : Binding} (h : s.Inv) : (c.unbind s n p).Inv := by
  unfold Ctx.unbind
  split
  · exact h.setBinding.modStream
  · exact h.setBinding.modStream
  · exact h.setBinding

theorem State.Inv.bindKind {c : Ctx} {d : Dst} {n : Fin 4} {kind x : Nat} (h : s.Inv) : (c.bindKind s d n kind x).Keeps := by
  unfold Ctx.bindKind
  split
  · split
    · exact Out.keeps_next h.unbind.bindResult
    · exact Out.keeps_next h.bindResult
  · exact h.bindInput
  · split
    · exact Out.keeps_next h.bindResult
    · split
      · exact Out.keeps_next h.bindResult
      · exact Out.keeps_next h.modStream.setBinding.bindResult
  · split
    · exact Out.keeps_next h.bindResult
    · split
      · exact Out.keeps_next h.bindResult
      · exact Out.keeps_next h.modStream.setBinding.bindResult
  · split
    · exact Out.keeps_next h.setBinding.bindResult
    · exact Out.keeps_next h.bindResult
  · exact Out.keeps_next h.bindResult

theorem State.Inv.execQbind {d : Dst} {a : Src} {n : Fin 4} (h : s.Inv) : (execQbind d a n s).Keeps := by
  unfold Machine.execQbind
  refine h.checkedWord (fun _ => ?_)
  dsimp only
  split
  · exact Out.keeps_next h.bindResult
  · exact h.bindKind

/-! ### Branches and loops (R159 to R164) -/

theorem State.Inv.controlWord {f : Ctx → Gang} (h : s.Inv) : (controlWord s f).Keeps := keeps_withCtx (fun _ => Out.keeps_next h.placed)

theorem State.Inv.jumpWord {srcs : List Src} {t : Ctx → Nat → Word} {link : Bool} (h : s.Inv) : (jumpWord s srcs t link).Keeps := by
  unfold Machine.jumpWord
  refine keeps_withCtx (fun _ => ?_)
  split
  · exact Out.keeps_next h.trap
  · split
    · exact Out.keeps_next h.trap
    · exact Out.keeps_next h.placed

theorem State.Inv.gangExit {c gi : Nat} (h : s.Inv) : (s.gangExit c gi).Inv := by
  unfold State.gangExit
  split
  · exact h
  · split
    · exact h
    · split
      · refine State.Inv.modBlock ?_
        refine State.Inv.leaveSection ?_
        refine State.Inv.modGang ?_
        split
        · exact h
        · exact h.releasePoint
      · exact h

theorem State.Inv.handlerExit {c gi : Nat} (h : s.Inv) : (s.handlerExit c gi).Inv := by
  unfold State.handlerExit
  split
  · exact h
  · split
    · exact h.setGang.takePending
    · exact h

theorem State.Inv.execLoopt {cnt : Dst} {disp : BitVec 15} (h : s.Inv) : (execLoopt cnt disp s).Keeps := by
  unfold Machine.execLoopt
  refine keeps_withCtx (fun _ => ?_)
  split
  · exact Out.keeps_next h.trap
  · exact Out.keeps_next h.placed

theorem State.Inv.execLooptB {cnt : Src} {disp : BitVec 15} (h : s.Inv) : (execLooptB cnt disp s).Keeps := by
  unfold Machine.execLooptB
  refine keeps_withCtx (fun _ => ?_)
  split
  · exact Out.keeps_next h.trap
  · split
    · exact Out.keeps_next h.trap
    · exact Out.keeps_next h.placed

/-! ### Fetching (R57 to R66) -/

theorem State.Inv.fetchFail {e : CodeFail} {va : VAddr} (h : s.Inv) : (s.fetchFail e va).Inv := by
  unfold State.fetchFail
  split
  · exact h.stall
  · exact h.trap
  · exact h.log.trap

theorem State.Inv.unfetch {g : Gang} {f : WalkFault} {va : VAddr} (h : s.Inv) : (s.unfetch g f va).Inv := by
  unfold State.unfetch
  split
  · exact h.fetchFail
  · exact h.setGang.frame.fetchFail

theorem State.Inv.illegal (h : s.Inv) : s.illegal.Inv := h.trap

theorem State.Inv.fetchWord {g : Gang} {w : Nat} (h : s.Inv) : (fetchWord s g w).Keeps := by
  unfold Machine.fetchWord
  extract_lets s1
  split
  · exact h.setGang
  · exact iteInduction (motive := Fetched.Keeps) (fun _ => h.setGang.illegal) (fun _ =>
      iteInduction (motive := Fetched.Keeps) (fun _ => h.setGang.illegal) (fun _ => h.setGang))

theorem State.Inv.fetchClauseWord {b : Block} {g : Gang} {va : VAddr} (h : s.Inv) : (fetchClauseWord s b g va).Keeps := by
  unfold Machine.fetchClauseWord
  split
  · exact h.fetchFail
  · split
    · split
      · exact h.illegal
      · split
        · exact h.illegal
        · dsimp only
          split
          · exact h.frame.unfetch
          · exact h.frame.fetchFail
          · split
            · exact h.frame.illegal
            · exact h.frame.fetchWord
    · exact h.fetchWord

theorem State.Inv.fetchPath {c gi : Nat} {p : Path} (h : s.Inv) : (fetchPath s c gi p).Keeps := by
  unfold Machine.fetchPath
  split
  · exact h
  · split
    · exact h
    · dsimp only
      split
      · exact h.frame.fetchClauseWord
      · split
        · exact h.frame.fetchFail
        · split
          · exact h.frame.trap
          · split
            · exact h.frame.fetchFail
            · exact h.frame.setGang.frame.fetchClauseWord

/-! ### Special registers and returns (R302 to R312) -/

theorem State.Inv.execCsrr {d : Dst} {n : BitVec 8} (h : s.Inv) : (execCsrr d n s).Keeps := by
  unfold Machine.execCsrr
  refine keeps_withCtx (fun _ => ?_)
  split
  · exact Out.keeps_next h.illegal
  · split
    · exact Out.keeps_next h.trap
    · split
      · exact Out.keeps_next h.trap
      · exact Out.keeps_next h.retire

theorem State.Inv.execCsrw {a : Src} {n : BitVec 8} (h : s.Inv) : (execCsrw a n s).Keeps := by
  unfold Machine.execCsrw
  refine keeps_withCtx (fun _ => ?_)
  split
  · exact Out.keeps_next h.illegal
  · split
    · exact Out.keeps_next h.trap
    · exact Out.keeps_next h.retire

theorem State.Inv.leave {c : Ctx} {f : Lane → Lane} (h : s.Inv) : (c.leave s f).Inv := h.setGang.takePending

theorem State.Inv.retWord {f : Lane → Resume → Lane} (h : s.Inv) : (retWord s f).Keeps := by
  unfold Machine.retWord
  refine keeps_withCtx (fun _ => ?_)
  split
  · exact Out.keeps_next h.trap
  · exact Out.keeps_next h.leave

theorem State.Inv.execTretTo {a : Src} (h : s.Inv) : (execTretTo a s).Keeps := by
  unfold Machine.execTretTo
  refine keeps_withCtx (fun _ => ?_)
  split
  · exact Out.keeps_next h.trap
  · split
    · exact Out.keeps_next h.trap
    · dsimp only
      split
      · exact Out.keeps_next h.trap
      · split
        · exact Out.keeps_next h.trap
        · exact Out.keeps_next h.leave

/-! ### Floating point, conversions and block quantising (R173 to R178) -/

theorem State.Inv.floatWord {t : FFmt} {d : Dst} {a b : Src} {f : FloatFmt → RMode → Nat → Nat → Nat} (h : s.Inv) :
    (floatWord s t d a b f).Keeps :=
  h.elemWord

theorem State.Inv.floatUnary {t : FFmt} {d : Dst} {a : Src} {f : FloatFmt → RMode → Nat → Nat} (h : s.Inv) :
    (floatUnary s t d a f).Keeps :=
  h.elemWord

theorem State.Inv.fusedWord {t : FFmt} {d : Dst} {a b : Src} {f : FloatFmt → RMode → Nat → Nat → Nat → Nat} (h : s.Inv) :
    (fusedWord s t d a b f).Keeps :=
  h.elemWord

theorem State.Inv.floatCompare {t : FFmt} {d : MaskNo} {a b : Src} {p : FloatFmt → Nat → Nat → Bool} (h : s.Inv) :
    (floatCompare s t d a b p).Keeps :=
  h.compareWord

theorem State.Inv.specialWord {fn : SpecialFn} {d : Dst} {a : Src} (h : s.Inv) : (specialWord s fn d a).Keeps := h.gangWord

theorem State.Inv.cvtWord {p : Fin 4} {d : Dst} {a : Src} {t f : CvtFmt} {conv : RMode → Nat → Nat} (h : s.Inv) :
    (cvtWord s p d a t f conv).Keeps :=
  h.gangWord

theorem State.Inv.quantWord {w e : Nat} {d : Dst} {a : Src} (h : s.Inv) : (quantWord s w e d a).Keeps := h.gangWord
theorem State.Inv.dequantWord {w : Nat} {d : Dst} {a : Src} (h : s.Inv) : (dequantWord s w d a).Keeps := h.gangWord

/-! ### Matrix words (R211 to R228) -/

theorem State.Inv.convergentWord {srcs : List Src} {slot : Option Nat} {votes : List Src} {k : Ctx → Out} (h : s.Inv)
    (hk : ∀ x, (k x).Keeps) : (convergentWord s srcs slot votes k).Keeps := by
  unfold Machine.convergentWord
  refine keeps_withCtx (fun _ => ?_)
  split
  · exact Out.keeps_next h.trap
  · split
    · exact Out.keeps_next h.notIssued
    · split
      · exact Out.keeps_next h.trap
      · exact Out.keeps_next h.trap
      · exact hk _

theorem State.Inv.execEnc {t : FFmt} {cls : Cls} {d : Dst} {a : Fin 96} {b : Src} (h : s.Inv) : (execEnc t cls d a b s).Keeps := by
  unfold Machine.execEnc
  refine h.convergentWord (fun _ => ?_)
  dsimp only
  split
  · exact Out.keeps_next h.trap
  · split
    · exact Out.keeps_next h.trap
    · split
      · exact Out.keeps_next h.trap
      · exact Out.keeps_next h.retire

theorem State.Inv.usedFree {log : List (Nat × List Byte)} {mark : Nat} (h : s.Inv) : (s.usedFree log mark).Inv := by
  unfold State.usedFree
  split
  · exact h
  · exact h.frame

theorem State.Inv.mxmIssue {c : Ctx} {n : Nat} {fw aw bw : Word} (h : s.Inv) : (c.mxmIssue s n fw aw bw).Keeps := by
  unfold Ctx.mxmIssue
  dsimp only
  split
  · exact Out.keeps_next h.trap
  · split
    · exact Out.keeps_next h.trap
    · split
      · exact Out.keeps_next h.trap
      · split
        · exact Out.keeps_next h.trap
        · split
          · exact Out.keeps_next h.usedFree.trap
          · exact Out.keeps_next h.usedFree.retire

theorem State.Inv.execMxm {n : Fin 8} {d a b : Src} (h : s.Inv) : (execMxm n d a b s).Keeps := by
  unfold Machine.execMxm
  refine keeps_withCtx (fun _ => ?_)
  split
  · exact Out.keeps_next h.trap
  · split
    · exact Out.keeps_next h.notIssued
    · split
      · exact Out.keeps_next h.setBlock.awaitLease
      · split
        · exact Out.keeps_next h.setBlock.trap
        · exact Out.keeps_next h.setBlock.trap
        · exact h.setBlock.mxmIssue

theorem State.Inv.holdDrain {c : Ctx} {j : DrainJob} (h : s.Inv) : (c.holdDrain s j).Inv := h.setBlock
theorem State.Inv.goDrain {c : Ctx} {j : DrainJob} (h : s.Inv) : (c.goDrain s j).Keeps := h.vOut (fun _ => Out.keeps_next h.holdDrain)

theorem State.Inv.execMxdrs {n : Fin 8} {d : Dst} {a b : Src} (h : s.Inv) : (execMxdrs n d a b s).Keeps := by
  unfold Machine.execMxdrs
  refine h.convergentWord (fun _ => ?_)
  exact ite_keeps (Out.keeps_next h.trap) (ite_keeps (Out.keeps_next h.trap) (ite_keeps (Out.keeps_next h.trap)
    (ite_keeps h.goDrain (Out.keeps_next h.holdDrain))))

theorem State.Inv.execMxgsum {n : Fin 8} (h : s.Inv) : (execMxgsum n s).Keeps := by
  unfold Machine.execMxgsum
  refine h.convergentWord (fun _ => ?_)
  split
  · exact Out.keeps_next h.setGang
  · exact Out.keeps_next h.setGang.trapAt

/-! ### Toss words and the tower's unit (R233 to R252) -/

theorem State.Inv.seenRanges {core gi : Nat} {lanes : LaneBits} {b : Block} {qs : List TossRange} (h : s.Inv) :
    (s.seenRanges core gi lanes b qs).1.Inv := by
  unfold State.seenRanges
  dsimp only
  split
  · exact h.readRanges.frame
  · exact h.readRanges

theorem State.Inv.joinToss {c : Ctx} {job : TossJob} (h : s.Inv) : (c.joinToss s job).Inv := by
  unfold Ctx.joinToss
  split
  · exact h.notIssued
  · exact h.setGang.modTower

theorem State.Inv.readRange {c : Ctx} {q : RangeReq} (h : s.Inv) : (c.readRange s q).1.Inv := by
  unfold Ctx.readRange
  exact h.performFirst.seenRanges

theorem State.Inv.queueToss {c : Ctx} {k : TossKind} {regs : List (Nat × Nat)} {r : List Word} {all : List RangeReq} {record : TossRange}
    (h : s.Inv) : (c.queueToss s k regs r all record).Keeps :=
  keeps_withCtx (fun _ => Out.keeps_next h.performFirst.joinToss)

theorem State.Inv.goTossRanges {c : Ctx} {k : TossKind} {regs : List (Nat × Nat)} {r : List Word} {record : TossRange} (h : s.Inv) :
    (c.goTossRanges s k regs r record).Keeps := by
  unfold Ctx.goTossRanges
  extract_lets rs
  clear_value rs
  split
  rename_i s1 all hs1
  have h1 : s1.Inv := by
    refine State.Inv.of_fst_eq ?_ hs1
    split
    · split
      · exact h.readRange
      · exact h
    · exact h
  exact keeps_withCtx (fun _ => h1.vOut (fun _ => h1.queueToss))

theorem State.Inv.goTossRecord {c : Ctx} {k : TossKind} {regs : List (Nat × Nat)} {rva : Nat} (h : s.Inv) :
    (c.goTossRecord s k regs rva).Keeps := by
  unfold Ctx.goTossRecord
  dsimp only
  refine h.vOut (fun _ => ?_)
  split
  · exact Out.keeps_next h.readRange.trap
  · exact keeps_withCtx (fun _ => h.readRange.goTossRanges)

theorem State.Inv.tossWord {k : TossKind} {d : Dst} {a : Src} (h : s.Inv) : (tossWord s k d a).Keeps := by
  unfold Machine.tossWord
  refine h.checkedWord (fun _ => ?_)
  split
  · exact Out.keeps_next h.notIssued
  · dsimp only
    split
    · exact Out.keeps_next h.trap
    · exact h.goTossRecord

theorem State.Inv.serveToss {c gi : Nat} {b : Block} {g : Gang} {hd : Held} {j : TossJob} {keep : Nat → Bool} (h : s.Inv) :
    Kept (s.serveToss c gi b g hd j keep) := by
  unfold State.serveToss
  dsimp only
  split
  · exact kept_some h.log.trapHeld
  · split
    · exact kept_some h.seenRanges.trapHeld
    · split
      · split
        · exact kept_none
        · exact kept_some h.seenRanges.trapHeld
        · exact kept_some h.seenRanges.setBlock
      · exact kept_some h.seenRanges.writePlaces.setGang

theorem State.Inv.leaveToss {q : Nat × Nat × Nat} (h : s.Inv) : (s.leaveToss q).Inv := h.modTower

theorem State.Inv.serveEntry {keep : Nat → Bool} {q : Nat × Nat × Nat} (h : s.Inv) : Kept (s.serveEntry keep q) := by
  unfold State.serveEntry
  split
  · exact kept_none
  · exact Kept.map h.serveToss (fun _ hs1 => hs1.leaveToss.wakeGang)

theorem State.Inv.tossComplete {t : Nat} (h : s.Inv) : Kept (s.tossComplete t) := kept_findSome? (fun _ => h.serveEntry)
theorem State.Inv.setToss {core gi id : Nat} {j : TossJob} (h : s.Inv) : (s.setToss core gi id j).Inv := h.modGang

theorem State.Inv.tossReadTurn {core gi id range o n : Nat} (h : s.Inv) : (s.tossReadTurn core gi id range o n).Inv := by
  unfold State.tossReadTurn
  split
  · exact h
  · split
    · exact h
    · split
      · exact h
      · exact h.readSome.frame.setToss

theorem State.Inv.tossWriteTurn {core gi id o n : Nat} (h : s.Inv) : (s.tossWriteTurn core gi id o n).Inv := by
  unfold State.tossWriteTurn
  split
  · exact h
  · split
    · exact h
    · split
      · exact h
      · dsimp only
        split
        · exact h
        · exact h.readRanges.writePlaces.setToss

/-! ### The ends of issued operations (R39, R185, R221 to R227) -/

theorem State.Inv.finishOp {c gi : Nat} {g : Gang} {o : Op} (h : s.Inv) : Kept (s.finishOp c gi g o) := by
  unfold State.finishOp
  split
  · exact kept_none
  · exact kept_some h.performAll.modGang.wakeGang

theorem State.Inv.completeOp {c gi id : Nat} {kind : OpKind} (h : s.Inv) : Kept (completeOp s c gi id kind) :=
  kept_bind (fun _ => kept_bind (fun _ => h.finishOp))

theorem State.Inv.finishGate {c gi : Nat} {g : Gang} {o : Op} (h : s.Inv) : Kept (s.finishGate c gi g o) := by
  unfold State.finishGate
  split
  · exact h.learn.frame.finishOp
  · exact kept_none

theorem State.Inv.finishPeer {c gi : Nat} {g : Gang} {hd : Held} {o : Op} (h : s.Inv) : Kept (s.finishPeer c gi g hd o) := by
  unfold State.finishPeer
  split
  · exact kept_none
  · exact kept_some h.performAll.modGang.wakeGang

theorem State.Inv.tryMemoryOperationComplete {core gang op : Nat} (h : s.Inv) : Kept (tryMemoryOperationComplete core gang op s) := by
  unfold Machine.tryMemoryOperationComplete
  refine kept_bind (fun _ => ?_)
  split
  · split
    · exact h.finishOp
    · exact h.finishGate
    · exact kept_none
  · refine kept_bind (fun _ => ?_)
    split
    · exact h.finishPeer
    · exact kept_none

theorem State.Inv.tryMxmAccumulate {core gang slot : Nat} (h : s.Inv) : Kept (tryMxmAccumulate core gang slot s) := by
  unfold Machine.tryMxmAccumulate
  split
  · exact kept_none
  · split
    · exact kept_none
    · split
      · exact kept_none
      · exact kept_some h.usedFree.setGang.wakeGang

theorem State.Inv.assay {core coreSlot : Nat} {ds : List (Nat × Int × Option Nat)} (h : s.Inv) : (s.assay core coreSlot ds).Inv := by
  unfold State.assay
  refine State.Inv.pump ?_
  refine h.foldl (fun _ _ hs => ?_)
  split
  · exact hs
  · exact hs.modTower

theorem State.Inv.passDrain {c gi : Nat} {b : Block} {g : Gang} {hd : Held} {j : DrainJob} {ds : List (Nat × Int × Option Nat)}
    {vs : List FVal} (h : s.Inv) : (s.passDrain c gi b g hd j ds vs).Inv :=
  h.numbered.setBlock.assay

theorem State.Inv.decideDrain {c gi : Nat} {b : Block} {g : Gang} {hd : Held} {j : DrainJob} (h : s.Inv) :
    Kept (s.decideDrain c gi b g hd j) := by
  unfold State.decideDrain
  dsimp only
  split
  · exact kept_some h.trapHeld
  · split
    · split
      · exact kept_none
      · exact kept_some h.trapHeld
      · exact kept_some h.passDrain
    · exact kept_some h.passDrain

theorem State.Inv.tryDrainDecision {core gang op : Nat} (h : s.Inv) : Kept (tryDrainDecision core gang op s) := by
  unfold Machine.tryDrainDecision
  refine kept_bind (fun _ => ?_)
  refine kept_bind (fun _ => ?_)
  refine kept_bind (fun _ => ?_)
  split
  · split
    · exact h.decideDrain
    · exact kept_none
  · exact kept_none

theorem State.Inv.sumInto {gi slot : Nat} {r : Memory × Word × Option (List Byte × List Byte)} {p : Participant} (h : s.Inv) :
    (s.sumInto gi slot r p).Inv :=
  h.setGang

theorem State.Inv.tryMxgsumSum {core gang slot : Nat} (h : s.Inv) : Kept (tryMxgsumSum core gang slot s) := by
  unfold Machine.tryMxgsumSum
  split
  · exact kept_none
  · split
    · exact kept_none
    · dsimp only
      split
      · exact kept_none
      · split
        · exact kept_some h.deliver
        · exact kept_some (h.foldl (fun _ _ hs => hs.sumInto))

/-! ### The ends of waits, and the Teller (R45, R149, R150, R202, R273, R353) -/

theorem State.Inv.tryLeaseGrant {core : Nat} (h : s.Inv) : Kept (tryLeaseGrant core s) := by
  unfold Machine.tryLeaseGrant
  split
  · exact kept_none
  · split
    · exact kept_none
    · split
      · exact kept_some h.setBlock
      · exact kept_none

theorem State.Inv.tryLeasePass {core : Nat} (h : s.Inv) : Kept (tryLeasePass core s) := by
  unfold Machine.tryLeasePass
  split
  · exact kept_none
  · split
    · exact kept_none
    · split
      · exact kept_none
      · split
        · exact kept_some h.setBlock
        · exact kept_none

theorem State.Inv.monAcquire {core gi : Nat} {x : Access} (h : s.Inv) : (s.monAcquire core gi x).Inv := h.readSpot.afterAcquire

theorem State.Inv.tryMonwSatisfied {core gang lane : Nat} (h : s.Inv) : Kept (tryMonwSatisfied core gang lane s) := by
  unfold Machine.tryMonwSatisfied
  split
  · exact kept_none
  · split
    · exact kept_none
    · split
      · exact kept_none
      · split
        · exact kept_none
        · split
          · exact kept_some h.monAcquire.setGang.wakeGang
          · exact kept_none

theorem State.Inv.tryQueueWaitRelease {core gang lane : Nat} (h : s.Inv) : Kept (tryQueueWaitRelease core gang lane s) := by
  unfold Machine.tryQueueWaitRelease
  split
  · exact kept_none
  · split
    · exact kept_none
    · split
      · rename_i s1 hs1
        exact kept_some (h.queueHeld _ hs1)
      · exact kept_none

theorem State.Inv.discardEntry {core : Nat} {e : TellerEntry} (h : s.Inv) : (s.discardEntry core e).Inv := h.log

theorem State.Inv.performEntry {core : Nat} {e : TellerEntry} {loc : Loc} (h : s.Inv) : (s.performEntry core e loc).Inv :=
  h.peersFirst.homeRead.towerWrite.dropRun

theorem State.Inv.applyEntry {core : Nat} {b : Block} {e : TellerEntry} (h : s.Inv) : (s.applyEntry core b e).Keeps := by
  unfold State.applyEntry
  split
  · trivial
  · extract_lets okHome
    split
    · exact h.discardEntry
    · split
      · exact h.discardEntry
      · exact h.performEntry

theorem State.Inv.dropEntry {core : Nat} {e : TellerEntry} (h : s.Inv) : (s.dropEntry core e).Inv := h.modBlock

theorem State.Inv.performExited {core : Nat} {b : Block} (h : s.Inv) : (s.performExited core b).Inv := by
  unfold State.performExited
  refine h.foldl (fun _ _ hs => ?_)
  split
  · exact hs.performBefore
  · exact hs

theorem State.Inv.tellerEntry {core : Nat} {b : Block} {e : TellerEntry} (h : s.Inv) : (s.tellerEntry core b e).1.Inv := by
  have he := h.applyEntry (core := core) (b := b) (e := e)
  unfold State.tellerEntry
  split
  · rename_i s1 hs1
    rw [hs1] at he
    exact State.Inv.dropEntry he
  · exact h.logWalk.modBlock.modTower

theorem State.Inv.applyEntries {core : Nat} {b : Block} {l : List TellerEntry} (h : s.Inv) : (State.applyEntries core b l s).Inv := by
  induction l generalizing s with
  | nil => exact h.modBlock
  | cons e r ih =>
    rw [State.applyEntries]
    split
    · rename_i hs
      exact ih (h.tellerEntry.of_fst_eq hs)
    · rename_i hs
      exact h.tellerEntry.of_fst_eq hs

theorem State.Inv.tryTellerFlushApply {core : Nat} (h : s.Inv) : Kept (tryTellerFlushApply core s) := by
  unfold Machine.tryTellerFlushApply
  split
  · exact kept_none
  · split
    · exact kept_some h.performExited.applyEntries
    · exact kept_none

theorem State.Inv.tellerTurn {core : Nat} (h : s.Inv) : (s.tellerTurn core).Inv := by
  unfold State.tellerTurn
  split
  · exact h
  · split
    · exact h
    · split
      · exact h.performExited.tellerEntry
      · exact h

theorem State.Inv.tryRemoteUpdateApply {src dst : Nat} {clock : List Nat} (h : s.Inv) : Kept (tryRemoteUpdateApply src dst clock s) := by
  unfold Machine.tryRemoteUpdateApply
  split
  · exact kept_none
  · split
    · exact kept_none
    · exact kept_some h.modTower

theorem State.Inv.tryQuantumExpiry {core : Nat} (h : s.Inv) : Kept (tryQuantumExpiry core s) := by
  unfold Machine.tryQuantumExpiry
  dsimp only
  split
  · exact kept_none
  · split
    · exact kept_some h.setBlock
    · exact kept_none

theorem State.Inv.tryYieldSuppressionEnd {core gang : Nat} (h : s.Inv) : Kept (tryYieldSuppressionEnd core gang s) := by
  unfold Machine.tryYieldSuppressionEnd
  split
  · exact kept_none
  · split
    · exact kept_none
    · split
      · exact kept_some h.setGang
      · exact kept_none

/-! ### Copy engines (R253 to R265) -/

theorem State.Inv.towerPieces {t : Nat} {m : MemOrder} {l : List (Loc × Nat × Leaf)} {bs : List Byte} (h : s.Inv) :
    (s.towerPieces t m l bs).Inv := by
  induction l generalizing s bs with
  | nil => exact h
  | cons p r ih => exact ih h.peersFirst.towerWrite

theorem State.Inv.towerUpdate {t : Nat} {m : MemOrder} {l : List (Loc × Nat × Leaf)} {f : List Byte → List Byte} (h : s.Inv) :
    (s.towerUpdate t m l f).Inv :=
  (h.foldl (fun _ _ hs => hs.peersFirst)).foldlFst (fun _ _ hs => hs.towerWrite)

theorem State.Inv.writeVirt {c : Command} {va : Nat} {bs : List Byte} (h : s.Inv) : (c.writeVirt s va bs).Keeps :=
  Eng.keeps_andThen (fun _ => Eng.keeps_ok h.towerPieces)

theorem State.Inv.writeSide {c : Command} {x : Side} {bs : List Byte} (h : s.Inv) : (c.writeSide s x bs).Keeps := by
  unfold Command.writeSide
  split
  · exact h.writeVirt
  · split
    · exact Eng.keeps_fail
    · exact Eng.keeps_ok h.storeDs

theorem State.Inv.putSpot {c : Command} {p : Spot} {v : Byte} (h : s.Inv) : (c.putSpot s p v).Inv := by
  unfold Command.putSpot
  split
  · exact h.peersFirst.towerWrite
  · exact elim_inv h (fun _ => h.writeScratch)

theorem State.Inv.putFree {c : Command} {l : List (Spot × Byte)} (h : s.Inv) : (c.putFree s l).Inv := by
  unfold Command.putFree
  refine h.foldl (fun _ _ hs => ?_)
  split
  · exact hs.frame.putSpot
  · exact hs.frame

theorem State.Inv.writeRest {c : Command} {x : Side} {part : Nat} {bs : List Byte} (h : s.Inv) : (c.writeRest s x part bs).Keeps := by
  have runs (l : List (Nat × List Byte)) : ∀ e : Eng State, e.Keeps →
      (l.foldl (fun e r => e.andThen (fun s => c.writeSide s (x.plus r.1) r.2)) e).Keeps := by
    induction l with
    | nil => exact fun _ he => he
    | cons r l ih => exact fun _ he => ih _ (he.andThen (fun _ hs => hs.writeSide))
  exact runs _ _ (Eng.keeps_ok h)

theorem State.Inv.copyFree {c : Command} {x y : Side} {n : Nat} (h : s.Inv) : (c.copyFree s x y n).Inv := h.putFree

theorem State.Inv.copyRun {c : Command} {x y : Side} {n e : Nat} (h : s.Inv) : (c.copyRun s x y n e).Keeps :=
  (Eng.keeps_andThen (fun _ => Eng.keeps_andThen (fun _ => h.frame.writeRest))).ran h.frame.copyFree

theorem State.Inv.runCpy {c : Command} (h : s.Inv) : (c.runCpy s).Keeps := by
  unfold Command.runCpy
  split
  · exact h
  · split
    · exact h
    · exact h.copyRun

theorem State.Inv.reduceOne {c : Command} {op : Nat} {x y : Side} (h : s.Inv) : (c.reduceOne s op x y).Keeps := by
  unfold Command.reduceOne
  refine Eng.keeps_andThen (fun _ => ?_)
  split
  · split
    · exact Eng.keeps_fail
    · split
      · exact Eng.keeps_fail
      · split
        · exact Eng.keeps_fail
        · exact h.writeSide
  · refine Eng.keeps_andThen (fun _ => ?_)
    split
    · exact Eng.keeps_fail
    · split
      · exact Eng.keeps_fail
      · exact Eng.keeps_ok h.towerUpdate

theorem State.Inv.reduceAll {c : Command} {op : Nat} {x y : Side} {l : List Nat} (h : s.Inv) : (c.reduceAll op x y l s).Keeps := by
  induction l generalizing s with
  | nil => exact Eng.keeps_ok h
  | cons i r ih => exact h.reduceOne.andThen (fun _ ht => ih ht)

theorem State.Inv.reduceFree {c : Command} {op : Nat} {x y : Side} {is : List Nat} (h : s.Inv) : (c.reduceFree op x y is s).Inv := by
  unfold Command.reduceFree
  refine h.foldl (fun _ _ hs => ?_)
  dsimp only
  split
  · rename_i s2 hs2
    exact hs.frame.reduceOne _ hs2
  · exact hs.frame

theorem State.Inv.reduceRun {c : Command} {op : Nat} {x y : Side} {n : Nat} (h : s.Inv) : (c.reduceRun s op x y n).Keeps :=
  h.reduceAll.ran h.reduceFree

theorem State.Inv.runCpyrd {c : Command} (h : s.Inv) : (c.runCpyrd s).Keeps := by
  unfold Command.runCpyrd
  split
  · exact h
  · split
    · exact h
    · exact h.reduceRun

theorem State.Inv.cvWrite {c : Command} {a : CvArgs} {qs : List Quantised} (h : s.Inv) : (c.cvWrite s a qs).Keeps := by
  unfold Command.cvWrite
  dsimp only
  split
  · exact h.writeRest
  · split
    · exact Eng.keeps_fail
    · exact h.writeRest.andThen (fun _ hs => Eng.keeps_ok (hs.foldl (fun _ _ hs => hs.writeScratch)))

theorem State.Inv.cvFree {c : Command} {a : CvArgs} (h : s.Inv) : (c.cvFree s a).Inv := h.putFree

theorem State.Inv.runCpycv {c : Command} (h : s.Inv) : (c.runCpycv s).Keeps := by
  unfold Command.runCpycv
  dsimp only
  split
  · exact h
  · split
    · exact trivial
    · exact h.cvFree
    · split
      · rename_i s1 hs1
        exact h.cvWrite _ hs1
      · exact h.cvFree
      · exact trivial

theorem State.Inv.leaveFree {c : Command} (h : s.Inv) : (c.leaveFree s).Inv := by
  unfold Command.leaveFree
  split
  · exact h
  · dsimp only
    split
    · exact h.copyFree
    · exact h.reduceFree
    · exact h.cvFree
    · exact h

theorem State.Inv.setCommand {c : Command} (h : s.Inv) : (s.setCommand c).Inv := h.frame

theorem State.Inv.modQueue {lid index : Nat} {q : Fin 8} {f : CmdQueue → CmdQueue} (h : s.Inv) : (s.modQueue lid index q f).Inv := by
  unfold State.modQueue
  split
  · exact h.modBlock
  · split
    · exact h
    · exact h.mem (memSetNat_wf _ _ _ h.1)

theorem State.Inv.failQueue {c : Command} {cause : Nat} (h : s.Inv) : (s.failQueue c cause).Inv := by
  unfold State.failQueue
  split
  · exact h
  · exact h.modQueue.frame

theorem State.Inv.failCommand {c : Command} {cause : Nat} (h : s.Inv) : (s.failCommand c cause).Inv := h.setCommand.failQueue

theorem State.Inv.stallCommand {c : Command} {f : WalkFault} {va : Nat} {acc : AccKind} (h : s.Inv) : (s.stallCommand c f va acc).Inv :=
  h.logWalk.setCommand.modTower

theorem State.Inv.logBad {c : Command} {runs : List (Nat × Nat)} {cause : Nat} (h : s.Inv) : (s.logBad c runs cause).Inv := by
  unfold State.logBad
  split
  · exact h
  · split
    · exact h.log
    · exact h

theorem State.Inv.settleRun {c : Command} {r : Ran} (h : s.Inv) (hr : r.Keeps) : (s.settleRun c r).Inv := by
  cases r with
  | done s1 sat => exact State.Inv.setCommand hr
  | fail cause s1 => exact (State.Inv.logBad hr).failCommand
  | stall f va acc => exact h.stallCommand

theorem State.Inv.increment {c : Command} {loc : Loc} (h : s.Inv) : (c.increment s loc).Inv := by
  unfold Command.increment
  refine State.Inv.towerWrite ?_
  refine State.Inv.peersFirst ?_
  split
  · exact h.flushPosted
  · exact h

theorem State.Inv.update {c : Command} (h : s.Inv) : (c.update s).Keeps := by
  unfold Command.update
  dsimp only
  split
  · exact Eng.keeps_ok h
  · split
    · exact Eng.keeps_fail
    · split
      · exact Eng.keeps_stall
      · split
        · exact Eng.keeps_ok h.increment
        · exact Eng.keeps_fail

theorem State.Inv.retireCommand {c : Command} (h : s.Inv) : (s.retireCommand c).Inv := by
  unfold State.retireCommand
  split
  · exact h.frame.modQueue
  · exact h.frame

/-! ### Commands and collective programs (R253, R257, R259, R266 to R270) -/

theorem State.Inv.acquired {c : Command} {a : Nat} (h : s.Inv) : (c.acquired s a).Inv := by
  unfold Command.acquired
  split
  · exact h.homeRead.towerAcquire
  · exact h

theorem State.Inv.modCounter {c : Command} {a : Nat} {f : Nat → Nat} (h : s.Inv) : (c.modCounter s a f).Keeps := by
  unfold Command.modCounter
  split
  · exact Eng.keeps_fail
  · split
    · exact Eng.keeps_fail
    · refine Eng.keeps_andThen (fun _ => ?_)
      split
      · exact Eng.keeps_fail
      · exact Eng.keeps_ok h.flushPosted.towerUpdate

theorem State.Inv.markOwn {c : Command} {k : Coll} {skip : Bool} {l : List Nat} (h : s.Inv) : (c.markOwn k skip l s).1.Inv := by
  induction l generalizing s with
  | nil => exact h
  | cons i r ih =>
    rw [Command.markOwn]
    split
    · rename_i s1 hs1
      exact ih (h.modCounter _ hs1)
    · exact ih h
    · split
      · exact ih h
      · exact h

theorem State.Inv.abort {c : Command} {skip : Bool} (h : s.Inv) : (c.abort skip s).1.Inv := by
  unfold Command.abort
  split
  · exact h
  · split
    · exact h
    · exact h.markOwn

theorem State.Inv.failColl {c : Command} {cause : Nat} {skip : Bool} (h : s.Inv) : (s.failColl c cause skip).Inv := by
  unfold State.failColl
  split
  · rename_i hs
    exact (h.abort.of_fst_eq hs).failCommand
  · rename_i hs
    exact (h.abort.of_fst_eq hs).stallCommand

theorem State.Inv.startColl {c : Command} (h : s.Inv) : (s.startColl c).Inv := by
  unfold State.startColl
  split
  · exact h.logBad.failColl
  · exact h.stallCommand
  · split
    · exact h.failColl
    · exact h.setCommand

theorem State.Inv.runCommand {c : Command} (h : s.Inv) : (s.runCommand c).Inv := by
  unfold State.runCommand
  split
  · exact h.settleRun h.runCpy
  · exact h.settleRun h.runCpyrd
  · exact h.settleRun h.runCpycv
  · exact h.startColl

theorem State.Inv.reserve {c : Command} (h : s.Inv) : (c.reserve s).Inv := by
  unfold Command.reserve
  split
  · exact h.frame
  · exact h

theorem State.Inv.tryCommandStart {cmd : Nat} (h : s.Inv) : Kept (tryCommandStart cmd s) := by
  unfold Machine.tryCommandStart
  split
  · exact kept_none
  · split
    · exact kept_none
    · split
      · exact kept_some h.failColl
      · exact kept_none
      · split
        · exact kept_some h.setCommand
        · exact kept_some h.setCommand.reserve.runCommand

theorem State.Inv.stepFree {c : Command} (h : s.Inv) : (c.stepFree s).Inv := by
  unfold Command.stepFree
  split
  · exact h
  · dsimp only
    split
    · exact h.copyFree
    · exact h.copyFree
    · exact h.reduceFree
    · exact h.reduceFree
    · exact h

theorem State.Inv.logObject {c : Command} (h : s.Inv) : (s.logObject c).Inv := by
  unfold State.logObject
  dsimp only
  split
  · exact h
  · split
    · exact h
    · split
      · exact elim_inv h (fun _ => h.log)
      · exact h

theorem State.Inv.tryCommandComplete {cmd : Nat} (h : s.Inv) : Kept (tryCommandComplete cmd s) := by
  have stopped (c : Command) : (if c.failure.isSome then s else c.stepFree (c.leaveFree s)).Inv :=
    ite_inv h h.leaveFree.stepFree
  unfold Machine.tryCommandComplete
  split
  · exact kept_none
  · split
    · extract_lets c
      split
      · exact kept_none
      · split
        · exact kept_some h.retireCommand
        · split
          · rename_i hs
            exact kept_some ((stopped c).abort.of_fst_eq hs).retireCommand
          · rename_i hs
            exact kept_some ((stopped c).abort.of_fst_eq hs).stallCommand
    · split
      · exact kept_none
      · split
        · rename_i s1 hs1
          exact kept_some (h.update _ hs1).retireCommand
        · exact kept_some h.logObject.setCommand.failQueue.retireCommand
        · exact kept_some h.stallCommand

theorem State.Inv.collStep {sop : Nat} {body : Command → Coll → Word → State → Stepped} {cmd : Nat} (h : s.Inv)
    (hbody : ∀ c k w s, s.Inv → (body c k w s).Keeps) : Kept (collStep sop body cmd s) := by
  unfold Machine.collStep
  split
  · exact kept_none
  · rename_i c _
    split
    · exact kept_none
    · rename_i k _
      have hb := hbody c k k.step s h
      split
      · exact kept_none
      · split
        · exact kept_none
        · rename_i s1 k1 hs1
          rw [hs1] at hb
          refine kept_some ?_
          split
          · exact State.Inv.failColl hb
          · exact State.Inv.setCommand hb
        · rename_i x s1 hs1
          rw [hs1] at hb
          exact kept_some (State.Inv.logBad hb).failColl
        · exact kept_some h.stallCommand

theorem State.Inv.signal {c : Command} {k : Coll} {t : Nat} (h : s.Inv) : (c.signal k t s).Keeps :=
  Eng.Keeps.thenStep h.modCounter h (fun _ hs1 => hs1)

theorem State.Inv.receive {c : Command} {k : Coll} {w : Word} {xfer : State → Side → Side → Nat → Ran} {send : Bool} (h : s.Inv)
    (hxfer : ∀ x, x.Inv → ∀ y, ∀ z, ∀ u, (xfer x y z u).Keeps) : (c.receive k w s xfer send).Keeps := by
  unfold Command.receive
  refine Eng.keeps_thenStep h (fun _ => ?_)
  split
  · exact h
  · split
    · exact trivial
    · split
      · exact h
      · refine (hxfer _ h.acquired _ _ _).thenStep (fun _ hs1 => ?_)
        refine Eng.Keeps.thenStep hs1.modCounter hs1 (fun _ hs2 => ?_)
        split
        · exact hs2.signal
        · exact hs2

theorem State.Inv.stepCopy {c : Command} {x y : Side} {n : Nat} (h : s.Inv) : (c.stepCopy s x y n).Keeps := by
  unfold Command.stepCopy
  split
  · exact h
  · split
    · exact h
    · exact h.copyRun

theorem State.Inv.stepReduce {c : Command} {k : Coll} {x y : Side} {n : Nat} (h : s.Inv) : (c.stepReduce k s x y n).Keeps := by
  unfold Command.stepReduce
  dsimp only
  split
  · exact h
  · split
    · exact h
    · split
      · exact h
      · exact h.reduceRun

theorem State.Inv.tryCollSend {cmd : Nat} (h : s.Inv) : Kept (tryCollSend cmd s) := h.collStep (fun _ _ _ _ hs => hs.signal)

theorem State.Inv.tryCollRecv {cmd : Nat} (h : s.Inv) : Kept (tryCollRecv cmd s) :=
  h.collStep (fun _ _ _ _ hs => hs.receive (fun _ hs _ _ _ => hs.stepCopy))

theorem State.Inv.tryCollRr {cmd : Nat} (h : s.Inv) : Kept (tryCollRr cmd s) :=
  h.collStep (fun _ _ _ _ hs => hs.receive (fun _ hs _ _ _ => hs.stepReduce))

theorem State.Inv.tryCollRrs {cmd : Nat} (h : s.Inv) : Kept (tryCollRrs cmd s) :=
  h.collStep (fun _ _ _ _ hs => hs.receive (fun _ hs _ _ _ => hs.stepReduce))

theorem State.Inv.tryCollCopy {cmd : Nat} (h : s.Inv) : Kept (tryCollCopy cmd s) :=
  h.collStep (fun _ _ _ _ hs => hs.stepCopy.thenStep (fun _ hs1 => hs1))

theorem State.Inv.tryCollWait {cmd : Nat} (h : s.Inv) : Kept (tryCollWait cmd s) := by
  unfold Machine.tryCollWait
  refine h.collStep (fun _ k w s hs => ?_)
  refine Eng.keeps_thenStep hs (fun _ => ?_)
  split
  · exact hs
  · split
    · exact hs.acquired
    · exact trivial

theorem State.Inv.tryCollLoop {cmd : Nat} (h : s.Inv) : Kept (tryCollLoop cmd s) := by
  unfold Machine.tryCollLoop
  refine h.collStep (fun _ k w s hs => ?_)
  dsimp only
  split <;> exact hs

theorem State.Inv.tryCollNext {cmd : Nat} (h : s.Inv) : Kept (tryCollNext cmd s) := by
  unfold Machine.tryCollNext
  refine h.collStep (fun x k x s hs => ?_)
  split
  · exact hs
  · split <;> exact hs

theorem State.Inv.clearOwn {c : Command} {k : Coll} {l : List Nat} (h : s.Inv) : (c.clearOwn k l s).Keeps := by
  induction l generalizing s with
  | nil => exact Eng.keeps_ok h
  | cons i r ih => exact h.modCounter.andThen (fun _ ht => ih ht)

theorem State.Inv.tryCollEnd {cmd : Nat} (h : s.Inv) : Kept (tryCollEnd cmd s) := by
  unfold Machine.tryCollEnd
  refine h.collStep (fun _ k x s hs => ?_)
  refine Eng.keeps_thenStep hs (fun _ => ?_)
  split
  · exact Eng.Keeps.thenStep (hs.foldl (fun _ _ hs => hs.acquired)).clearOwn hs (fun _ hs1 => hs1)
  · exact trivial

theorem State.Inv.entered {c : Command} {k : Coll} (h : s.Inv) : (c.entered k s).Inv := by
  unfold Command.entered
  split
  · exact h
  · exact h.acquired

theorem State.Inv.engineReadTurn {id : Nat} {x : Side} {n : Nat} (h : s.Inv) : (s.engineReadTurn id x n).Inv := by
  unfold State.engineReadTurn
  split
  · exact h
  · split
    · exact h
    · dsimp only
      split
      · exact (elim_inv h (fun _ => h.entered)).reserve.setCommand
      · exact h

theorem State.Inv.copyEarly {c : Command} {x y : Side} {len e off n : Nat} (h : s.Inv) : Kept (c.copyEarly s x y len e off n) := by
  unfold Command.copyEarly
  split
  · exact kept_none
  · split
    · split
      · rename_i s1 hs1
        exact kept_some (h.frame.writeSide _ hs1).setCommand
      · exact kept_none
    · exact kept_none

theorem State.Inv.reduceEarly {c : Command} {op : Nat} {x y : Side} {len i : Nat} (h : s.Inv) : Kept (c.reduceEarly s op x y len i) := by
  unfold Command.reduceEarly
  split
  · exact kept_none
  · split
    · rename_i s1 hs1
      exact kept_some (h.reduceOne _ hs1).setCommand
    · exact kept_none

theorem State.Inv.cvEarly {c : Command} {part off n : Nat} (h : s.Inv) : Kept (c.cvEarly s part off n) := by
  unfold Command.cvEarly
  extract_lets a
  split
  · exact kept_none
  · split
    · split
      extract_lets bs e
      have he : e.Keeps := by
        unfold e
        split
        · exact h.writeVirt
        · split
          · exact Eng.keeps_fail
          · split
            · exact Eng.keeps_ok h.writeScratch
            · exact Eng.keeps_ok h.storeDs
      clear_value e
      cases e with
      | ok s1 => exact kept_some (he s1 rfl).setCommand
      | fail x | stall f va acc => exact kept_none
    · exact kept_none

theorem State.Inv.early {c : Command} {part off n : Nat} (h : s.Inv) : Kept (c.early s part off n) := by
  unfold Command.early
  dsimp only
  split
  · split
    · exact h.copyEarly
    · exact kept_none
  · exact h.reduceEarly
  · exact h.cvEarly
  · exact kept_none
  · split
    · exact kept_none
    · split
      · exact h.entered.copyEarly
      · split
        · exact kept_none
        · exact h.entered.reduceEarly

theorem State.Inv.engineWriteTurn {id part off n : Nat} (h : s.Inv) : (s.engineWriteTurn id part off n).Inv :=
  Kept.getD (kept_bind (fun _ => h.reserve.early)) h

/-! ### The intake engine (R275 to R283) -/

theorem State.Inv.setMsg {t hd : Nat} {m : Msg} (h : s.Inv) : (s.setMsg t hd m).Inv := h.modStream
theorem State.Inv.pushOut {t hd : Nat} {e : List Word} (h : s.Inv) : (s.pushOut t hd e).Inv := h.modStream

theorem State.Inv.stallStream {t : Nat} {x : Stream} {st : IntakeStage} {f : WalkFault} {va : Nat} {k : AccKind} {cause off : Nat}
    (h : s.Inv) : (s.stallStream t x st f va k cause off).Inv :=
  h.logWalk.modStream.modTower

theorem State.Inv.freeStages {t hd : Nat} (h : s.Inv) : (s.freeStages t hd).Inv := h.modTower
theorem State.Inv.freeOffset {lim : Nat} (h : s.Inv) : (freeOffset s lim).2.Inv := h.frame

theorem State.Inv.faultMsg {t hd : Nat} {m : Msg} {cause : Nat} {off : Option Nat} (h : s.Inv) : (s.faultMsg t hd m cause off).Inv := by
  unfold State.faultMsg
  split
  · exact h.setMsg
  · exact (h.freeOffset (lim := m.limit cause)).setMsg

theorem State.Inv.readFailed {t : Nat} {x : Stream} {m : Msg} {cause : Nat} {r : RunFail} (h : s.Inv) :
    (s.readFailed t x m cause r).Inv := by
  unfold State.readFailed
  dsimp only
  split
  · refine State.Inv.stallStream ?_
    split
    · exact h
    · exact h.freeOffset
  · exact h.faultMsg
  · exact h.log.faultMsg

theorem State.Inv.beginMsg {t hd : Nat} {m : Msg} (h : s.Inv) : (s.beginMsg t hd m).Inv := h.modStream

theorem State.Inv.tryIntakeMessageStart {tower stream : Nat} (h : s.Inv) : Kept (tryIntakeMessageStart tower stream s) := by
  unfold Machine.tryIntakeMessageStart
  split
  · exact kept_none
  · split
    · split
      · exact kept_none
      · split
        · exact kept_some h.beginMsg
        · split
          · exact kept_some h.beginMsg
          · exact kept_some h.stallStream
          · exact kept_some h.beginMsg.readFailed
    · exact kept_none

theorem State.Inv.writeText {x : Stream} {va : Nat} {bs : List Byte} (h : s.Inv) : OkKept (x.writeText s va bs) := by
  unfold Stream.writeText
  split
  · exact okKept_ok h
  · split
    · exact okKept_error
    · exact h.writeRun

theorem State.Inv.writeSome {x : Stream} {va : Nat} {bs : List Byte} (h : s.Inv) : (x.writeSome s va bs).2.Inv := by
  have runs (l : List (Nat × Nat)) (f : Nat × State × Bool → Nat × Nat → Nat × State × Bool)
      (hf : ∀ p a, p.2.1.Inv → (f p a).2.1.Inv) : ∀ p, p.2.1.Inv → (l.foldl f p).2.1.Inv := by
    induction l with
    | nil => exact fun _ hp => hp
    | cons a l ih => exact fun p hp => ih _ (hf p a hp)
  refine runs _ _ (fun _ _ hp => ?_) _ h
  split
  · exact hp
  · split
    · rename_i s1 hs1
      exact hp.writeText _ hs1
    · exact hp

theorem State.Inv.cutText {t : Nat} {x : Stream} {m : Msg} {new : List Byte} {cause : Nat} {off : Option Nat} (h : s.Inv) :
    (s.cutText t x m new cause off).Inv :=
  h.frame.writeSome.faultMsg

theorem State.Inv.commitDecoded {t : Nat} {x : Stream} {m : Msg} {d : Decoded} (h : s.Inv) : (s.commitDecoded t x m d).Inv := by
  unfold State.commitDecoded
  dsimp only
  split
  · exact h.cutText
  · split
    · exact h.cutText
    · split
      · exact h.cutText
      · split
        · rename_i s1 hs1
          exact (h.writeText _ hs1).setMsg
        · exact h.stallStream
        · exact h.cutText
        · exact h.cutText

theorem State.Inv.tryChunkDecodeComplete {tower stream : Nat} (h : s.Inv) : Kept (tryChunkDecodeComplete tower stream s) := by
  unfold Machine.tryChunkDecodeComplete
  split
  · exact kept_none
  · split
    · exact kept_none
    · split
      · exact kept_some h.commitDecoded
      · exact kept_some h.readFailed
      · exact kept_some h.log.commitDecoded
      · exact kept_some h.commitDecoded

theorem State.Inv.deliverTokens {t : Nat} {x : Stream} {m : Msg} (h : s.Inv) : (s.deliverTokens t x m).Inv := h.pushOut.setMsg

theorem State.Inv.tryIntakePieceTokenised {tower stream : Nat} (h : s.Inv) : Kept (tryIntakePieceTokenised tower stream s) := by
  unfold Machine.tryIntakePieceTokenised
  split
  · exact kept_none
  · split
    · exact kept_none
    · split
      · split
        · exact kept_none
        · exact kept_some h.deliverTokens
      · split
        · exact kept_none
        · split
          · split
            · exact kept_none
            · exact kept_some h.readFailed
          · dsimp only
            split
            · exact kept_none
            · exact kept_some h.frame.deliverTokens

theorem State.Inv.writeStatus {x : Stream} {m : Msg} {v : Nat} (h : s.Inv) : OkKept (x.writeStatus s m v) := h.writeRun

theorem State.Inv.tryIntakeMessageEnd {tower stream : Nat} (h : s.Inv) : Kept (tryIntakeMessageEnd tower stream s) := by
  unfold Machine.tryIntakeMessageEnd
  split
  · exact kept_none
  · split
    · exact kept_none
    · split
      · rename_i s1 hs1
        exact kept_some (h.writeStatus _ hs1).modStream
      · exact kept_some h.stallStream
      · exact kept_some h.faultMsg

theorem State.Inv.tryMessageQuarantine {tower stream : Nat} (h : s.Inv) : Kept (tryMessageQuarantine tower stream s) := by
  unfold Machine.tryMessageQuarantine
  split
  · exact kept_none
  · split
    · exact kept_none
    · split
      · exact kept_none
      · split
        · exact kept_some h.freeStages.modStream
        · split
          · rename_i s1 hs1
            exact kept_some (h.writeStatus _ hs1).freeStages.modStream
          · exact kept_some h.stallStream
          · exact kept_some h.freeStages.modStream

/-! ### Fault records and held translations (R346 to R353) -/

theorem State.Inv.repeatWork {c : Ctx} {x : VWork} (h : s.Inv) : (c.repeatWork s x).Keeps := by
  unfold Ctx.repeatWork
  split
  · exact h.goLoad
  · exact h.goStore
  · exact h.goAtomic
  · exact h.goRpld
  · exact h.goRpst
  · exact h.goRpstAdd
  · exact h.goCommit
  · exact h.goMonw
  · exact h.goDrain
  · exact h.goTossRecord
  · exact h.goTossRanges
  · exact h.goBind

theorem State.Inv.stateOf {x : Out} (h : s.Inv) (hx : x.Keeps) : (stateOf s x).Inv := by
  cases x with
  | next t => exact hx t rfl
  | fault f => exact h
  | refused r => exact h

theorem State.Inv.forgetReq {c gi id : Nat} (h : s.Inv) : (s.forgetReq c gi id).Inv := by
  unfold State.forgetReq
  split
  · exact h
  · split
    · exact h
    · exact h.setGang.modTower

theorem State.Inv.redo {c gi id : Nat} (h : s.Inv) : (s.redo c gi id).Inv := by
  unfold State.redo
  split
  · exact h
  · split
    · exact h
    · split
      · exact h.setGang
      · exact (h.setGang.frame.stateOf (keeps_withCtx (fun _ => h.setGang.frame.repeatWork))).forgetReq
      · exact h

theorem State.Inv.wakeTeller {c : Nat} (h : s.Inv) : (s.wakeTeller c).Inv := h.modBlock

theorem State.Inv.retry {t : Nat} {x : Requester} (h : s.Inv) : (s.retry t x).Inv := by
  unfold State.retry
  split
  · exact h.redo
  · exact h.redo
  · exact h.frame
  · exact h.modStream
  · exact h.wakeTeller

theorem State.Inv.failWord {c gi id key : Nat} (h : s.Inv) : (s.failWord c gi id key).Inv := by
  unfold State.failWord
  split
  · exact h
  · split
    · exact h
    · split
      · exact h
      · split
        · split
          · exact h.redo
          · exact (h.setGang.frame.stateOf (keeps_withCtx (fun _ => Out.keeps_next h.setGang.frame.bindResult))).forgetReq
          · exact h.setGang.trapAt.forgetReq
        · exact h

theorem State.Inv.failStalled {id : Nat} (h : s.Inv) : (s.failStalled id).Inv := by
  unfold State.failStalled
  split
  · exact h
  · split
    · exact h.setCommand.failQueue.retireCommand
    · split
      · exact h.failColl
      · exact h.stepFree.failColl
      · split
        · exact h.failColl
        · exact h.leaveFree.failCommand

theorem State.Inv.failStream {t hd : Nat} {st : IntakeStage} (h : s.Inv) : (s.failStream t hd st).Inv := by
  unfold State.failStream
  split
  · exact h
  · split
    · exact h
    · split
      · exact h.modStream.setMsg
      · split
        · exact h.modStream
        · exact h.modStream.beginMsg

theorem State.Inv.failTeller {c : Nat} (h : s.Inv) : (s.failTeller c).Inv := by
  unfold State.failTeller
  split
  · exact h
  · split
    · exact h
    · split
      · exact h.wakeTeller
      · exact h.wakeTeller.discardEntry.dropEntry

theorem State.Inv.failReq {t key : Nat} {x : Requester} (h : s.Inv) : (s.failReq t key x).Inv := by
  unfold State.failReq
  split
  · exact h.failWord
  · exact h.failWord
  · exact h.failStalled
  · exact h.failStream
  · exact h.failTeller

theorem State.Inv.freeRecord {t e : Nat} {act : State → Nat → Requester → State} (h : s.Inv)
    (hact : ∀ x, x.Inv → ∀ y, ∀ z, (act x y z).Inv) : (freeRecord s t e act).Inv := by
  unfold Machine.freeRecord
  split
  · exact h
  · exact h.modTower.foldl (fun _ _ hs => hact _ hs _ _)

theorem State.Inv.replayTower {t : Nat} (h : s.Inv) : (s.replayTower t).Inv :=
  (h.units (by simp) (List.length_modify _ _ _)).foldl (fun _ _ hs => hs.redo)

theorem State.Inv.invalidate {scope : Option (BitVec 16 × Option Nat)} (h : s.Inv) : (s.invalidate scope).Inv := by
  unfold State.invalidate
  split
  · exact h
  · exact h.frame

theorem State.Inv.dropHeld {scope : Option (BitVec 16 × Option Nat)} (h : s.Inv) : (s.dropHeld scope).Inv := h.units (by simp) (by simp)

theorem State.Inv.tryInvalidationComplete (h : s.Inv) : Kept (tryInvalidationComplete s) := by
  unfold Machine.tryInvalidationComplete
  refine kept_bind (fun _ => ?_)
  split
  · exact kept_none
  · exact kept_some h.dropHeld.frame

/-! ### The host-to-device ring (R358, R360) -/

theorem State.Inv.respond {seq : Word} {status : Nat} {rest : List Nat} (h : s.Inv) : (s.respond seq status rest).Inv := h.post

theorem State.Inv.completeEntry {seq : Word} {status : Nat} {rest : List Nat} (h : s.Inv) : (s.completeEntry seq status rest).Inv :=
  h.frame.respond

theorem State.Inv.skim {n : Nat} (h : s.Inv) : (State.skim n s).Inv := by
  induction n generalizing s with
  | zero => exact h
  | succ n ih =>
    rw [State.skim]
    split
    · exact h
    · split
      · exact h.frame.respond
      · split
        · exact ih h.completeEntry
        · exact h

theorem State.Inv.skimRing (h : s.Inv) : s.skimRing.Inv := h.skim

theorem State.Inv.hostMessage {kind : Nat} {effect : List Nat → State → State × Nat × List Nat} (h : s.Inv)
    (heffect : ∀ x, ∀ y, y.Inv → (effect x y).1.Inv) : Kept (hostMessage kind effect s) := by
  unfold Machine.hostMessage
  split
  · exact kept_none
  · split
    · exact kept_none
    · exact kept_some (heffect _ _ h).completeEntry.skimRing

/-! ### Bring-up, a module reset and the end of every launch (R323, R359, R370 to R379) -/

theorem State.Inv.killLaunch {lid : Nat} (h : s.Inv) : (s.killLaunch lid).Inv := by
  unfold State.killLaunch
  split
  rename_i s1 ns hs1
  split
  rename_i s2 ms hs2
  have h1 : s1.Inv := by
    refine State.Inv.of_fst_eq (h.foldlFst (fun _ _ hs => ?_)) hs1
    split
    · exact hs
    · split
      · exact hs.killBlock
      · exact hs
  have h2 : s2.Inv := h1.dropSaved.of_fst_eq hs2
  extract_lets s3
  have h3 : s3.Inv := h2.deliver
  split
  · exact h3
  · refine State.Inv.checkLaunch ?_
    split
    · exact h3
    · exact h3.setLaunch

theorem State.Inv.killAll (h : s.Inv) : s.killAll.Inv := h.foldl (fun _ _ hs => hs.killLaunch)

theorem State.Inv.resetModule (h : s.Inv) : s.resetModule.Inv := by
  obtain ⟨hmem, hhost, hpeer, hcores, htowers, -⟩ := h
  exact ⟨hmem, hhost, hpeer, by simpa [State.resetModule] using hcores, by simpa [State.resetModule] using htowers,
    List.length_replicate⟩

theorem State.Inv.applyKept {t : Nat} (h : s.Inv) : (s.applyKept t).Inv := h.modTower.units (by simp) rfl

theorem State.Inv.fullService (h : s.Inv) : s.fullService.Inv := by
  unfold State.fullService
  split
  · exact h.frame
  · exact h

theorem State.Inv.setFabric (h : s.Inv) : s.setFabric.Inv := h.frame

theorem State.Inv.passStage {t : Nat} (h : s.Inv) : (s.passStage t).Inv := by
  unfold State.passStage
  dsimp only
  split
  · exact h.modTower
  · exact h.applyKept.modTower
  · split
    · exact h.modTower
    · exact h.modTower.frame.pump.skimRing
  · exact h.modTower
  · exact h.modTower.setFabric.fullService
  · exact h.modTower

theorem State.Inv.failStage {t : Nat} {detail : BitVec 16} (h : s.Inv) : (s.failStage t detail).Inv := by
  unfold State.failStage
  dsimp only
  split <;> exact h.modTower

theorem State.Inv.checkLost (h : s.Inv) : s.checkLost.Inv := by
  unfold State.checkLost
  split
  · exact h.frame
  · exact h

theorem State.Inv.tryBringupStageComplete {tower : Nat} {passed : Bool} {detail : BitVec 16} (h : s.Inv) :
    Kept (tryBringupStageComplete tower passed detail s) := by
  unfold Machine.tryBringupStageComplete
  dsimp only
  split
  · exact kept_none
  · split
    · exact kept_none
    · split
      · split
        · exact kept_none
        · exact kept_some h.passStage.checkLost
      · split
        · exact kept_none
        · exact kept_some h.failStage.checkLost

theorem State.Inv.tryServiceClockRise (h : s.Inv) : Kept (tryServiceClockRise s) := by
  unfold Machine.tryServiceClockRise
  split
  · exact kept_none
  · split
    · exact kept_some h.modTower.frame
    · exact kept_none

theorem State.Inv.tryLaneRepair {tower peer : Nat} (h : s.Inv) : Kept (tryLaneRepair tower peer s) := by
  unfold Machine.tryLaneRepair
  split
  · refine kept_some ?_
    refine State.Inv.log ?_
    split
    · exact h.frame.modTower
    · exact h.frame
  · exact kept_none

theorem State.Inv.tryLinkDown {tower peer : Nat} (h : s.Inv) : Kept (tryLinkDown tower peer s) := by
  unfold Machine.tryLinkDown
  split
  · exact kept_some h.modTower.frame.killAll.log
  · exact kept_none

theorem State.Inv.tryDutyTick {power : BitVec 16} {tj : List Byte} (h : s.Inv) : Kept (tryDutyTick power tj s) := by
  unfold Machine.tryDutyTick
  split
  · exact kept_none
  · exact kept_some (h.units rfl (by simp))

theorem State.Inv.tryThermalTrip {tower : Nat} (h : s.Inv) : Kept (tryThermalTrip tower s) := by
  unfold Machine.tryThermalTrip
  split
  · exact kept_none
  · exact kept_some (h.frame.killAll.units rfl (by simp)).log

/-! ### Cross-lane words (R179 to R182) -/

theorem State.Inv.shuffleWord {w : Width} {d : Dst} {a : Src} {extra : List Src} {src : Ctx → Nat → Nat → Option Nat} (h : s.Inv) :
    (shuffleWord s w d a extra src).Keeps :=
  h.elemWord

theorem State.Inv.voteWord {srcs : List Src} {d : MaskNo} {p : Ctx → Bool} (h : s.Inv) : (voteWord s srcs d p).Keeps := h.gangWord
theorem State.Inv.sameWord {d : Dst} {v : Ctx → Word} (h : s.Inv) : (sameWord s d v).Keeps := h.gangWord

theorem State.Inv.reduceWord {w : Width} {d : Dst} {a : Src} {ident : Nat} {node : Nat → Nat → Nat} (h : s.Inv) :
    (reduceWord s w d a ident node).Keeps :=
  h.gangWord

theorem State.Inv.maskWord {d : MaskNo} {f : Gang → MaskBits} (h : s.Inv) : (maskWord s d f).Keeps := h.gangWord

theorem State.Inv.execQry {d : Dst} {sel : BitVec 8} (h : s.Inv) : (execQry d sel s).Keeps := by
  unfold Machine.execQry
  refine keeps_withCtx (fun _ => ?_)
  split
  · exact Out.keeps_next h.trap
  · split
    · exact Out.keeps_next h.trap
    · exact Out.keeps_next h.retire

/-! ### Window words (R68) -/

theorem State.Inv.windowWord {nb : Ctx → Int} (h : s.Inv) : (windowWord s nb).Keeps := h.gangWord

/-! ### The save area (R315 to R320) -/

theorem State.Inv.writeArea {a : Nat} {b : Block} {ret : Option Nat} (h : s.Inv) : (s.writeArea a b ret).Inv :=
  h.mem (foldl_cellSetList_wf _ _ (clearRegion_wf _ _ h.1))

/-! ### Dispatch, bind records, saves and resumes (R26 to R31, R313, R314, R324, R332, R333) -/

theorem State.Inv.logRun {x : RunFail} (h : s.Inv) : (s.logRun x).Inv := by
  unfold State.logRun
  split
  · exact h.log
  · exact h.logWalk
  · exact h

theorem State.Inv.submission {part : Fin 16} {prio : Fin 8} {asid : BitVec 16} {smode : Bool} {p : Partition} {e0 e1 : Nat} (h : s.Inv) :
    (s.submission part prio asid smode p e0 e1).1.Inv := by
  unfold State.submission
  split
  · exact h
  · split
    · exact h.logRun
    · exact h

theorem State.Inv.tryLaunchSubmission {part : Fin 16} {prio : Fin 8} {asid : BitVec 16} {smode : Bool} (h : s.Inv) :
    Kept (tryLaunchSubmission part prio asid smode s) := by
  unfold Machine.tryLaunchSubmission
  split
  · exact kept_none
  · dsimp only
    split
    · exact kept_none
    · split
      · exact kept_some h.submission.setPartition.frame.endLaunch
      · exact kept_some h.submission.setPartition.frame

theorem State.Inv.dispatchRead {l : Launch} {a n : Nat} (h : s.Inv) : ErrKept (s.dispatchRead l a n) := by
  unfold State.dispatchRead
  split
  · exact errKept_ok
  · exact errKept_error h.logRun

theorem State.Inv.boundWord {l : Launch} {i n : Nat} (h : s.Inv) : ErrKept (s.boundWord l i n) := by
  unfold State.boundWord
  split
  · exact errKept_ok
  · exact ErrKept.map h.dispatchRead

theorem State.Inv.tableWords {l : Launch} {n a : Nat} (h : s.Inv) : ErrKept (s.tableWords l n a) := by
  induction n generalizing a with
  | zero => exact errKept_ok
  | succ n ih =>
    rw [State.tableWords]
    split
    · rename_i e he
      exact errKept_error (h.dispatchRead _ he)
    · exact ih.map

theorem State.Inv.dequeueWords {l : Launch} (h : s.Inv) : ErrKept (s.dequeueWords l) := by
  unfold State.dequeueWords
  split
  · rename_i e he
    exact errKept_error (h.boundWord _ he)
  · split
    · rename_i e he
      exact errKept_error (h.boundWord _ he)
    · split
      · rename_i e he
        exact errKept_error (h.boundWord _ he)
      · exact ErrKept.map h.tableWords

theorem State.Inv.dequeue {l : Launch} (h : s.Inv) : (s.dequeue l).Inv := by
  unfold State.dequeue
  split
  · rename_i s1 hs1
    exact (h.dequeueWords _ hs1).endLaunch
  · extract_lets w3 grid s1
    split
    · exact h.frame.setLaunch.endLaunch
    · exact h.frame.setLaunch

theorem State.Inv.tryLaunchDequeue {lid : Nat} (h : s.Inv) : Kept (tryLaunchDequeue lid s) := by
  unfold Machine.tryLaunchDequeue
  split
  · exact kept_none
  · split
    · exact kept_none
    · split
      · exact kept_some h.dequeue
      · split
        · rename_i s1 hs1
          exact kept_some (h.dispatchRead _ hs1).endLaunch
        · split
          · exact kept_some h.dequeue
          · exact kept_none

theorem State.Inv.startAll {l : Launch} {cs : List Nat} (h : s.Inv) : (s.startAll l cs).Inv :=
  (h.foldl (fun _ _ hs => hs.setCore)).frame.setLaunch.settleTower

theorem State.Inv.tryEnsembleStart {core : Nat} (h : s.Inv) : Kept (tryEnsembleStart core s) := by
  unfold Machine.tryEnsembleStart
  dsimp only
  split
  · exact kept_none
  · split
    · exact kept_none
    · split
      · exact kept_some h.startAll
      · exact kept_none

theorem State.Inv.execBindStart {core : Nat} {b : BindFields} (h : s.Inv) : (execBindStart core b s).Keeps := by
  unfold Machine.execBindStart
  refine Out.keeps_next ?_
  split
  · split
    · exact h.setCore
    · exact h
  · exact h

theorem State.Inv.execBindIdle {core : Nat} (h : s.Inv) : (execBindIdle core s).Keeps := by
  unfold Machine.execBindIdle
  dsimp only
  split
  · exact Out.keeps_next h.setCore
  · exact Out.keeps_next h

theorem State.Inv.execBindKill {core : Nat} (h : s.Inv) : (execBindKill core s).Keeps := by
  unfold Machine.execBindKill
  dsimp only
  split
  · exact Out.keeps_next h
  · split
    · exact Out.keeps_next h.killBlock.deliver
    · exact Out.keeps_next h

theorem State.Inv.cutShort {c : Command} (h : s.Inv) : (s.cutShort c).Inv := by
  unfold State.cutShort
  split
  · exact h.leaveFree
  · exact h

theorem State.Inv.failScratch {cs : List Command} (h : s.Inv) : (s.failScratch cs).Inv :=
  h.foldl (fun _ _ hs => (hs.units rfl (by simp)).failCommand)

theorem State.Inv.tryBlockExit {core : Nat} (h : s.Inv) : Kept (tryBlockExit core s) := by
  unfold Machine.tryBlockExit
  dsimp only
  split
  · exact kept_none
  · split
    · refine kept_some ?_
      refine State.Inv.deliver ?_
      refine State.Inv.checkLaunch ?_
      split
      · exact (h.readLeaves.foldl (fun _ _ hs => hs.cutShort)).setCore.releaseBlock.failScratch
      · exact (h.readLeaves.foldl (fun _ _ hs => hs.cutShort)).setCore.releaseBlock.failScratch.setLaunch
    · exact kept_none

theorem State.Inv.leaveWords {core : Nat} {b : Block} (h : s.Inv) : (s.leaveWords core b).Inv := by
  unfold State.leaveWords
  refine h.foldl (fun s x hs => ?_)
  refine hs.foldl (fun _ _ hs => ?_)
  split
  · exact hs.maybeToss
  · exact hs

theorem State.Inv.requestSave {core : Nat} {b : Block} (h : s.Inv) : (s.requestSave core b).Inv := h.leaveWords.setCore.modTower

theorem State.Inv.noteRemap {core : Nat} {b : Block} (h : s.Inv) : (s.noteRemap core b).Inv := by
  unfold State.noteRemap
  split
  · exact h.setCore
  · exact h

theorem State.Inv.execBindSave {core : Nat} (h : s.Inv) : (execBindSave core s).Keeps := by
  unfold Machine.execBindSave
  refine Out.keeps_next ?_
  split
  · exact h
  · split
    · exact h.noteRemap.requestSave
    · exact h

theorem State.Inv.freeFor {core : Nat} {b : Block} (h : s.Inv) : (s.freeFor core b).Inv := by
  unfold State.freeFor
  split
  · exact h
  · exact h.units (by simp) rfl

theorem State.Inv.saveBlock {moved : Bool} {core : Nat} {b : Block} (h : s.Inv) : (s.saveBlock moved core b).Inv := by
  unfold State.saveBlock
  refine State.Inv.frame ?_
  split
  · exact h.frame.writeArea.setCore.modTower
  · exact h.frame.writeArea.setCore.modTower.freeFor

theorem State.Inv.saveOne {moved : Bool} {core : Nat} (h : s.Inv) : (s.saveOne moved core).Inv := by
  unfold State.saveOne
  split
  · exact h
  · split
    · exact h.saveBlock
    · exact h.killBlock.deliver

theorem State.Inv.tryContextSaveComplete {core : Nat} (h : s.Inv) : Kept (tryContextSaveComplete core s) := by
  unfold Machine.tryContextSaveComplete
  split
  · exact kept_none
  · dsimp only
    split
    · exact kept_some (h.frame.foldl (fun _ _ hs => hs.saveOne))
    · exact kept_none

theorem State.Inv.wakeRestored (h : s.Inv) : s.wakeRestored.Inv := h.wakeCores.deliver
theorem State.Inv.unsave {x : Saved} (h : s.Inv) : (s.unsave x).Inv := h.frame
theorem State.Inv.killSaved {core : Nat} {x : Saved} (h : s.Inv) : (s.killSaved core x).Inv := h.unsave.setCore.killBlock.deliver

theorem State.Inv.resumeBlock {core : Nat} {b : BindFields} {x : Saved} (h : s.Inv) : (s.resumeBlock core b x).Inv := by
  unfold State.resumeBlock
  dsimp only
  split
  · exact h.setCore.log.killSaved
  · split
    · exact h.setCore.killSaved
    · exact h.setCore.setCore.unsave.wakeRestored

theorem State.Inv.execBindResume {core : Nat} {b : BindFields} (h : s.Inv) : (execBindResume core b s).Keeps := by
  unfold Machine.execBindResume
  refine Out.keeps_next ?_
  split
  · split
    · exact h.resumeBlock
    · exact h
  · exact h

/-! ### Host messages, mailbox registers and the aperture (R325 to R328, R351, R356 to R360, R373 to R376) -/

theorem State.Inv.submitEffect {w : List Nat} (h : s.Inv) : (submitEffect w s).1.Inv := by
  unfold Machine.submitEffect
  dsimp only
  split
  · exact h
  · split
    · exact h
    · exact h.writeLoc.setPartition

theorem State.Inv.cancelUnread {fate : Nat} (h : s.Inv) : Kept (s.cancelUnread fate) :=
  kept_findSome? (fun _ => kept_bind (fun _ => kept_map (fun _ => h.setPartition)))

theorem State.Inv.abortEffect {w : List Nat} (h : s.Inv) : (abortEffect w s).1.Inv := by
  unfold Machine.abortEffect
  split
  · split
    · exact h.endLaunch
    · exact h.killLaunch
  · split
    · rename_i s1 hs1
      split at hs1
      · exact nomatch hs1
      · exact h.cancelUnread _ hs1
    · exact h

theorem State.Inv.requestRetire {t : Nat} {c : Fin 8} (h : s.Inv) : (s.requestRetire t c).1.Inv := by
  unfold State.requestRetire
  dsimp only
  split
  · exact h
  · exact h.modTower

theorem State.Inv.retireEffect {w : List Nat} (h : s.Inv) : (retireEffect w s).1.Inv := by
  unfold Machine.retireEffect
  dsimp only
  split
  · exact h
  · exact h.requestRetire

theorem State.Inv.writeElvmap {c : Nat} {spare : Bool} {grp : BitVec 6} (h : s.Inv) : (s.writeElvmap c spare grp).1.Inv := by
  unfold State.writeElvmap
  dsimp only
  split
  · exact h.setCore
  · exact h

theorem State.Inv.remapEffect {w : List Nat} (h : s.Inv) : (remapEffect w s).1.Inv := by
  unfold Machine.remapEffect
  dsimp only
  split
  · exact h
  · exact h.writeElvmap

theorem State.Inv.assayEffect {w : List Nat} (h : s.Inv) : (assayEffect w s).1.Inv := by
  unfold Machine.assayEffect
  dsimp only
  split <;> exact h

theorem State.Inv.destroyEffect {p : Nat} (h : s.Inv) : (destroyEffect p s).1.Inv := by
  unfold Machine.destroyEffect
  split
  · exact h
  · split
    · exact h
    · exact h.parts (by simp)

theorem State.Inv.partEffect {escBase : Nat} {bases w : List Nat} (h : s.Inv) : (partEffect escBase bases w s).1.Inv := by
  unfold Machine.partEffect
  dsimp only
  split
  · exact h.destroyEffect
  · split
    · exact h
    · split
      · exact h
      · split <;> exact h.setPartition

theorem State.Inv.removeEffect {p : Nat} {cores : List Nat} {escBase : Nat} {w : List Nat} (h : s.Inv) :
    (removeEffect p cores escBase w s).1.Inv := by
  unfold Machine.removeEffect
  split
  · exact h
  · exact h.setPartition

theorem State.Inv.reconfigure {p : Nat} {cores : List Nat} {effect : List Nat → State → State × Nat × List Nat} (h : s.Inv)
    (heffect : ∀ x, ∀ y, y.Inv → (effect x y).1.Inv) : Kept (s.reconfigure p cores effect) := by
  unfold State.reconfigure
  dsimp only
  split
  · exact kept_none
  · split
    · exact kept_none
    · split
      · exact kept_some h.setPartition
      · exact h.hostMessage (fun _ _ ha => heffect _ _ ha)

theorem State.Inv.tryPartitionConfig {escBase : Nat} {queueBases : List Nat} (h : s.Inv) :
    Kept (tryPartitionConfig escBase queueBases s) := by
  unfold Machine.tryPartitionConfig
  split
  · exact kept_none
  · dsimp only
    split
    · split
      · exact kept_none
      · exact h.hostMessage (fun _ _ hs => hs.removeEffect)
    · split
      · exact kept_none
      · split
        · exact h.reconfigure (fun _ _ hs => hs.partEffect)
        · exact h.hostMessage (fun _ _ hs => hs.partEffect)

theorem State.Inv.attestEffect {w : List Nat} (h : s.Inv) : (attestEffect w s).1.Inv := by
  unfold Machine.attestEffect
  extract_lets i
  split
  · exact h
  · split
    · exact h
    · exact h.hostMem (cellsPut_wf _ _ h.2.1)

theorem State.Inv.firmwareEffect {w : List Nat} (h : s.Inv) : (firmwareEffect w s).1.Inv := by
  unfold Machine.firmwareEffect
  dsimp only
  split
  · exact h.frame
  · exact h

theorem State.Inv.tryNewBringup (h : s.Inv) : Kept (tryNewBringup s) := by
  unfold Machine.tryNewBringup
  split
  · exact kept_none
  · split
    · exact kept_none
    · exact kept_some (h.units rfl (by simp)).resetModule

theorem State.Inv.rewrite {q : Nat} {l : List (List Word)} (h : s.Inv) : (s.rewrite q l).Inv := by
  induction l generalizing s q with
  | nil => exact h
  | cons e r ih =>
    refine ih ?_
    split
    · exact h.putEntry
    · exact h

theorem State.Inv.execRegisterWrite {r : MgmtReg} {v : Word} (h : s.Inv) : (execRegisterWrite r v s).Keeps := by
  unfold Machine.execRegisterWrite
  refine Out.keeps_next ?_
  split
  · exact h.frame
  · exact h.modTower
  · exact h.modTower
  · exact h.modTower
  · exact h.frame
  · exact h.frame
  · exact h.frame
  · exact h.frame
  · exact h.frame
  · exact h.frame
  · exact h

theorem keeps_withRun {a n : Nat} {k : Out} (hk : k.Keeps) : (withRun s a n k).Keeps := by
  unfold Machine.withRun
  split
  · exact hk
  · exact Out.keeps_fault

theorem State.Inv.noteFailing {a n : Nat} (h : s.Inv) : (s.noteFailing a n).Inv := by
  unfold State.noteFailing
  split
  · exact h.log
  · exact h

theorem State.Inv.execHostApertureRead {off n : Nat} (h : s.Inv) : (execHostApertureRead off n s).Keeps := by
  unfold Machine.execHostApertureRead
  split
  · exact Out.keeps_next h
  · exact keeps_withRun (Out.keeps_next h.noteFailing.frame)

theorem State.Inv.execHostApertureWrite {off : Nat} {bytes : List Byte} (h : s.Inv) : (execHostApertureWrite off bytes s).Keeps := by
  unfold Machine.execHostApertureWrite
  split
  · exact Out.keeps_next h
  · exact keeps_withRun (Out.keeps_next h.writeLoc)

/-! ### Peers, containment, elevators and upsets (R126, R361 to R369) -/

theorem State.Inv.peerWrite {a : Nat} {bs : List (Option Byte)} (h : s.Inv) : (s.peerWrite a bs).Inv :=
  h.foldl (fun _ _ hs => hs.foldl (fun _ _ hs => hs.writeLoc))

theorem State.Inv.peerAtomic {op : AtomOp} {w : Width} {a : Nat} {v c : Word} (h : s.Inv) : (s.peerAtomic op w a v c).Inv := h.writeLoc

theorem State.Inv.execPeerRequest {r : PeerReq} (h : s.Inv) : (execPeerRequest r s).Keeps := by
  cases r with
  | read a n => exact keeps_withRun (Out.keeps_next h.noteFailing)
  | write a bs => exact keeps_withRun (Out.keeps_next h.peerWrite)
  | atomic op wide a v c =>
    exact ite_keeps (Out.keeps_next h) (keeps_withRun (Out.keeps_next (ite_inv h.noteFailing h.peerAtomic)))
  | message => exact Out.keeps_next h

theorem State.Inv.failPeerWord {c gi lane : Nat} (h : s.Inv) : Kept (s.failPeerWord c gi lane) :=
  kept_bind (fun _ => kept_bind (fun _ => kept_bind (fun _ => kept_map (fun _ => h.log.trapAt.leaveToss))))

theorem State.Inv.failPeerOp {c gi : Nat} {o : Op} (h : s.Inv) : Kept (s.failPeerOp c gi o) := by
  unfold State.failPeerOp
  refine kept_bind (fun _ => ?_)
  dsimp only
  split
  · exact kept_none
  · exact kept_some (h.maybePerform.foldl (fun _ _ hs => hs.unpost)).modGang.log.wakeGang

theorem State.Inv.failPeerToss {c gi id : Nat} (h : s.Inv) : Kept (s.failPeerToss c gi id) := by
  unfold State.failPeerToss
  refine kept_bind (fun _ => ?_)
  split
  · exact kept_none
  · split
    · exact kept_none
    · exact kept_bind (fun _ => Kept.map h.frame.serveEntry (fun _ hx => hx.log))

theorem State.Inv.failPeerEntry {c : Nat} {b : Block} {e : TellerEntry} (h : s.Inv) : Kept (s.failPeerEntry c b e) := by
  unfold State.failPeerEntry
  split
  · split
    · exact kept_none
    · refine kept_some ?_
      refine State.Inv.log ?_
      refine State.Inv.dropEntry ?_
      split
      · refine h.frame.foldl (fun _ _ hs => ?_)
        split
        · exact hs.towerWrite
        · exact hs
      · split
        · exact h.frame.performEntry
        · exact h.frame
  · exact kept_none

theorem State.Inv.failPeerTeller {c gi seq : Nat} (h : s.Inv) : Kept (s.failPeerTeller c gi seq) := by
  unfold State.failPeerTeller
  refine kept_bind (fun _ => ?_)
  split
  · exact kept_none
  · split
    · exact kept_bind (fun _ => h.performExited.failPeerEntry)
    · exact kept_none

theorem State.Inv.failPeerStore {c gi op : Nat} (h : s.Inv) : Kept (s.failPeerStore c gi op) := by
  unfold State.failPeerStore
  split
  · exact h.failPeerOp
  · exact Kept.or h.failPeerToss h.failPeerTeller

theorem State.Inv.failPeerObject {c : Command} (h : s.Inv) : Kept (s.failPeerObject c) := by
  unfold State.failPeerObject
  split
  · exact kept_none
  · exact kept_map (fun _ => h.log.setCommand.failQueue.retireCommand)

theorem State.Inv.failPeerCommand {id : Nat} (h : s.Inv) : Kept (s.failPeerCommand id) := by
  unfold State.failPeerCommand
  split
  · exact kept_none
  · split
    · exact kept_none
    · split
      · exact h.failPeerObject
      · split
        · exact kept_none
        · refine kept_map (fun _ => ?_)
          split
          · split
            · exact h.log.stepFree.failColl
            · exact h.log.failColl
          · exact h.log.leaveFree.failCommand

theorem State.Inv.failPeer {t : PeerTx} (h : s.Inv) : (failPeer t s).Keeps := by
  unfold Machine.failPeer
  refine h.happens ?_
  split
  · exact h.failPeerWord
  · exact h.failPeerStore
  · exact h.failPeerCommand

theorem State.Inv.execContainRetireRequest {tower : Nat} {v : Word} (h : s.Inv) : (execContainRetireRequest tower v s).Keeps := by
  unfold Machine.execContainRetireRequest
  split
  · exact Out.keeps_next h.requestRetire
  · exact Out.keeps_next h

theorem State.Inv.tryChannelRetirement {tower : Nat} (h : s.Inv) : Kept (tryChannelRetirement tower s) := by
  unfold Machine.tryChannelRetirement
  split
  · exact kept_some h.modTower
  · exact kept_none

theorem State.Inv.liftUp {c gi op k group beat : Nat} {vs : List Byte} (h : s.Inv) : Kept (s.liftUp c gi op k group beat vs) :=
  kept_bind (fun _ => kept_map (fun _ => h.performIn.modBlock.wakeGang))

theorem State.Inv.liftCopy {c cmd off n group beat : Nat} {vs : List Byte} (h : s.Inv) : Kept (s.liftCopy c cmd off n group beat vs) := by
  unfold State.liftCopy
  refine kept_bind (fun _ => ?_)
  dsimp only
  split
  · exact kept_some h.engineWriteTurn.modBlock
  · exact kept_none

theorem State.Inv.liftDown {c gi op k group beat : Nat} {vs : List Byte} (h : s.Inv) : Kept (s.liftDown c gi op k group beat vs) := by
  unfold State.liftDown
  refine kept_bind (fun _ => ?_)
  refine kept_bind (fun _ => ?_)
  split
  · exact kept_some h.setBlock.performIn.modBlock.wakeGang
  · exact kept_some h.setBlock.performIn.modBlock.wakeGang
  · exact kept_none

theorem State.Inv.liftStaged {c gi op group beat : Nat} {vs : List Byte} (h : s.Inv) : Kept (s.liftStaged c gi op group beat vs) :=
  kept_bind (fun _ => kept_map (fun _ => h.modBlock))

theorem State.Inv.liftDrain {c gi op group beat : Nat} {vs : List Byte} (h : s.Inv) : Kept (s.liftDrain c gi op group beat vs) := by
  unfold State.liftDrain
  refine kept_bind (fun _ => ?_)
  refine kept_bind (fun _ => ?_)
  split
  · exact Kept.map h.setGang.tryDrainDecision (fun _ hs1 => hs1.modGang)
  · exact kept_none

theorem State.Inv.liftArea {c : Nat} {slot : Option (Nat × Nat)} {group beat : Nat} {vs : List Byte} (h : s.Inv) :
    Kept (s.liftArea c slot group beat vs) := by
  unfold State.liftArea
  refine kept_bind (fun _ => ?_)
  split
  · exact kept_none
  · split
    · exact kept_some h.setBlock
    · refine kept_bind (fun _ => ?_)
      split
      · exact kept_none
      · exact kept_some h.setGang

theorem State.Inv.lift {c group gi : Nat} {l : Lift} {op beat : Nat} {vs : List Byte} (h : s.Inv) :
    Kept (s.lift c group gi l op beat vs) := by
  unfold State.lift
  split
  · exact h.liftUp
  · exact h.liftCopy
  · exact h.liftDrain
  · exact h.liftDown
  · exact h.liftStaged
  · exact h.liftArea
  · exact h.liftArea

theorem State.Inv.tryElevatorGroupError {core group gi : Nat} {l : Lift} {op beat : Nat} {vs : List Byte} (h : s.Inv) :
    Kept (tryElevatorGroupError core group gi l op beat vs s) := by
  unfold Machine.tryElevatorGroupError
  split
  · exact kept_none
  · exact Kept.map h.lift (fun _ hs1 => hs1.setCore.log)

theorem State.Inv.trySoftError {u : Upset} (h : s.Inv) : Kept (trySoftError u s) := by
  unfold Machine.trySoftError
  split
  · exact kept_some h
  · split
    · exact kept_none
    · exact kept_some (ite_inv h h.frame)
  · refine kept_bind (fun b => ?_)
    split
    · exact kept_none
    · exact kept_some (ite_inv h h.setBlock)
  · refine kept_bind (fun _ => ?_)
    split
    · exact kept_none
    · exact kept_some h.setBlock
  · refine kept_bind (fun _ => ?_)
    split
    · exact kept_none
    · exact kept_some h.setGang

/-! ### Every instruction and every event -/

theorem State.Inv.exec {i : Instr} (h : s.Inv) : Out.Keeps (exec i s) := by
  cases i with dsimp only [Machine.exec]
  | br | jmp | call | join | waitj => exact h.controlWord
  | jr | calr | ret => exact h.jumpWord
  | exit => exact keeps_withCtx (fun _ => Out.keeps_next h.placed.gangExit.checkBarB.checkBarE.handlerExit)
  | nop | yield | split | jget | jset | amxr | amxrc | amxc | amxw | mget | mlet | qryX | xset | xget | asyr | cqstat => exact h.gangWord
  | trap | brk => exact keeps_withCtx (fun _ => Out.keeps_next h.trap)
  | loopt => exact h.execLoopt
  | looptB => exact h.execLooptB
  | add | sub | addsI | addsN | subsI | subsN | absdI | absdN | mul | mulhI | mulhN | mulsI | mulsN | minI | minN | maxI
    | maxN | divI | divN | remI | remN | and | or | xor | andn | orn | xnor | shl | shrN | shrI | rol | ror | bfxN | bfxI
    | lea => exact h.binaryWord
  | mad | bsel => exact h.ternaryWord
  | absI | abss | neg | negs | not | shli | shriN | shriI | rori | popc | clz | ctz | brev | addi | andi | ori | leai | mov =>
    exact h.unaryWord
  | bfi | sel | movi => exact h.elemWord
  | ceq | cne | cltI | cgeI | cltN | cgeN | ctst => exact h.compareWord
  | addF | subF | mulF | minF | maxF | csgn => exact h.floatWord
  | fmaF | fmsF | fnmaF => exact h.fusedWord
  | absF | negF | rint => exact h.floatUnary
  | ceqF | cneF | cltF | cleF | cun => exact h.floatCompare
  | rcp | rsq | sqrt | exp2 | log2 | sin2pi | cos2pi | tanh | sigm => exact h.specialWord
  | cvt | cvto | cvtt => exact h.cvtWord
  | qbx8 | qbx8H | qbx16 | qbx16H => exact h.quantWord
  | dqbx8 | dqbx16 => exact h.dequantWord
  | shfl | shfx | shup | shdn => exact h.shuffleWord
  | ballot | nact | lfirst => exact h.sameWord
  | vany | vall | veq => exact h.voteWord
  | gaddF32 | gmaxF32 | gminF32 | gamaxF32 | gaddI32 | gaddI64 => exact h.reduceWord
  | mand | mor | mxor | mandn | mnot | mmov | mone | mzero => exact h.maskWord
  | qry => exact h.execQry
  | winb | winbRel => exact h.windowWord
  | ldN | ldI | lda => exact h.checkedWord (fun _ => h.virtualLoad)
  | st | stl => exact h.checkedWord (fun _ => h.virtualStore)
  | ldsN | ldsI => exact h.checkedWord (fun _ => Out.keeps_next h.scratchLoad)
  | sts => exact h.execSts
  | ldk | ldkX => exact h.checkedWord (fun _ => h.tableLoad)
  | ldgAddF32 | ldgAddI32 | ldgAddI64 | ldgMaxF32 | ldgMinF32 | ldgAmaxF32 => exact h.groupWord
  | rpld => exact h.planeWord (fun _ _ => h.goRpld)
  | rpst => exact h.planeWord (fun _ _ => h.goRpst)
  | rpstAdd => exact h.planeWord (fun _ _ => h.goRpstAdd)
  | aadd | aand | aor | axor | axch | aminI | amaxI | aminN | amaxN | aincw | adecw | fadda | amaxm | amaxrs => exact h.atomWord
  | acas | aaddb => exact h.atomWord4
  | fence | mxfence | mxwait => exact keeps_withCtx (fun _ => Out.keeps_next h.holdOrGo)
  | barB => exact h.released (fun _ hs _ => Out.keeps_next hs.setBlock.checkBarB)
  | barE => exact h.execBarE
  | nbar => exact h.execNbar
  | nbnew => exact h.execNbnew
  | nbfree => exact h.execNbfree
  | monw => exact h.checkedWord (fun _ => h.formed h.goMonw)
  | secin => exact h.execSecin
  | secout => exact h.execSecout
  | clreq => exact h.checkedWord (fun _ => h.released (fun _ hs _ => Out.keeps_next hs.retire.setClearing))
  | clwait => exact h.execClwait
  | escrow => exact h.execEscrow
  | escpop => exact h.checkedWord (fun _ => Out.keeps_next h.acquireSync.retire.setPartition)
  | dflush => exact h.execDflush
  | tcommit => exact h.execTcommit
  | mxm => exact h.execMxm
  | mxclr => exact h.convergentWord (fun _ => Out.keeps_next h.retire)
  | mxdrn => exact h.convergentWord (fun _ => Out.keeps_next h.holdDrain)
  | mxdrs => exact h.execMxdrs
  | mxgsum => exact h.execMxgsum
  | enc => exact h.execEnc
  | mxrel | cqclr => exact keeps_withCtx (fun _ => Out.keeps_next h.retire.modBlock)
  | cpy | cpycv | cpyrd | coll => exact h.commandWord
  | qbind => exact h.execQbind
  | qpop => exact h.portWord (fun _ _ => Out.keeps_next h.holdOnPort)
  | qpush => exact h.portWord (fun _ _ => h.released (fun _ hs _ => Out.keeps_next hs.holdOnPort))
  | qlen => exact h.portWord (fun _ _ => Out.keeps_next h.retire)
  | tossmax | tosscand | tossmerge | tossdraw | tossgenHi | tossgenLo => exact h.tossWord
  | csrr => exact h.execCsrr
  | csrw => exact h.execCsrw
  | tret | tretNext => exact h.retWord
  | tretTo => exact h.execTretTo
  | unassignedEncodingIssue => exact keeps_withCtx (fun _ => Out.keeps_next h.illegal)
  | memoryOperationComplete => exact h.happens h.tryMemoryOperationComplete
  | specialFunctionComplete | encWriteComplete | drainWriteComplete => exact h.happens h.completeOp
  | mxmAccumulate => exact h.happens h.tryMxmAccumulate
  | drainDecision => exact h.happens h.tryDrainDecision
  | mxgsumSum => exact h.happens h.tryMxgsumSum
  | tossWordComplete => exact h.happens h.tossComplete
  | blockExit => exact h.happens h.tryBlockExit
  | launchSubmission => exact h.happens h.tryLaunchSubmission
  | launchDequeue => exact h.happens h.tryLaunchDequeue
  | ensembleStart => exact h.happens h.tryEnsembleStart
  | leaseGrant => exact h.happens h.tryLeaseGrant
  | leasePass => exact h.happens h.tryLeasePass
  | monwSatisfied => exact h.happens h.tryMonwSatisfied
  | queueWaitRelease => exact h.happens h.tryQueueWaitRelease
  | tellerFlushApply => exact h.happens h.tryTellerFlushApply
  | remoteUpdateApply => exact h.happens h.tryRemoteUpdateApply
  | quantumExpiry => exact h.happens h.tryQuantumExpiry
  | yieldSuppressionEnd => exact h.happens h.tryYieldSuppressionEnd
  | bindStart => exact h.execBindStart
  | bindResume => exact h.execBindResume
  | bindSave => exact h.execBindSave
  | contextSaveComplete => exact h.happens h.tryContextSaveComplete
  | bindKill => exact h.execBindKill
  | bindIdle => exact h.execBindIdle
  | commandStart => exact h.happens h.tryCommandStart
  | commandComplete => exact h.happens h.tryCommandComplete
  | collSend => exact h.happens h.tryCollSend
  | collRecv => exact h.happens h.tryCollRecv
  | collRr => exact h.happens h.tryCollRr
  | collRrs => exact h.happens h.tryCollRrs
  | collCopy => exact h.happens h.tryCollCopy
  | collWait => exact h.happens h.tryCollWait
  | collLoop => exact h.happens h.tryCollLoop
  | collNext => exact h.happens h.tryCollNext
  | collEnd => exact h.happens h.tryCollEnd
  | intakeMessageStart => exact h.happens h.tryIntakeMessageStart
  | chunkDecodeComplete => exact h.happens h.tryChunkDecodeComplete
  | intakeMessageEnd => exact h.happens h.tryIntakeMessageEnd
  | messageQuarantine => exact h.happens h.tryMessageQuarantine
  | fbdoneRetry => exact Out.keeps_next (h.freeRecord (fun _ hs _ _ => hs.retry))
  | fbdoneFail => exact Out.keeps_next (h.freeRecord (fun _ hs _ _ => hs.failReq))
  | replay => exact Out.keeps_next h.replayTower
  | tlbinvAll | tlbinvAsid | tlbinvPage => exact Out.keeps_next h.invalidate
  | invalidationComplete => exact h.happens h.tryInvalidationComplete
  | h2dtailWrite => exact Out.keeps_next h.frame.skimRing
  | submitLaunch => exact h.happens (h.hostMessage (fun _ _ hs => hs.submitEffect))
  | abortLaunch => exact h.happens (h.hostMessage (fun _ _ hs => hs.abortEffect))
  | retirementRequest => exact h.happens (h.hostMessage (fun _ _ hs => hs.retireEffect))
  | elevatorRemapRequest => exact h.happens (h.hostMessage (fun _ _ hs => hs.remapEffect))
  | assayRead => exact h.happens (h.hostMessage (fun _ _ hs => hs.assayEffect))
  | partitionConfig => exact h.happens h.tryPartitionConfig
  | attestationRequest => exact h.happens (h.hostMessage (fun _ _ hs => hs.attestEffect))
  | firmwareUpdate => exact h.happens (h.hostMessage (fun _ _ hs => hs.firmwareEffect))
  | newBringup => exact h.happens h.tryNewBringup
  | d2hbaseWrite => exact Out.keeps_next h.frame.rewrite
  | moduleReset => exact Out.keeps_next h.resetModule
  | bringupStageComplete => exact h.happens h.tryBringupStageComplete
  | serviceClockRise => exact h.happens h.tryServiceClockRise
  | hostApertureRead => exact h.execHostApertureRead
  | hostApertureWrite => exact h.execHostApertureWrite
  | hostAtomicopReject | thrcntClear => exact Out.keeps_next h.frame
  | peerRequest => exact h.execPeerRequest
  | peerTransactionTimeout | peerErrorResponse => exact h.failPeer
  | flitCrcRetry => exact Out.keeps_next h
  | laneRepair => exact h.happens h.tryLaneRepair
  | linkDown => exact h.happens h.tryLinkDown
  | asycntClear => exact Out.keeps_next h.modTower
  | containRetireRequest => exact h.execContainRetireRequest
  | channelRetirement => exact h.happens h.tryChannelRetirement
  | elvmapWrite => exact Out.keeps_next h.writeElvmap
  | elevatorGroupError => exact h.happens h.tryElevatorGroupError
  | dutyTick => exact h.happens h.tryDutyTick
  | thermalTrip => exact h.happens h.tryThermalTrip
  | registerWrite => exact h.execRegisterWrite
  | softError => exact h.happens h.trySoftError
  | d2hackWrite => exact Out.keeps_next h.frame.pump
  | intakePieceTokenised => exact h.happens h.tryIntakePieceTokenised
  | managementCoreStore => exact keeps_withRun (Out.keeps_next h.writeLoc)

/-! ### Issue, turns and the default policy (R32, R33, R336, log entry 4) -/

theorem State.Inv.runPath {c gi : Nat} {p : Path} (h : s.Inv) : (runPath s c gi p).Keeps := by
  have hf := h.fetchPath (c := c) (gi := gi) (p := p)
  unfold Machine.runPath
  split
  · rename_i s1 hs1
    rw [hs1] at hf
    exact Out.keeps_next (State.Inv.settleReqs hf)
  · rename_i i s1 hs1
    rw [hs1] at hf
    split
    · rename_i s2 hs2
      exact Out.keeps_next (State.Inv.settleReqs (State.Inv.exec hf s2 hs2))
    · exact Out.keeps_fault
    · exact Out.keeps_refused

theorem State.Inv.clearSkips {c gi : Nat} {lanes : LaneBits} (h : s.Inv) : (s.clearSkips c gi lanes).Inv := h.modGang

theorem State.Inv.runFirst {c gi : Nat} {p : Path} (h : s.Inv) : (runFirst s c gi p).Keeps := by
  unfold Machine.runFirst
  split
  · rename_i s1 hs1
    refine Out.keeps_next ?_
    split
    · split
      · exact (h.runPath _ hs1).clearSkips.frame
      · exact h.runPath _ hs1
    · exact h.runPath _ hs1
  · exact Out.keeps_fault
  · exact Out.keeps_refused

theorem State.Inv.tryIssue {c sub : Nat} (h : s.Inv) : ∀ o, tryIssue s c sub = some o → o.Keeps := by
  intro o ho
  simp only [Machine.tryIssue, Option.bind_eq_some_iff, Option.ite_none_left_eq_some, Option.map_eq_some_iff] at ho
  obtain ⟨b0, -, -, x, -, g, -, p, -, rfl⟩ := ho
  exact h.setCore.frame.runFirst

theorem State.Inv.issueTurn {c sub : Nat} (h : s.Inv) : (issueTurn s c sub).Keeps := by
  unfold Machine.issueTurn
  cases ho : Machine.tryIssue s c sub with
  | none => exact Out.keeps_next h
  | some o => exact h.tryIssue o ho

theorem State.Inv.secondTurn {c gi : Nat} {p : Path} (h : s.Inv) : (secondTurn s c gi p).Keeps := by
  unfold Machine.secondTurn
  extract_lets s1
  have h1 : s1.Inv := h.frame
  clear_value s1
  split
  · exact Out.keeps_next h1
  · split
    · exact Out.keeps_next h1
    · exact ite_keeps (Out.keeps_next h1) h1.clearSkips.runPath

theorem State.Inv.tryCycle {c : Nat} (h : s.Inv) : Kept (tryCycle s c) := by
  unfold Machine.tryCycle
  dsimp only
  split
  · exact kept_none
  · refine kept_some ?_
    split <;> exact h.setCore

theorem State.Inv.cycleTurn {c : Nat} (h : s.Inv) : (cycleTurn s c).Keeps := h.happens h.tryCycle

theorem State.Inv.l1Fill {c a : Nat} (h : s.Inv) : (s.l1Fill c a).Inv := by
  unfold State.l1Fill
  dsimp only
  split
  · exact h
  · refine State.Inv.setCore ?_
    refine State.Inv.towerRun ?_
    split
    · exact h
    · exact h.modTower

theorem State.Inv.l1Drop {c a : Nat} (h : s.Inv) : (s.l1Drop c a).Inv := h.dropL1

theorem State.Inv.copyFill {t : Nat} {loc : Loc} (h : s.Inv) : (s.copyFill t loc).Inv := by
  unfold State.copyFill
  refine ite_inv h (State.Inv.modTower ?_)
  split <;> exact h.modTower

theorem State.Inv.copyDrop {t : Nat} {loc : Loc} (h : s.Inv) : (s.copyDrop t loc).Inv := h.modTower

theorem State.Inv.modTlb {t : Nat} {core : Option Nat} {f : List TlbEntry → List TlbEntry} (h : s.Inv) : (s.modTlb t core f).Inv := by
  unfold State.modTlb
  split
  · exact h.setCore
  · exact h.modTower

theorem State.Inv.tlbFill {t : Nat} {core : Option Nat} {asid : BitVec 16} {va lv : Nat} (h : s.Inv) :
    (s.tlbFill t core asid va lv).Inv := by
  unfold State.tlbFill
  split
  · exact h
  · exact h.modTlb

theorem State.Inv.firstEnabled {l : List (State → Option State)} (h : s.Inv) (hl : ActsKeep l) : Kept (firstEnabled s l) := by
  induction l with
  | nil => exact kept_none
  | cons f r ih =>
    obtain ⟨hf, hr⟩ := List.forall_mem_cons.mp hl
    rw [Machine.firstEnabled]
    split
    · rename_i t ht
      exact kept_some (hf s h t ht)
    · exact ih hr

theorem gangActs_keep (c gi : Nat) (g : Gang) : ActsKeep (gangActs c gi g) := by
  refine ActsKeep.append (ActsKeep.append (actsKeep_map fun o => ?_) (actsKeep_flatMap fun _ => ?_)) (actsKeep_flatMap fun _ => ?_)
  · cases o.kind with
    | memory | command => exact fun _ h => h.tryMemoryOperationComplete
    | special | enc | drainWrite => exact fun _ h => h.completeOp
  · exact actsKeep_cons (fun _ h => h.tryMxmAccumulate) (actsKeep_cons (fun _ h => h.tryMxgsumSum) actsKeep_nil)
  · split
    · exact actsKeep_cons (fun _ h => h.tryDrainDecision) actsKeep_nil
    · exact actsKeep_cons (fun _ h => h.tryMemoryOperationComplete) actsKeep_nil
    · exact actsKeep_map (fun _ _ h => h.tryMonwSatisfied)
    · exact actsKeep_cons (fun _ h => h.tryQueueWaitRelease) actsKeep_nil
    · exact actsKeep_cons (fun _ h => h.tryQueueWaitRelease) actsKeep_nil
    · exact actsKeep_nil

theorem coreActs_keep (c : Nat) (k : Core) : ActsKeep (coreActs c k) := by
  unfold coreActs
  split
  · split
    · exact actsKeep_cons (fun _ h => h.tryEnsembleStart) actsKeep_nil
    · exact actsKeep_nil
  · refine ActsKeep.append (actsKeep_flatten_mapIdx (gangActs_keep c)) ?_
    exact actsKeep_cons (fun _ h => h.tryLeaseGrant) (actsKeep_cons (fun _ h => h.tryLeasePass)
      (actsKeep_cons (fun _ h => h.tryTellerFlushApply) (actsKeep_cons (fun _ h => h.tryBlockExit)
        (actsKeep_cons (fun _ h => h.tryContextSaveComplete) actsKeep_nil))))

theorem towerActs_keep (t : Nat) (x : Tower) : ActsKeep (towerActs t x) := by
  refine ActsKeep.append ?_ (actsKeep_flatMap fun _ => ?_)
  · split
    · exact actsKeep_nil
    · exact actsKeep_cons (fun _ h => h.tossComplete) actsKeep_nil
  · exact actsKeep_cons (fun _ h => h.tryIntakePieceTokenised) (actsKeep_cons (fun _ h => h.tryIntakeMessageEnd)
      (actsKeep_cons (fun _ h => h.tryMessageQuarantine) (actsKeep_cons (fun _ h => h.tryChunkDecodeComplete)
        (actsKeep_cons (fun _ h => h.tryIntakeMessageStart) actsKeep_nil))))

theorem commandActs_keep (c : Command) : ActsKeep (commandActs c) :=
  actsKeep_cons (fun _ h => h.tryCommandComplete) (actsKeep_cons (fun _ h => h.tryCommandStart) (actsKeep_cons (fun _ h => h.tryCollSend)
    (actsKeep_cons (fun _ h => h.tryCollRecv) (actsKeep_cons (fun _ h => h.tryCollRr) (actsKeep_cons (fun _ h => h.tryCollRrs)
      (actsKeep_cons (fun _ h => h.tryCollCopy) (actsKeep_cons (fun _ h => h.tryCollWait) (actsKeep_cons (fun _ h => h.tryCollLoop)
        (actsKeep_cons (fun _ h => h.tryCollNext) (actsKeep_cons (fun _ h => h.tryCollEnd) actsKeep_nil))))))))))

theorem State.Inv.atOnce (h : s.Inv) : Kept (atOnce s) :=
  h.firstEnabled (actsKeep_cons (fun _ h => h.tryServiceClockRise) (actsKeep_mapIdx (fun _ _ _ h => h.tryChannelRetirement)))

theorem dueActs_keep (s : State) : ActsKeep (dueActs s) := by
  refine ActsKeep.append (ActsKeep.append (ActsKeep.append (actsKeep_flatten_mapIdx towerActs_keep) (actsKeep_flatten_mapIdx coreActs_keep))
    (actsKeep_flatMap commandActs_keep)) (actsKeep_flatMap fun _ => ?_)
  split
  · exact actsKeep_cons (fun _ h => h.tryLaunchDequeue) actsKeep_nil
  · exact actsKeep_nil

theorem State.Inv.defaultTurn (h : s.Inv) : (defaultTurn s).Keeps := by
  unfold Machine.defaultTurn
  split
  · exact h.issueTurn
  · split
    · rename_i t ht
      exact Out.keeps_next (h.firstEnabled (dueActs_keep s) t ht)
    · split
      · exact h.cycleTurn
      · exact Out.keeps_next h

theorem State.Inv.runTurn {x : Turn} (h : s.Inv) : (runTurn s x).Keeps := by
  unfold Machine.runTurn
  split
  · split
    · exact h.exec
    · exact Out.keeps_next h
  · exact h.cycleTurn
  · exact h.issueTurn
  · exact Out.keeps_next h.performTurn
  · exact Out.keeps_next h.postTurn
  · exact Out.keeps_next h.splitTurn
  · exact Out.keeps_next h.tossReadTurn
  · exact Out.keeps_next h.tossWriteTurn
  · exact Out.keeps_next h.tellerTurn
  · exact Out.keeps_next h.engineReadTurn
  · exact Out.keeps_next h.engineWriteTurn
  · exact Out.keeps_next h.l1Fill
  · exact Out.keeps_next h.l1Drop
  · exact Out.keeps_next h.copyFill
  · exact Out.keeps_next h.copyDrop
  · exact Out.keeps_next h.tlbFill
  · exact Out.keeps_next h.modTlb

theorem State.Inv.stepBody (h : s.Inv) : (stepBody s).Keeps := by
  unfold Machine.stepBody
  split
  · exact h.secondTurn
  · split
    · rename_i t ht
      exact Out.keeps_next (h.atOnce _ ht)
    · split
      · exact h.defaultTurn
      · exact h.frame.runTurn

end Sys2Proof.Machine
end

section
/-! PROOFS. The invariant of every step (R1 to R4). -/
namespace Sys2Proof
open Machine

/-- Settles O2: each function of a step keeps the invariant, and so does the step that is made of them. -/
theorem everyStepKeepsTheInvariant : Obligations.EveryStepKeepsTheInvariant := fun _ t h ht => h.stepBody t ht

end Sys2Proof
end

section
/-! SUPPORT. What the choice of R32 and R336 is made of: the least of a list by a key, sorting by a relation, the lanes of a path, the
paths of a gang, the arbiter, the order among paths, and the skip counts. -/

namespace Sys2Proof.Machine

/-! ### The least by a key, and sorting -/

/-- The least of a list has the smallest key, and stands before every other with that key. -/
theorem exists_minBy?_eq_some {α : Type} {key : α → Nat} {R : α → α → Prop} {l : List α} (hne : l ≠ []) (hR : l.Pairwise R) :
    ∃ x ∈ l, minBy? key l = some x ∧ ∀ y ∈ l, key x < key y ∨ (key x = key y ∧ (x = y ∨ R x y)) := by
  induction l with
  | nil => exact absurd rfl hne
  | cons a l ih =>
    obtain ⟨ha, hl⟩ := List.pairwise_cons.mp hR
    by_cases hnil : l = []
    · subst hnil
      exact ⟨a, by simp, rfl, by simp⟩
    · obtain ⟨m, hm, hmin, hleast⟩ := ih hnil hl
      by_cases hlt : key m < key a
      · exact ⟨m, List.mem_cons_of_mem a hm, by simp [minBy?, hmin, hlt], List.forall_mem_cons.mpr ⟨Or.inl hlt, hleast⟩⟩
      · refine ⟨a, List.mem_cons_self, by simp [minBy?, hmin, hlt], List.forall_mem_cons.mpr ⟨Or.inr ⟨rfl, Or.inl rfl⟩, fun y hy => ?_⟩⟩
        have hy_least := hleast y hy
        have hay := ha y hy
        rcases Nat.lt_or_ge (key a) (key y) with h | h
        · exact Or.inl h
        · exact Or.inr ⟨by omega, Or.inr hay⟩

section Sorting
variable {α : Type} {le : α → α → Bool}

theorem insertBy_perm (x : α) (l : List α) : (insertBy le x l).Perm (x :: l) := by
  induction l with
  | nil => exact .refl _
  | cons y ys ih =>
    rw [insertBy]
    split
    · exact (ih.cons y).trans (.swap x y ys)
    · exact .refl _

theorem foldl_insertBy_perm (l acc : List α) : (l.foldl (fun acc x => insertBy le x acc) acc).Perm (l ++ acc) := by
  induction l generalizing acc with
  | nil => exact .refl _
  | cons x l ih => exact (ih _).trans (((insertBy_perm x acc).append_left l).trans List.perm_middle)

theorem sortBy_perm (l : List α) : (sortBy le l).Perm l := by
  simpa [sortBy] using foldl_insertBy_perm (le := le) l []

variable (total : ∀ x y, le x y = true ∨ le y x = true) (trans : ∀ x y z, le x y = true → le y z = true → le x z = true)
include total trans

theorem insertBy_pairwise (x : α) {l : List α} (h : l.Pairwise (le · ·)) : (insertBy le x l).Pairwise (le · ·) := by
  induction l with
  | nil => simp [insertBy]
  | cons y ys ih =>
    obtain ⟨hy, hys⟩ := List.pairwise_cons.mp h
    rw [insertBy]
    split
    next hyx =>
      refine List.pairwise_cons.mpr ⟨fun z hz => ?_, ih hys⟩
      rcases List.mem_cons.mp ((insertBy_perm x ys).mem_iff.mp hz) with rfl | hz
      · exact hyx
      · exact hy z hz
    next hyx =>
      have hxy : le x y = true := (total x y).resolve_right hyx
      exact List.pairwise_cons.mpr ⟨List.forall_mem_cons.mpr ⟨hxy, fun z hz => trans x y z hxy (hy z hz)⟩, h⟩

theorem sortBy_pairwise (l : List α) : (sortBy le l).Pairwise (le · ·) := by
  have sorted : ∀ (l acc : List α), acc.Pairwise (le · ·) → (l.foldl (fun acc x => insertBy le x acc) acc).Pairwise (le · ·) := by
    intro l
    induction l with
    | nil => exact fun _ h => h
    | cons x l ih => exact fun acc h => ih _ (insertBy_pairwise total trans x h)
  exact sorted l [] .nil

end Sorting

/-! ### The paths of a gang's free lanes (R32) -/

theorem getLsbD_oneLane {l : Nat} (hl : l < 32) (m : Nat) : (BitVec.ofNat 32 (2 ^ l)).getLsbD m = true ↔ m = l := by
  simp only [BitVec.getLsbD_ofNat, Nat.testBit_two_pow, Bool.and_eq_true, decide_eq_true_eq]
  omega

/-- A lane stands in one of the paths, at an address, where the word is a header or is not. -/
def StandsIn (ps : List Path) (m : Nat) (pc : VAddr) (hdr : Bool) : Prop :=
  ∃ p ∈ ps, p.lanes.getLsbD m = true ∧ p.pc = pc ∧ p.header = hdr

/-- What tells a gang's paths apart: the address, and whether the word there is a header (log entry 21). -/
def Path.key (p : Path) : VAddr × Bool := (p.pc, p.header)

theorem standsIn_cons {p : Path} {ps : List Path} {m : Nat} {pc : VAddr} {hdr : Bool} :
    StandsIn (p :: ps) m pc hdr ↔ (p.lanes.getLsbD m = true ∧ p.pc = pc ∧ p.header = hdr) ∨ StandsIn ps m pc hdr := by
  simp [StandsIn]

theorem standsIn_addLane {l : Nat} (hl : l < 32) (ps : List Path) (pc pc' : VAddr) (hdr hdr' : Bool) (m : Nat) :
    StandsIn (addLane ps l pc hdr) m pc' hdr' ↔ StandsIn ps m pc' hdr' ∨ (m = l ∧ pc = pc' ∧ hdr = hdr') := by
  induction ps with
  | nil =>
    simp only [addLane, standsIn_cons, getLsbD_oneLane hl]
    exact or_comm
  | cons p ps ih =>
    rw [addLane]
    split
    next h =>
      obtain ⟨rfl, rfl⟩ := h
      simp only [standsIn_cons, BitVec.getLsbD_or, Bool.or_eq_true, getLsbD_oneLane hl]
      rw [or_and_right, or_right_comm]
    next => simp only [standsIn_cons, ih, or_assoc]

theorem addLane_keys (ps : List Path) (l : Nat) (pc : VAddr) (hdr : Bool) :
    (addLane ps l pc hdr).map Path.key =
      if (pc, hdr) ∈ ps.map Path.key then ps.map Path.key else ps.map Path.key ++ [(pc, hdr)] := by
  induction ps with
  | nil => rfl
  | cons p ps ih =>
    rw [addLane]
    split
    next h =>
      obtain ⟨rfl, rfl⟩ := h
      simp [Path.key]
    next h =>
      have hp : ((pc, hdr) = p.key) ↔ False := by simpa [Path.key, eq_comm] using h
      simp only [List.map_cons, ih, List.mem_cons, hp, false_or]
      split <;> simp

theorem addLane_keys_nodup {ps : List Path} (h : (ps.map Path.key).Nodup) (l : Nat) (pc : VAddr) (hdr : Bool) :
    ((addLane ps l pc hdr).map Path.key).Nodup := by
  rw [addLane_keys]
  split
  next => exact h
  next hn => exact List.nodup_append.mpr ⟨h, List.pairwise_singleton _ _, fun a ha b hb e => hn (List.mem_singleton.mp hb ▸ e ▸ ha)⟩

theorem Path.eq_of_key_eq {ps : List Path} (h : (ps.map Path.key).Nodup) {p q : Path} (hp : p ∈ ps) (hq : q ∈ ps)
    (hkey : p.key = q.key) : p = q := by
  induction ps with
  | nil => cases hp
  | cons r ps ih =>
    rw [List.map_cons, List.nodup_cons] at h
    obtain ⟨hr, hps⟩ := h
    rcases List.mem_cons.mp hp with hpr | hp <;> rcases List.mem_cons.mp hq with hqr | hq
    · exact hpr.trans hqr.symm
    · exact absurd (List.mem_map.mpr ⟨q, hq, hkey.symm.trans (congrArg Path.key hpr)⟩) hr
    · exact absurd (List.mem_map.mpr ⟨p, hp, hkey.trans (congrArg Path.key hqr)⟩) hr
    · exact ih hps hp hq

/-- A lane is added to the paths if it is free. -/
def Gang.addFree (g : Gang) (ps : List Path) (l : Nat) : List Path :=
  if g.free (g.lane l) then addLane ps l (g.lane l).pc ((g.lane l).cpos == 0) else ps

/-- The paths of a gang's free lanes, before the conditions on their headers and units. -/
def Gang.freePaths (g : Gang) : List Path := (List.range 32).foldl g.addFree []

theorem pathsOf_eq (s : State) (c gi : Nat) (b : Block) (g : Gang) : pathsOf s c gi b g =
    g.freePaths.filter (fun p => (!p.header || headerOpen s c b g p.pc) && !(peekWord s c b p).any (wordFull s c gi b g p)) := rfl

theorem Gang.addFree_keys_nodup {g : Gang} {ps : List Path} (h : (ps.map Path.key).Nodup) (l : Nat) :
    ((g.addFree ps l).map Path.key).Nodup := by
  unfold Gang.addFree
  split
  · exact addLane_keys_nodup h l _ _
  · exact h

/-- Where a free lane stands: at its own program counter, at a header if it stands at a clause's start. -/
def Gang.FreeAt (g : Gang) (m : Nat) (pc : VAddr) (hdr : Bool) : Prop :=
  g.free (g.lane m) = true ∧ (g.lane m).pc = pc ∧ ((g.lane m).cpos == 0) = hdr

theorem Gang.standsIn_addFree {g : Gang} {l : Nat} (hl : l < 32) (ps : List Path) (m : Nat) (pc : VAddr) (hdr : Bool) :
    StandsIn (g.addFree ps l) m pc hdr ↔ StandsIn ps m pc hdr ∨ (m = l ∧ g.FreeAt m pc hdr) := by
  unfold Gang.addFree Gang.FreeAt
  split
  next hfree =>
    rw [standsIn_addLane hl]
    constructor
    · rintro (h | ⟨rfl, hpc, hhdr⟩)
      · exact Or.inl h
      · exact Or.inr ⟨rfl, hfree, hpc, hhdr⟩
    · rintro (h | ⟨rfl, -, hpc, hhdr⟩)
      · exact Or.inl h
      · exact Or.inr ⟨rfl, hpc, hhdr⟩
  next hfree =>
    refine ⟨Or.inl, ?_⟩
    rintro (h | ⟨rfl, h, -⟩)
    · exact h
    · exact absurd h hfree

theorem Gang.standsIn_foldl_addFree {g : Gang} {m : Nat} {pc : VAddr} {hdr : Bool} (ls : List Nat) (hls : ∀ l ∈ ls, l < 32) (ps : List Path) :
    StandsIn (ls.foldl g.addFree ps) m pc hdr ↔ StandsIn ps m pc hdr ∨ (m ∈ ls ∧ g.FreeAt m pc hdr) := by
  induction ls generalizing ps with
  | nil => simp
  | cons l ls ih =>
    obtain ⟨hl, hls⟩ := List.forall_mem_cons.mp hls
    rw [List.foldl_cons, ih hls, Gang.standsIn_addFree hl, List.mem_cons, or_assoc, or_and_right]

/-- The lanes of the paths are the gang's free lanes, each where it stands. -/
theorem Gang.standsIn_freePaths {g : Gang} {m : Nat} {pc : VAddr} {hdr : Bool} :
    StandsIn g.freePaths m pc hdr ↔ m < 32 ∧ g.FreeAt m pc hdr := by
  rw [Gang.freePaths, Gang.standsIn_foldl_addFree _ (fun _ => List.mem_range.mp)]
  simp [StandsIn]

theorem Gang.freePaths_keys_nodup (g : Gang) : (g.freePaths.map Path.key).Nodup :=
  List.foldlRecOn (List.range 32) g.addFree (motive := fun ps => (ps.map Path.key).Nodup) List.nodup_nil
    (fun _ h l _ => Gang.addFree_keys_nodup h l)

theorem Gang.freeAt_of_mem_freePaths {g : Gang} {p : Path} {m : Nat} (hp : p ∈ g.freePaths) (hm : p.lanes.getLsbD m = true) :
    g.FreeAt m p.pc p.header := (Gang.standsIn_freePaths.mp ⟨p, hp, hm, rfl, rfl⟩).2

/-- A lane is in one path. -/
theorem Gang.freePaths_unique {g : Gang} {p q : Path} {m : Nat} (hp : p ∈ g.freePaths) (hq : q ∈ g.freePaths)
    (hpm : p.lanes.getLsbD m = true) (hqm : q.lanes.getLsbD m = true) : p = q := by
  obtain ⟨-, hpc, hhdr⟩ := Gang.freeAt_of_mem_freePaths hp hpm
  obtain ⟨-, hpc', hhdr'⟩ := Gang.freeAt_of_mem_freePaths hq hqm
  exact Path.eq_of_key_eq g.freePaths_keys_nodup hp hq (Prod.ext (hpc.symm.trans hpc') (hhdr.symm.trans hhdr'))

theorem Gang.exists_mem_freePaths {g : Gang} {m : Nat} (hm : m < 32) (hfree : g.free (g.lane m) = true) :
    ∃ p ∈ g.freePaths, p.lanes.getLsbD m = true := by
  obtain ⟨p, hp, hpm, -⟩ := Gang.standsIn_freePaths.mpr ⟨hm, hfree, rfl, rfl⟩
  exact ⟨p, hp, hpm⟩

theorem not_or_eq_true_iff {x y : Bool} : (!x || y) = true ↔ (x = true → y = true) := by
  cases x <;> simp only [Bool.not_true, Bool.not_false, Bool.false_or, Bool.true_or, true_implies, Bool.false_eq_true, false_implies]

/-- The conditions of R32 on a lane, and R310's, that its gang's trap does not freeze it. -/
theorem Gang.free_iff {g : Gang} {l : Lane} : g.free l = true ↔
    l.exited = false ∧ l.park = none ∧ l.wait = none ∧ (g.inHandler = true → l.hl = true) := by
  simp only [Gang.free, Bool.and_eq_true, Bool.not_eq_true', Option.isNone_iff_eq_none, not_or_eq_true_iff, and_assoc]

theorem not_any_eq_true_iff {α : Type} {o : Option α} {f : α → Bool} : (!o.any f) = true ↔ ∀ w, o = some w → f w = false := by
  cases o with
  | none => exact ⟨fun _ _ h => (nomatch h), fun _ => rfl⟩
  | some w =>
    rw [Option.any_some, Bool.not_eq_true']
    exact ⟨fun h v hv => Option.some.inj hv ▸ h, fun h => h w rfl⟩

/-- A path may issue if the header it stands at may, and the unit of its word has room (R32). -/
theorem mem_pathsOf {s : State} {c gi : Nat} {b : Block} {g : Gang} {p : Path} : p ∈ pathsOf s c gi b g ↔
    p ∈ g.freePaths ∧ (p.header = true → headerOpen s c b g p.pc = true) ∧
      ∀ w, peekWord s c b p = some w → wordFull s c gi b g p w = false := by
  rw [pathsOf_eq, List.mem_filter, Bool.and_eq_true, not_or_eq_true_iff, not_any_eq_true_iff]

/-- A free lane in no path stands at a header that may not issue, or in a path whose word has no room (R32). -/
theorem cause_of_not_in_pathsOf {s : State} {c gi : Nat} {b : Block} {g : Gang} {l : Nat} (hl : l < 32) (hfree : g.free (g.lane l) = true)
    (hout : ∀ p ∈ pathsOf s c gi b g, p.lanes.getLsbD l = false) :
    ((g.lane l).cpos = 0 ∧ headerOpen s c b g (g.lane l).pc = false) ∨
      ∃ p ∈ g.freePaths, p.lanes.getLsbD l = true ∧ ∃ w, peekWord s c b p = some w ∧ wordFull s c gi b g p w = true := by
  obtain ⟨p, hp, hpl⟩ := Gang.exists_mem_freePaths hl hfree
  obtain ⟨-, hpc, hhdr⟩ := Gang.freeAt_of_mem_freePaths hp hpl
  have hnot : p ∉ pathsOf s c gi b g := fun h => by simp [hout p h] at hpl
  rw [mem_pathsOf, not_and, Classical.not_and_iff_not_or_not] at hnot
  rcases hnot hp with h | h
  · simp only [Classical.not_imp, Bool.not_eq_true] at h
    obtain ⟨hheader, hshut⟩ := h
    exact Or.inl ⟨by simpa [hheader] using hhdr, hpc ▸ hshut⟩
  · simp only [Classical.not_forall, Bool.not_eq_false] at h
    obtain ⟨w, hw, hfull⟩ := h
    exact Or.inr ⟨p, hp, hpl, w, hw, hfull⟩

theorem mem_readyGangs {s : State} {c : Nat} {b : Block} {sub gi : Nat} {ps : List Path} : (gi, ps) ∈ readyGangs s c b sub ↔
    gi % 4 = sub ∧ ps ≠ [] ∧ ∃ g, b.gangs[gi]? = some g ∧ ps = pathsOf s c gi b g := by
  unfold readyGangs
  simp only [List.mem_filterMap, List.mem_filter, List.mem_range, beq_iff_eq]
  constructor
  · rintro ⟨i, ⟨-, hsub⟩, h⟩
    split at h
    · cases h
    · split at h
      · cases h
      next _ g hg _ hne =>
        cases h
        exact ⟨hsub, hne, g, hg, rfl⟩
  · rintro ⟨hsub, hne, g, hg, rfl⟩
    refine ⟨gi, ⟨(List.getElem?_eq_some_iff.mp hg).1, hsub⟩, ?_⟩
    cases hps : pathsOf s c gi b g with
    | nil => exact absurd hps hne
    | cons p ps => simp [hg, hps]

/-! ### The arbiter (R336) -/

/-- The cycle since which a gang that may be granted is ready. -/
def Block.readyAt (b : Block) (cycle : Nat) (x : Nat × List Path) : Nat := (b.gangs.getD x.1 {}).ready.getD cycle

/-- A gang that may be granted is suppressed after a yield. -/
def Block.suppresses (b : Block) (cycle : Nat) (x : Nat × List Path) : Bool := (b.gangs.getD x.1 {}).suppressed cycle

theorem Gang.suppressed_iff {g : Gang} {cycle : Nat} : g.suppressed cycle = true ↔ ∃ y, g.yielded = some y ∧ cycle ≤ y + 8 := by
  unfold Gang.suppressed
  split <;> simp [*]

theorem arbiter_eq {b : Block} {cycle : Nat} {gs : List (Nat × List Path)} (hgs : ∀ x ∈ gs, x.1 < b.gangs.length) :
    arbiter b cycle gs =
      (minBy? (b.readyAt cycle) (gs.filter (fun x => !b.suppresses cycle x))).or (minBy? (b.readyAt cycle) gs) := by
  have hkey : (fun x : Nat × List Path => ((b.gangs[x.1]?).bind (·.ready)).getD cycle) = b.readyAt cycle := by
    funext x
    rw [Block.readyAt, List.getD_eq_getElem?_getD]
    cases b.gangs[x.1]? <;> rfl
  unfold arbiter
  simp only [hkey]
  rw [List.filter_congr (q := fun x => !b.suppresses cycle x) fun x hx => by simp [Block.suppresses, hgs x hx]]
  cases minBy? (b.readyAt cycle) (gs.filter (fun x => !b.suppresses cycle x)) <;> rfl

/-- The arbiter grants a suppressed gang only where every gang that is ready is, and among those it may grant the one that has been ready
longest, the lowest number among equals. -/
theorem arbiter_grants {b : Block} {cycle : Nat} {gs : List (Nat × List Path)} (hne : gs ≠ []) (hgs : ∀ x ∈ gs, x.1 < b.gangs.length)
    (hlt : (gs.map (·.1)).Pairwise (· < ·)) :
    ∃ x ∈ gs, arbiter b cycle gs = some x ∧ (b.suppresses cycle x = true → ∀ y ∈ gs, b.suppresses cycle y = true) ∧
      ∀ y ∈ gs, (b.suppresses cycle y = true → b.suppresses cycle x = true) →
        b.readyAt cycle x < b.readyAt cycle y ∨ (b.readyAt cycle x = b.readyAt cycle y ∧ x.1 ≤ y.1) := by
  have hnumbers : gs.Pairwise (fun x y => x.1 < y.1) := List.pairwise_map.mp hlt
  have lowest : ∀ {x y : Nat × List Path}, x = y ∨ x.1 < y.1 → x.1 ≤ y.1 := fun h => h.elim (fun e => e ▸ Nat.le_refl _) Nat.le_of_lt
  rw [arbiter_eq hgs]
  by_cases hall : ∀ y ∈ gs, b.suppresses cycle y = true
  case pos =>
    obtain ⟨x, hx, hmin, hleast⟩ := exists_minBy?_eq_some (key := b.readyAt cycle) hne hnumbers
    have hnil : gs.filter (fun x => !b.suppresses cycle x) = [] := List.filter_eq_nil_iff.mpr fun y hy => by simp [hall y hy]
    exact ⟨x, hx, by rw [hnil, hmin]; rfl, fun _ => hall, fun y hy _ => (hleast y hy).imp_right (And.imp_right lowest)⟩
  case neg =>
    obtain ⟨z, hz, hzfree⟩ : ∃ z ∈ gs, b.suppresses cycle z = false := by simpa using hall
    have hfree : gs.filter (fun x => !b.suppresses cycle x) ≠ [] := List.ne_nil_of_mem (List.mem_filter.mpr ⟨hz, by simp [hzfree]⟩)
    obtain ⟨x, hx, hmin, hleast⟩ := exists_minBy?_eq_some (key := b.readyAt cycle) hfree (hnumbers.filter _)
    obtain ⟨hxgs, hxfree⟩ := List.mem_filter.mp hx
    have hxfree : b.suppresses cycle x = false := by simpa using hxfree
    refine ⟨x, hxgs, by rw [hmin]; rfl, fun h => by simp [hxfree] at h, fun y hy himp => ?_⟩
    have hyfree : b.suppresses cycle y = false := by simpa [hxfree] using himp
    exact (hleast y (List.mem_filter.mpr ⟨hy, by simp [hyfree]⟩)).imp_right (And.imp_right lowest)

/-! ### The paths chosen (R32, R33) -/

theorem Path.promoted_iff {g : Gang} {p : Path} :
    p.promoted g = true ↔ ∃ l, l < 32 ∧ p.lanes.getLsbD l = true ∧ 64 ≤ (g.lane l).skip := by
  simp [Path.promoted, laneList]

/-- The claim of a path against another: a promoted path is outdone by promoted paths alone and by none at a higher address; one that is not
has the more lanes, or as many at no higher address. -/
theorem Path.before_iff {g : Gang} {p q : Path} : p.before g q = true ↔
    (q.promoted g = true → p.promoted g = true ∧ p.pc.toNat ≤ q.pc.toNat) ∧
    (¬ p.promoted g = true → laneCount q.lanes < laneCount p.lanes ∨
      (laneCount q.lanes = laneCount p.lanes ∧ p.pc.toNat ≤ q.pc.toNat)) := by
  unfold Path.before
  cases hp : p.promoted g <;> cases hq : q.promoted g
  case false.false =>
    simp only [Bool.and_self, Bool.false_eq_true, if_false, false_implies, not_false_eq_true, true_implies, true_and]
    split <;> rw [decide_eq_true_eq] <;> omega
  all_goals simp

theorem Path.before_total (g : Gang) (p q : Path) : p.before g q = true ∨ q.before g p = true := by
  simp only [Path.before_iff]
  by_cases hp : p.promoted g = true
  case pos =>
    rcases Nat.le_total p.pc.toNat q.pc.toNat with hle | hle
    · exact Or.inl ⟨fun _ => ⟨hp, hle⟩, fun h => absurd hp h⟩
    · by_cases hq : q.promoted g = true
      · exact Or.inr ⟨fun _ => ⟨hq, hle⟩, fun h => absurd hq h⟩
      · exact Or.inl ⟨fun h => absurd h hq, fun h => absurd hp h⟩
  case neg =>
    by_cases hq : q.promoted g = true
    · exact Or.inr ⟨fun h => absurd h hp, fun h => absurd hq h⟩
    · have hclaim : (laneCount q.lanes < laneCount p.lanes ∨ (laneCount q.lanes = laneCount p.lanes ∧ p.pc.toNat ≤ q.pc.toNat)) ∨
          (laneCount p.lanes < laneCount q.lanes ∨ (laneCount p.lanes = laneCount q.lanes ∧ q.pc.toNat ≤ p.pc.toNat)) := by omega
      exact hclaim.imp (fun h => ⟨fun h' => absurd h' hq, fun _ => h⟩) (fun h => ⟨fun h' => absurd h' hp, fun _ => h⟩)

theorem Path.before_trans (g : Gang) (p q r : Path) (hpq : p.before g q = true) (hqr : q.before g r = true) : p.before g r = true := by
  simp only [Path.before_iff] at *
  by_cases hr : r.promoted g = true
  case pos =>
    obtain ⟨hq, hqr_pc⟩ := hqr.1 hr
    obtain ⟨hp, hpq_pc⟩ := hpq.1 hq
    exact ⟨fun _ => ⟨hp, Nat.le_trans hpq_pc hqr_pc⟩, fun h => absurd hp h⟩
  case neg =>
    refine ⟨fun h => absurd h hr, fun hp => ?_⟩
    have hq : ¬ q.promoted g = true := fun h => hp (hpq.1 h).1
    have hpq_lanes := hpq.2 hp
    have hqr_lanes := hqr.2 hq
    omega

/-- The two paths with the best claims. -/
def bestPaths (g : Gang) (ps : List Path) : List Path := (sortBy (Path.before g) ps).take 2

theorem choosePaths_perm (g : Gang) (ps : List Path) : (choosePaths g ps).Perm (bestPaths g ps) := sortBy_perm _

theorem bestPaths_sublist (g : Gang) (ps : List Path) : (bestPaths g ps).Sublist (sortBy (Path.before g) ps) := List.take_sublist 2 _

theorem choosePaths_subset (g : Gang) (ps : List Path) : choosePaths g ps ⊆ ps :=
  fun _ hp => (sortBy_perm ps).subset ((bestPaths_sublist g ps).subset ((choosePaths_perm g ps).subset hp))

theorem length_choosePaths (g : Gang) (ps : List Path) : (choosePaths g ps).length = min 2 ps.length := by
  rw [(choosePaths_perm g ps).length_eq, bestPaths, List.length_take, (sortBy_perm ps).length_eq]

theorem choosePaths_nodup (g : Gang) {ps : List Path} (h : ps.Nodup) : (choosePaths g ps).Nodup :=
  (choosePaths_perm g ps).nodup_iff.mpr ((bestPaths_sublist g ps).nodup ((sortBy_perm ps).nodup_iff.mpr h))

theorem choosePaths_ascending (g : Gang) (ps : List Path) : (choosePaths g ps).Pairwise (fun p q => p.pc.toNat ≤ q.pc.toNat) := by
  exact (sortBy_pairwise (fun p q => by simp only [decide_eq_true_eq]; exact Nat.le_total _ _)
    (fun p q r => by simp only [decide_eq_true_eq]; exact Nat.le_trans) (bestPaths g ps)).imp of_decide_eq_true

/-- No path left out has a better claim than a chosen one. -/
theorem before_of_left_out {g : Gang} {ps : List Path} {p q : Path} (hp : p ∈ choosePaths g ps) (hq : q ∈ ps) (hout : q ∉ choosePaths g ps) :
    p.before g q = true := by
  have hsorted : (bestPaths g ps ++ (sortBy (Path.before g) ps).drop 2).Pairwise (fun p q => p.before g q = true) := by
    rw [bestPaths, List.take_append_drop]
    exact sortBy_pairwise (Path.before_total g) (Path.before_trans g) ps
  have hrest : q ∈ (sortBy (Path.before g) ps).drop 2 := by
    have hmem : q ∈ bestPaths g ps ++ (sortBy (Path.before g) ps).drop 2 := by
      rw [bestPaths, List.take_append_drop]
      exact (sortBy_perm ps).mem_iff.mpr hq
    exact (List.mem_append.mp hmem).resolve_left fun h => hout ((choosePaths_perm g ps).mem_iff.mpr h)
  exact (List.pairwise_append.mp hsorted).2.2 p ((choosePaths_perm g ps).mem_iff.mp hp) q hrest

/-! ### The skip counts (R32) -/

theorem Gang.skips_cons (g : Gang) (p : Path) (ps chosen : List Path) : g.skips (p :: ps) chosen =
    (g.modLanes p.lanes (fun _ l => { l with skip := if chosen.contains p then 0 else min (l.skip + 1) 64 })).skips ps chosen := rfl

/-- A lane of no path keeps its count. -/
theorem Gang.lane_skips_of_no_path {ps : List Path} (chosen : List Path) {l : Nat} (h : ∀ p ∈ ps, p.lanes.getLsbD l = false) (g : Gang) :
    (g.skips ps chosen).lane l = g.lane l := by
  induction ps generalizing g with
  | nil => rfl
  | cons p ps ih =>
    obtain ⟨hp, hps⟩ := List.forall_mem_cons.mp h
    rw [Gang.skips_cons, ih hps, g.lane_modLanes_off _ _ l hp]

/-- The count of a path's lane becomes 0 if the path is chosen, and else is one more up to 64. -/
theorem Gang.lane_skips_of_path {ps : List Path} (chosen : List Path) {l : Nat} (hnodup : ps.Nodup)
    (hone : ∀ p ∈ ps, ∀ q ∈ ps, p.lanes.getLsbD l = true → q.lanes.getLsbD l = true → p = q)
    {p : Path} (hp : p ∈ ps) (hl : p.lanes.getLsbD l = true) (g : Gang) (hlen : l < g.lanes.length) :
    (g.skips ps chosen).lane l = { g.lane l with skip := if p ∈ chosen then 0 else min ((g.lane l).skip + 1) 64 } := by
  induction ps generalizing g with
  | nil => cases hp
  | cons q ps ih =>
    obtain ⟨hq, hnodup⟩ := List.nodup_cons.mp hnodup
    rw [Gang.skips_cons]
    rcases List.mem_cons.mp hp with rfl | hp
    · have hrest : ∀ r ∈ ps, r.lanes.getLsbD l = false := fun r hr => Bool.eq_false_iff.mpr fun hrl =>
        hq (hone p List.mem_cons_self r (List.mem_cons_of_mem p hr) hl hrl ▸ hr)
      rw [Gang.lane_skips_of_no_path chosen hrest, g.lane_modLanes _ _ l hlen, if_pos hl]
      simp
    · have hql : q.lanes.getLsbD l = false := Bool.eq_false_iff.mpr fun hql =>
        hq (hone p (List.mem_cons_of_mem q hp) q List.mem_cons_self hl hql ▸ hp)
      rw [ih hnodup (fun r hr t ht => hone r (List.mem_cons_of_mem q hr) t (List.mem_cons_of_mem q ht)) hp _ (by simpa using hlen),
        g.lane_modLanes_off _ _ l hql]

/-- Paths without a common lane: a lane is in one of them. -/
theorem path_unique_of_disjoint {ps : List Path} (hdisj : ∀ p ∈ ps, ∀ q ∈ ps, p ≠ q → p.lanes &&& q.lanes = 0) {l : Nat} :
    ∀ p ∈ ps, ∀ q ∈ ps, p.lanes.getLsbD l = true → q.lanes.getLsbD l = true → p = q := by
  intro p hp q hq hpl hql
  refine Classical.byContradiction fun hne => ?_
  have hand : (p.lanes &&& q.lanes).getLsbD l = true := by simp [hpl, hql]
  simp [hdisj p hp q hq hne] at hand

theorem Gang.lane_skips {g : Gang} {ps chosen : List Path} (hnodup : ps.Nodup)
    (hdisj : ∀ p ∈ ps, ∀ q ∈ ps, p ≠ q → p.lanes &&& q.lanes = 0) (hsub : chosen ⊆ ps) {l : Nat} (hl : l < g.lanes.length) :
    (g.skips ps chosen).lane l = { g.lane l with
      skip := if ∃ p ∈ chosen, p.lanes.getLsbD l = true then 0
        else if ∃ p ∈ ps, p.lanes.getLsbD l = true then min ((g.lane l).skip + 1) 64 else (g.lane l).skip } := by
  have hone := path_unique_of_disjoint hdisj (l := l)
  by_cases hin : ∃ p ∈ ps, p.lanes.getLsbD l = true
  case pos =>
    obtain ⟨p, hp, hpl⟩ := hin
    have hchosen : (∃ q ∈ chosen, q.lanes.getLsbD l = true) ↔ p ∈ chosen :=
      ⟨fun ⟨q, hq, hql⟩ => hone p hp q (hsub hq) hpl hql ▸ hq, fun h => ⟨p, h, hpl⟩⟩
    rw [Gang.lane_skips_of_path chosen hnodup hone hp hpl g hl]
    simp only [hchosen, if_pos (⟨p, hp, hpl⟩ : ∃ p ∈ ps, p.lanes.getLsbD l = true)]
  case neg =>
    have hno : ∀ p ∈ ps, p.lanes.getLsbD l = false := by simpa using hin
    have hchosen : ¬ ∃ p ∈ chosen, p.lanes.getLsbD l = true := fun ⟨p, hp, hpl⟩ => hin ⟨p, hsub hp, hpl⟩
    rw [Gang.lane_skips_of_no_path chosen hno, if_neg hchosen, if_neg hin]

end Sys2Proof.Machine
end

section
/-! PROOFS. The gangs a sub-core may grant, the arbiter's choice, and the paths that issue (R32, R33, R336). -/
namespace Sys2Proof
open Machine

/-- Settles O8: the paths come from adding the free lanes one by one, the grant is a least element, and the two paths chosen are the first
two of the list sorted by claim. -/
theorem theArbiterAndThePathsChosen : Obligations.TheArbiterAndThePathsChosen := by
  refine ⟨fun s n sub gi b ps hready => ?gangs, fun b cycle gs hne hgs hlt => ?grant, fun g ps hlen hnodup hdisj => ?paths⟩
  case gangs =>
    obtain ⟨hsub, hne, g, hg, rfl⟩ := mem_readyGangs.mp hready
    refine ⟨hsub, hne, g, hg, rfl, fun l _ p hp hpl => ?_, fun p hp => (mem_pathsOf.mp hp).2.1, fun p hp => (mem_pathsOf.mp hp).2.2,
      fun l hl hfree hout => ?_⟩
    · obtain ⟨hfree, hpc, hhdr⟩ := Gang.freeAt_of_mem_freePaths (mem_pathsOf.mp hp).1 hpl
      obtain ⟨hexited, hpark, hwait, hfrozen⟩ := Gang.free_iff.mp hfree
      exact ⟨hpc, hexited, hpark, hwait, hfrozen, by rw [← hhdr, beq_iff_eq],
        fun q hq hql => Gang.freePaths_unique (mem_pathsOf.mp hq).1 (mem_pathsOf.mp hp).1 hql hpl⟩
    · refine (cause_of_not_in_pathsOf hl hfree hout).imp_right ?_
      rintro ⟨p, hp, hpl, w, hw, hfull⟩
      refine ⟨p, w, hpl, fun m _ hpm => ?_, hw, hfull⟩
      obtain ⟨hfree, hpc, -⟩ := Gang.freeAt_of_mem_freePaths hp hpm
      exact ⟨hfree, hpc⟩
  case grant =>
    simpa only [Block.suppresses, Block.readyAt, Gang.suppressed_iff] using arbiter_grants (cycle := cycle) hne hgs hlt
  case paths =>
    refine ⟨length_choosePaths g ps, choosePaths_nodup g hnodup, choosePaths_subset g ps, choosePaths_ascending g ps,
      fun p hp q hq hout => ?_, fun l hl => Gang.lane_skips hnodup hdisj (choosePaths_subset g ps) (hlen ▸ hl)⟩
    simpa only [Path.promoted_iff, laneCount, laneList] using Path.before_iff.mp (before_of_left_out hp hq hout)

end Sys2Proof
end

section
/-! SUPPORT. The order-4 checks that fail (R44, R51, R54, R66): which operand, which lane and what detail the trap names. -/

namespace Sys2Proof.Machine

/-- The first element with the least key is the one chosen. -/
theorem minBy?_append_cons {α : Type} {key : α → Nat} {xs zs : List α} {y : α} (hxs : ∀ x ∈ xs, key y < key x) (hzs : ∀ z ∈ zs, key y ≤ key z) :
    minBy? key (xs ++ y :: zs) = some y := by
  induction xs with
  | nil =>
    by_cases hnil : zs = []
    · subst hnil
      rfl
    · obtain ⟨z, hz, hmin, -⟩ := exists_minBy?_eq_some (key := key) hnil (List.pairwise_of_forall (R := fun _ _ => True) fun _ _ => trivial)
      have hle : ¬ key z < key y := Nat.not_lt.mpr (hzs z hz)
      simp [minBy?, hmin, hle]
  | cons x xs ih =>
    obtain ⟨hx, hxs⟩ := List.forall_mem_cons.mp hxs
    simp [minBy?, ih hxs, hx]

/-! ### The operand that fails -/

/-- The allotment register that an indirect operand names in a lane: what its index register holds (R54). -/
def Ctx.index (c : Ctx) (n : Fin 4) (l : Nat) : Nat := ((c.g.lane l).x.getD n.val 0).toNat

theorem Ctx.windowBad_v {c : Ctx} {i : Fin 96} (h : c.blk.cfg.allot ≤ c.g.wb + i.val) : c.windowBad (.v i) = some (c.g.wb + i.val) :=
  if_neg (Nat.not_lt.mpr h)

/-- No operand of a list fails as a window operand, if all its window operands are inside the allotment (R51). -/
theorem Ctx.findSome?_windowBad {c : Ctx} {rs : List Src} (h : ∀ i : Fin 96, Src.v i ∈ rs → c.g.wb + i.val < c.blk.cfg.allot) :
    rs.findSome? c.windowBad = none := by
  refine List.findSome?_eq_none_iff.mpr fun r hr => ?_
  cases r with
  | v i => exact c.windowBad_none (.v i) (h i hr)
  | _ => rfl

/-- An indirect operand fails in the lowest active lane in which its index is past the allotment (R54). -/
theorem Ctx.indirectBad_ix {c : Ctx} {n : Fin 4} {l r : Nat} : c.indirectBad (.ix n) = some (l, r) ↔
    FirstLane c.lanes (fun m => c.blk.cfg.allot ≤ c.index n m) l ∧ r = c.index n l := by
  have hfind : c.indirectBad (.ix n) =
      ((List.range 32).find? (fun m => decide (c.iss.active.getLsbD m = true ∧ c.blk.cfg.allot ≤ c.index n m))).map (fun m => (m, c.index n m)) := by
    simp [Ctx.indirectBad, Ctx.lanes, laneList, Ctx.index, List.find?_map, List.find?_filter]
  simp only [hfind, Option.map_eq_some_iff, Prod.mk.injEq, List.find?_range_eq_some, FirstLane, Ctx.lanes, laneList, List.mem_filter, List.mem_range]
  constructor
  · rintro ⟨m, ⟨hm, hlt, hleast⟩, rfl, rfl⟩
    obtain ⟨hact, hbad⟩ := of_decide_eq_true hm
    exact ⟨⟨⟨hlt, hact⟩, hbad, fun k hk hkm hkbad => by simpa [hk.2, hkbad] using hleast k hkm⟩, rfl⟩
  · rintro ⟨⟨⟨hlt, hact⟩, hbad, hleast⟩, rfl⟩
    refine ⟨l, ⟨decide_eq_true ⟨hact, hbad⟩, hlt, fun m hm => ?_⟩, rfl, rfl⟩
    simpa only [Bool.not_eq_true', decide_eq_false_iff_not, not_and] using fun hmact => hleast m ⟨Nat.lt_trans hm hlt, hmact⟩ hm

/-- An operand that fails as an indirect one is one. -/
theorem Ctx.eq_ix_of_indirectBad {c : Ctx} {r : Src} {p : Nat × Nat} (h : c.indirectBad r = some p) : ∃ n, r = .ix n := by
  cases r with
  | ix n => exact ⟨n, rfl⟩
  | _ => exact absurd h nofun

/-- The failing indirect operands of a list: each is past the allotment in an active lane. -/
theorem Ctx.mem_indirectBad {c : Ctx} {rs : List Src} {p : Nat × Nat} (h : p ∈ rs.filterMap c.indirectBad) :
    ∃ n, Src.ix n ∈ rs ∧ p.1 ∈ c.lanes ∧ c.blk.cfg.allot ≤ c.index n p.1 := by
  obtain ⟨r, hr, hbad⟩ := List.mem_filterMap.mp h
  obtain ⟨n, rfl⟩ := Ctx.eq_ix_of_indirectBad hbad
  obtain ⟨⟨hlane, hidx, -⟩, -⟩ := Ctx.indirectBad_ix.mp hbad
  exact ⟨n, hr, hlane, hidx⟩

/-! ### What the check then answers -/

/-- The first window operand past the allotment is named (R51). -/
theorem Ctx.check_window {c : Ctx} {before after : List Src} {i : Fin 96} {slot : Option Nat}
    (hbefore : ∀ j : Fin 96, Src.v j ∈ before → c.g.wb + j.val < c.blk.cfg.allot) (hi : c.blk.cfg.allot ≤ c.g.wb + i.val) :
    c.check (before ++ .v i :: after) slot = .error { cause := 0x03, lane := c.low, info := c.g.wb + i.val } := by
  have hfirst : (before ++ .v i :: after).findSome? c.windowBad = some (c.g.wb + i.val) := by
    simp [List.findSome?_append, Ctx.findSome?_windowBad hbefore, Ctx.windowBad_v hi]
  simp only [Ctx.check, hfirst]
  rfl

/-- With the window operands inside, the lowest lane is named in which an indirect one fails, and the first that fails there (R54, log
entry 12). -/
theorem Ctx.check_indirect {c : Ctx} {before after : List Src} {n : Fin 4} {l : Nat} {slot : Option Nat}
    (hwindow : ∀ j : Fin 96, Src.v j ∈ before ++ after → c.g.wb + j.val < c.blk.cfg.allot) (hl : l ∈ c.lanes)
    (hbad : c.blk.cfg.allot ≤ c.index n l)
    (hlower : ∀ m : Fin 4, (Src.ix m ∈ before ++ after ∨ m = n) → ∀ l' ∈ c.lanes, l' < l → c.index m l' < c.blk.cfg.allot)
    (hbefore : ∀ m : Fin 4, Src.ix m ∈ before → c.index m l < c.blk.cfg.allot) :
    c.check (before ++ .ix n :: after) slot = .error { cause := 0x03, lane := l, info := c.index n l + 2 ^ 16 } := by
  have hin : (before ++ .ix n :: after).findSome? c.windowBad = none :=
    Ctx.findSome?_windowBad fun j hj => hwindow j (by simpa using hj)
  have hn : c.indirectBad (.ix n) = some (l, c.index n l) :=
    Ctx.indirectBad_ix.mpr ⟨⟨hl, hbad, fun m hm hlt => Nat.not_le.mpr (hlower n (.inr rfl) m hm hlt)⟩, rfl⟩
  have hnever : ∀ rs, rs ⊆ before ++ after → ∀ p ∈ rs.filterMap c.indirectBad, l ≤ p.1 := fun rs hrs p hp => by
    obtain ⟨m, hm, hlane, hpast⟩ := Ctx.mem_indirectBad hp
    exact Nat.not_lt.mp fun hlt => Nat.not_le.mpr (hlower m (.inl (hrs hm)) p.1 hlane hlt) hpast
  have hmin : minBy? (·.1) ((before ++ .ix n :: after).filterMap c.indirectBad) = some (l, c.index n l) := by
    rw [List.filterMap_append, List.filterMap_cons_some hn]
    refine minBy?_append_cons (fun p hp => ?_) (hnever after (List.subset_append_right _ _))
    obtain ⟨m, hm, -, hpast⟩ := Ctx.mem_indirectBad hp
    refine Nat.lt_of_le_of_ne (hnever before (List.subset_append_left _ _) p hp) fun heq => ?_
    exact Nat.not_le.mpr (hbefore m hm) (by simpa only [← heq] using hpast)
  simp only [Ctx.check, hin, hmin]
  rfl

/-- With every operand inside, the slot number decides (R44). -/
theorem Ctx.check_slot {c : Ctx} {rs : List Src} (n : Nat) (h : c.Ok rs) : c.check rs (some n) =
    if n < c.blk.cfg.slots then .ok () else .error { cause := 0x03, lane := c.low, info := n + 2 ^ 17 } := by
  split
  case isTrue hn => exact c.check_slot_ok rs n h hn
  case isFalse hn =>
    have hwindow : rs.findSome? c.windowBad = none := List.findSome?_eq_none_iff.mpr fun r hr => c.windowBad_none r (h r hr)
    have hindirect : rs.filterMap c.indirectBad = [] := List.filterMap_eq_nil_iff.mpr fun r hr => c.indirectBad_none r (h r hr)
    simp [Ctx.check, hwindow, hindirect, minBy?, hn, Cause.registerBounds]

/-- A word whose check fails raises the trap of the check (R66). -/
theorem gangWord_error {s : State} {c : Ctx} {chk : Ctx → Except Trap Unit} {f : Ctx → Gang} {t : Trap} (h : ctx? s = some c)
    (hc : chk c = .error t) : gangWord s chk f = .next (s.trap t) := by
  simp [gangWord, withCtx_some s c _ h, hc]

end Sys2Proof.Machine
end

section
/-! PROOFS. Operands outside the allotment (R44, R51, R54). -/
namespace Sys2Proof
open Machine

/-- Settles O16: the check names the first window operand that fails, else the first of the indirect ones that fail in the lowest lane, else
the slot; the words of two sources and `mov` answer its trap. -/
theorem operandsOutsideTheAllotmentTrap : Obligations.OperandsOutsideTheAllotmentTrap := fun _ _ hctx =>
  ⟨fun _ _ _ _ hbefore hi => Ctx.check_window hbefore hi,
    fun _ _ _ _ _ hwindow hl hbad hlower hbefore => Ctx.check_indirect hwindow hl hbad hlower hbefore,
    fun _ n hok => Ctx.check_slot n hok,
    fun _ _ _ _ _ ht => ⟨gangWord_error hctx ht, gangWord_error hctx ht⟩,
    fun _ _ _ ht => gangWord_error hctx ht⟩

end Sys2Proof
end

section
/-! SUPPORT. The window and index words (R52, R68): when a new base is taken and when it is refused, and the words of major opcode 0xE9 that are no
instruction. -/

namespace Sys2Proof.Machine

/-- A legal window base (R52). -/
def Ctx.LegalBase (c : Ctx) (nb : Int) : Prop :=
  0 ≤ nb ∧ nb % 16 = 0 ∧ nb + min 96 (c.blk.cfg.allot : Int) ≤ c.blk.cfg.allot

section
variable {s : State} {c : Ctx} {i : Instr} {nb : Ctx → Int} (h : ctx? s = some c) (hexec : exec i s = windowWord s nb)
include h hexec

/-- A window word goes on with the new base where it is legal (R52, R68). -/
theorem windowWord_goesOn (hlegal : c.LegalBase (nb c)) : GoesOn s i { c.g with wb := (nb c).toNat } := by
  obtain ⟨hpos, -, hend⟩ := hlegal
  exact hexec.trans (gangWord_ok s c _ _ h (if_neg (by omega)))

/-- A window word to a multiple of 16 that is not legal raises window-bounds (R52, R68). -/
theorem windowWord_traps (hmod : nb c % 16 = 0) (hillegal : ¬ c.LegalBase (nb c)) :
    Traps s i { cause := 0x04, lane := lowLane c.iss.active, info := (BitVec.ofInt 16 (nb c)).toNat } := by
  rw [Ctx.LegalBase] at hillegal
  rw [← lowBits_eq]
  exact hexec.trans (gangWord_error h (if_pos (by omega)))

end

end Sys2Proof.Machine

namespace Sys2Proof

theorem zeroField_bind {α : Type} {n : Nat} (h : n ≠ 0) (k : Unit → Except Reject α) : (zeroField n >>= k) = .error .reservedField := by
  rw [zeroField, if_neg h]
  rfl

theorem fin4Field_bind {α : Type} {n : Nat} (h : 4 ≤ n) (k : Fin 4 → Except Reject α) : (fin4Field n >>= k) = .error .badFieldValue := by
  rw [fin4Field, dif_neg (by omega)]
  rfl

/-- A word whose fields the decoder of the system words rejects is no instruction. -/
theorem decodes_none_of_decodeSystem {w : Nat} {e : Reject} (hop : opOf w = 0xE9) (h : decodeSystem w = .error e) : decodes w = none := by
  have hfields : decodeFields w = .error e := by simp [decodeFields, hop, h]
  simp [decodes, decodeWord, hfields]

/-- A reserved field that is not zero, of `winb` and `winb.rel` (R68). -/
theorem decodeSystem_window {w : Nat} (hop : opOf w = 0xE9) (hfn : iFn w < 2) (h : iD w ≠ 0 ∨ iA w ≠ 0) :
    decodeSystem w = .error .reservedField := by
  have hzero {i : Instr} : (do zeroField (iD w); zeroField (iA w); pure i) = Except.error Reject.reservedField := by
    by_cases hd : iD w = 0
    · simp only [hd, zeroField_bind (h.resolve_left (not_not_intro hd))]
      rfl
    · exact zeroField_bind hd _
  obtain hfn | hfn : iFn w = 0 ∨ iFn w = 1 := by omega
  · simpa only [decodeSystem, hop, hfn] using hzero
  · simpa only [decodeSystem, hop, hfn] using hzero

/-- `xset` of an index register past the last (R68). -/
theorem decodeSystem_xset {w : Nat} (hop : opOf w = 0xE9) (hfn : iFn w = 2) (h : 4 ≤ iD w) : decodeSystem w = .error .badFieldValue := by
  simpa only [decodeSystem, hop, hfn] using fin4Field_bind h _

/-- `xget` of an index register past the last, or with a reserved field that is not zero (R68). -/
theorem decodeSystem_xget {w : Nat} (hop : opOf w = 0xE9) (hfn : iFn w = 3) (h : 4 ≤ iA w ∨ iImm w ≠ 0) :
    ∃ e, decodeSystem w = .error e := by
  simp only [decodeSystem, hop, hfn]
  cases dstField (iD w) with
  | error e => exact ⟨e, rfl⟩
  | ok d =>
    by_cases ha : 4 ≤ iA w
    · exact ⟨_, fin4Field_bind ha _⟩
    · obtain ⟨n, hn⟩ : ∃ n, fin4Field (iA w) = .ok n := ⟨_, dif_pos (Nat.lt_of_not_le ha)⟩
      rw [hn]
      exact ⟨_, zeroField_bind (h.resolve_left ha) _⟩

end Sys2Proof
end

section
/-! PROOFS. The window and index words (R52, R68). -/
namespace Sys2Proof
open Machine

/-- Settles O25: a window word's outcome turns on whether the new base is legal, the index words are gang words with the check of their
operand, and each encoding that is none fails at its first bad field. -/
theorem windowAndIndexWords : Obligations.WindowAndIndexWords := by
  intro s c i n d a hctx
  refine ⟨⟨fun hlegal => ⟨windowWord_goesOn (nb := fun _ => 16 * i.toNat) hctx rfl hlegal, fun _ _ => rfl⟩,
      windowWord_traps (nb := fun _ => 16 * i.toNat) hctx rfl (Int.mul_emod_right 16 _)⟩,
    fun ⟨_, hmod, _⟩ => ⟨fun hlegal => ⟨windowWord_goesOn (nb := fun c => c.g.wb + 16 * i.toInt) hctx rfl hlegal, fun _ _ => rfl⟩,
      windowWord_traps (nb := fun c => c.g.wb + 16 * i.toInt) hctx rfl (by omega)⟩,
    fun hok => ?xset, fun hok => gangWord_ok s c _ _ hctx (c.check_ok _ hok), fun _ he => gangWord_error hctx he,
    fun _ he => gangWord_error hctx he, by decide, fun w hw => ?encodings⟩
  case xset =>
    have hmod (k : Nat) : BitVec.ofNat 10 (k % 1024) = BitVec.ofNat 10 k := BitVec.eq_of_toNat_eq (by simp)
    simp only [hmod]
    exact gangWord_ok s c _ _ hctx (c.check_ok _ hok)
  case encodings =>
    have hop : opOf w = 0xE9 := by rw [opOf, hw]
    refine ⟨fun hfn h => ?_, fun hfn h => ?_, fun hfn h => ?_⟩
    · exact decodes_none_of_decodeSystem hop (decodeSystem_window hop hfn h)
    · exact decodes_none_of_decodeSystem hop (decodeSystem_xset hop hfn h)
    · obtain ⟨e, he⟩ := decodeSystem_xget hop hfn h
      exact decodes_none_of_decodeSystem hop he

end Sys2Proof
end

section
/-! SUPPORT. Lanes that go on and lanes that are held (R32, R39, R49): what `hold`, `unhold` and `release` do to each lane and to the gang's
list of held words. -/

namespace Sys2Proof.Machine

/-- Settling leaves the held words (R39). -/
@[simp] theorem Gang.settle_held (g : Gang) : g.settle.held = g.held := by rw [g.settle_eq]

@[simp] theorem Gang.length_advance (g : Gang) (iss : Issue) (act : LaneBits) : (g.advance iss act).lanes.length = g.lanes.length := by
  simp [Gang.advance]

/-! ### Holding a word -/

theorem Gang.hold_eq (g : Gang) (iss : Issue) (act : LaneBits) (kind : HeldKind) : g.hold iss act kind =
    { g with lanes := (g.hold iss act kind).lanes, held := g.held ++ [⟨g.nextId, iss, act, kind⟩], nextId := g.nextId + 1
             flags := (g.hold iss act kind).flags, clauses := (g.hold iss act kind).clauses } := by
  unfold Gang.hold
  rw [Gang.settle_eq]
  rfl

@[simp] theorem Gang.length_hold (g : Gang) (iss : Issue) (act : LaneBits) (kind : HeldKind) :
    (g.hold iss act kind).lanes.length = g.lanes.length := by
  simp [Gang.hold]

/-- The lanes of a held word wait under its number (R32). -/
theorem Gang.lane_hold (g : Gang) (iss : Issue) (act : LaneBits) (kind : HeldKind) {l : Nat} (hl : l < g.lanes.length) :
    (g.hold iss act kind).lane l = if act.getLsbD l then { g.lane l with wait := some g.nextId } else g.lane l := by
  rw [Gang.hold, Gang.settle_lane, Gang.lane_modLanes _ _ _ _ (by exact hl)]
  rfl

/-! ### Letting a held word's lanes issue again -/

theorem Gang.unhold_eq (g : Gang) (id : Nat) (act : LaneBits) :
    g.unhold id act = { g with lanes := (g.unhold id act).lanes, held := (g.unhold id act).held } := rfl

@[simp] theorem Gang.length_unhold (g : Gang) (id : Nat) (act : LaneBits) : (g.unhold id act).lanes.length = g.lanes.length := by
  simp [Gang.unhold]

theorem Gang.lane_unhold (g : Gang) (id : Nat) (act : LaneBits) {l : Nat} (hl : l < g.lanes.length) : (g.unhold id act).lane l =
    if act.getLsbD l ∧ (g.lane l).wait = some id then { g.lane l with wait := none } else g.lane l := by
  have h : (g.unhold id act).lane l = if act.getLsbD l then (if (g.lane l).wait = some id then { g.lane l with wait := none } else g.lane l)
      else g.lane l := g.lane_modLanes act _ l hl
  by_cases hact : act.getLsbD l = true
  case pos => simp only [h, hact, true_and, if_true]
  case neg => simp only [h, hact, false_and, if_false, Bool.false_eq_true]

/-- The held words after: those before, the word numbered `id` without the lanes given, and none without lanes. -/
theorem Gang.mem_unhold_held {g : Gang} {id : Nat} {act : LaneBits} {x : Held} : x ∈ (g.unhold id act).held ↔
    x.lanes ≠ 0 ∧ ∃ y ∈ g.held, (if y.id = id then { y with lanes := y.lanes &&& ~~~act } else y) = x := by
  simp [Gang.unhold, Gang.modLanes, List.mem_filter, and_comm]

/-! ### Releasing lanes of a held word -/

section
variable {g : Gang} {id : Nat} {w : Held} (hw : g.heldOf id = some w) (act : LaneBits)
include hw

/-- Lanes of a held word are freed, moved on and taken from the word's. -/
theorem Gang.release_of_heldOf : g.release id act =
    ((g.unhold id (act &&& w.lanes)).modLanes (act &&& w.lanes) (fun _ l => l.next w.iss.addr w.iss.words)).settle := by
  simp only [Gang.release, hw]

theorem Gang.release_eq : g.release id act =
    { g with lanes := (g.release id act).lanes, held := (g.release id act).held
             flags := (g.release id act).flags, clauses := (g.release id act).clauses } := by
  rw [Gang.release_of_heldOf hw, Gang.settle_eq]
  rfl

theorem Gang.release_held : (g.release id act).held = (g.unhold id (act &&& w.lanes)).held := by
  rw [Gang.release_of_heldOf hw, Gang.settle_held]
  rfl

theorem Gang.length_release : (g.release id act).lanes.length = g.lanes.length := by
  simp [Gang.release_of_heldOf hw]

theorem Gang.lane_release {l : Nat} (hl : l < g.lanes.length) : (g.release id act).lane l =
    if (act &&& w.lanes).getLsbD l then
      { (g.lane l).next w.iss.addr w.iss.words with wait := if (g.lane l).wait = some id then none else (g.lane l).wait }
    else g.lane l := by
  rw [Gang.release_of_heldOf hw, Gang.settle_lane, Gang.lane_modLanes _ _ _ _ (by simpa using hl), Gang.lane_unhold _ _ _ hl]
  by_cases hgone : (act &&& w.lanes).getLsbD l
  case pos =>
    by_cases hwait : (g.lane l).wait = some id <;> simp [hgone, hwait, Lane.next]
  case neg => simp only [hgone, false_and, if_false, Bool.false_eq_true]

end

/-! ### The word being issued goes on -/

/-- After a word its gang stands in its block, and nothing else has changed. -/
theorem State.setGang_frame {s : State} {c gi : Nat} {b : Block} {g : Gang} (hb : s.block? c = some b) :
    (∀ n, n ≠ c → (s.setGang c gi g).core n = s.core n) ∧ s.setGang c gi g = { s with cores := (s.setGang c gi g).cores } := by
  rw [s.setGang_of c gi g b hb]
  exact ⟨fun n hn => (s.core_setCore c n _ (s.lt_of_block? c b hb)).trans (if_neg hn), rfl⟩

end Sys2Proof.Machine
end

section
/-! PROOFS. Words that go on, are held and are released (R32, R39, R49). -/
namespace Sys2Proof
open Machine

/-- Settles O14: going on, holding, releasing and letting issue again are changes of lanes, each followed by settling but the last. -/
theorem wordsGoOnOrAreHeld : Obligations.WordsGoOnOrAreHeld := by
  refine ⟨fun s c g hctx => ?retire, fun g iss act kind id => ⟨?hold, fun w hw => ?release, ?unhold⟩⟩
  case retire =>
    obtain ⟨hblk, hgang, hiss⟩ := ctx?_some s c hctx
    obtain ⟨hcores, hrest⟩ := State.setGang_frame (gi := s.cur.gang) (g := g.advance s.cur s.cur.active) hblk
    have hg : s.gang? s.cur.core s.cur.gang = some c.g := by simp [State.gang?, hblk, hgang]
    rw [hiss, State.retire_eq]
    exact ⟨_, rfl, g.advance_eq _ _, fun l hl => g.lane_advance _ _ l hl, by rw [s.block?_setGang _ _ _ _ _ hblk, if_pos rfl]; rfl,
      s.gang?_setGang _ _ _ _ hg, hcores, hrest⟩
  case hold => exact ⟨g.hold_eq iss act kind, g.length_hold iss act kind, fun l hl => g.lane_hold iss act kind hl⟩
  case unhold => exact ⟨g.unhold_eq id act, fun l hl => g.lane_unhold id act hl⟩
  case release =>
    refine ⟨Gang.release_eq hw act, Gang.length_release hw act, fun x hx => ?left, fun x hx hid hlanes => ?kept,
      fun l hl => Gang.lane_release hw act hl⟩
    case left =>
      obtain ⟨hlanes, y, -, rfl⟩ := Gang.mem_unhold_held.mp (Gang.release_held hw act ▸ hx)
      refine ⟨hlanes, fun hid => ?_⟩
      by_cases hy : y.id = id
      · simp [hy, BitVec.and_assoc]
      · simp [hy] at hid
    case kept =>
      rw [Gang.release_held hw]
      exact Gang.mem_unhold_held.mpr ⟨hlanes, x, hx, if_neg hid⟩

end Sys2Proof
end

section
/-! SUPPORT. Packed sub-elements and mask bits (R50, R55, R63, R155): a register packed from its sub-elements reads back, and a compare
changes the bits of its own elements. -/

namespace Sys2Proof.Machine

/-! ### Sub-elements of a register -/

/-- A register is made of its sub-elements (R50). -/
theorem bits_mul_elems (w : Width) : w.bits * w.elems = 64 := by cases w <;> rfl

theorem packElems_lt (w : Width) (xs : List Nat) : packElems w xs < 2 ^ (w.bits * xs.length) := by
  induction xs with
  | nil => simp [packElems]
  | cons x xs ih =>
    have hx : x % 2 ^ w.bits < 2 ^ w.bits := Nat.mod_lt _ (Nat.two_pow_pos _)
    calc packElems w (x :: xs) < 2 ^ w.bits * (packElems w xs + 1) := by rw [packElems, Nat.mul_succ]; omega
      _ ≤ 2 ^ w.bits * 2 ^ (w.bits * xs.length) := Nat.mul_le_mul_left _ ih
      _ = 2 ^ (w.bits * (x :: xs).length) := by rw [List.length_cons, Nat.mul_succ, Nat.pow_add, Nat.mul_comm]

/-- A sub-element of packed values is the value packed there, narrowed to the width (R7, R50). -/
theorem packElems_elem (w : Width) (xs : List Nat) (e : Nat) : packElems w xs / 2 ^ (w.bits * e) % 2 ^ w.bits = xs.getD e 0 % 2 ^ w.bits := by
  induction xs generalizing e with
  | nil => simp [packElems]
  | cons x xs ih =>
    cases e with
    | zero => simp [packElems]
    | succ e =>
      have htail : packElems w (x :: xs) / 2 ^ w.bits = packElems w xs := by
        rw [packElems, Nat.add_mul_div_left _ _ (Nat.two_pow_pos _), Nat.div_eq_of_lt (Nat.mod_lt _ (Nat.two_pow_pos _)), Nat.zero_add]
      rw [Nat.mul_succ, Nat.add_comm, Nat.pow_add, ← Nat.div_div_eq_div_mul, htail, ih, List.getD_cons_succ]

/-- A register packed from as many values as it has sub-elements reads each of them back. -/
theorem subElem_packElems (w : Width) {xs : List Nat} (hlen : xs.length = w.elems) (e : Nat) :
    subElem w (BitVec.ofNat 64 (packElems w xs)) e = xs.getD e 0 % 2 ^ w.bits := by
  have hlt : packElems w xs < 2 ^ 64 := by simpa only [hlen, bits_mul_elems w] using packElems_lt w xs
  rw [subElem, BitVec.toNat_ofNat, Nat.mod_eq_of_lt hlt, packElems_elem]

/-! ### The destination of an element-wise word -/

/-- A destination that names a register reads, as a source, that register (R53, R54). -/
theorem Ctx.read_src {c : Ctx} {l r : Nat} {d : Dst} (h : c.g.dstIndex l d = some r) : c.read l d.src = regGet (c.g.lane l).regs r := by
  cases d with
  | z => exact absurd h nofun
  | _ =>
    cases h
    rfl

/-- An enabled sub-element takes its result, a disabled one is zeroed or kept (R63). -/
theorem Ctx.subElem_elemResult {c : Ctx} {w : Width} {d : Dst} {f : Nat → Nat → Nat} (l : Nat) {e : Nat} (hf : f l e < 2 ^ w.bits)
    (he : e < w.elems) : subElem w (c.elemResult w d f l) e =
      if c.en l (w.bytes * e) then f l e else if c.zeroing then 0 else c.elem w d.src l e := by
  have hlt : (if c.en l (w.bytes * e) then f l e else if c.zeroing then 0 else c.elem w d.src l e) < 2 ^ w.bits := by
    split
    · exact hf
    · split
      · exact Nat.two_pow_pos w.bits
      · exact c.elem_lt w d.src l e
  rw [Ctx.elemResult, subElem_packElems w (by simp)]
  simp [he, Nat.mod_eq_of_lt hlt]

theorem Ctx.lane_writeElems {c : Ctx} {w : Width} {d : Dst} {f : Nat → Nat → Nat} {l : Nat} (hl : l < c.g.lanes.length) :
    (c.writeElems w d f).lane l =
      if c.iss.active.getLsbD l then (c.g.lane l).write c.g.wb d (c.elemResult w d f l) else c.g.lane l :=
  c.g.lane_writeDst _ _ _ l hl

/-! ### Mask bits -/

/-- Bit `b` of lane `l` belongs to the element whose bytes hold byte `b`, and to no other (R55). -/
theorem getLsbD_elemMask {w : Width} {l b m e : Nat} (hl : l < 32) (hb : b < 8) (he : e < w.elems) :
    (elemMask w m e).getLsbD (8 * l + b) = decide ((m, e) = (l, b / w.bytes)) := by
  rw [elemMask, BitVec.getLsbD_ofNat, Nat.testBit_mul_two_pow, Nat.testBit_two_pow_sub_one, Bool.eq_iff_iff]
  simp only [Bool.and_eq_true, decide_eq_true_eq, Prod.mk.injEq]
  cases w <;> simp only [Width.bytes, Width.elems] at he ⊢ <;> omega

theorem Ctx.mem_elements {c : Ctx} {w : Width} {l e : Nat} : (l, e) ∈ c.elements w ↔ (l < 32 ∧ c.iss.active.getLsbD l = true) ∧ e < w.elems := by
  simp [Ctx.elements, Ctx.lanes, laneList]

/-- What a compare does to the mask for one element (R155, R169). -/
def Ctx.compareStep (c : Ctx) (w : Width) (p : Nat → Nat → Bool) (m : MaskBits) (x : Nat × Nat) : MaskBits :=
  if c.en x.1 (w.bytes * x.2) then
    if p x.1 x.2 then m ||| elemMask w x.1 x.2 else m &&& ~~~elemMask w x.1 x.2
  else m

theorem Ctx.compared_eq (c : Ctx) (w : Width) (old : MaskBits) (p : Nat → Nat → Bool) :
    c.compared w old p = (c.elements w).foldl (c.compareStep w p) old := rfl

/-- An element's step writes the bits of the element, if it is enabled, and no other. -/
theorem Ctx.getLsbD_compareStep {c : Ctx} {w : Width} {p : Nat → Nat → Bool} {m : MaskBits} {x : Nat × Nat} {l b : Nat} (hl : l < 32)
    (hb : b < 8) (hx : x.2 < w.elems) : (c.compareStep w p m x).getLsbD (8 * l + b) =
      if x = (l, b / w.bytes) ∧ c.en l (w.bytes * (b / w.bytes)) then p l (b / w.bytes) else m.getLsbD (8 * l + b) := by
  have hmask : (elemMask w x.1 x.2).getLsbD (8 * l + b) = decide (x = (l, b / w.bytes)) := getLsbD_elemMask hl hb hx
  have hbit : 8 * l + b < 256 := by omega
  by_cases hown : x = (l, b / w.bytes)
  case pos =>
    subst hown
    simp only [Ctx.compareStep, true_and]
    by_cases hen : c.en l (w.bytes * (b / w.bytes)) = true
    · rw [if_pos hen, if_pos hen]
      split
      case isTrue hp => rw [BitVec.getLsbD_or, hmask, hp, decide_eq_true rfl, Bool.or_true]
      case isFalse hp =>
        rw [BitVec.getLsbD_and, BitVec.getLsbD_not, hmask, Bool.eq_false_iff.mpr hp, decide_eq_true (p := _ = _) rfl, Bool.not_true,
          Bool.and_false, Bool.and_false]
    · rw [if_neg hen, if_neg hen]
  case neg =>
    rw [if_neg fun h => hown h.1, Ctx.compareStep]
    split
    · split
      · rw [BitVec.getLsbD_or, hmask, decide_eq_false hown, Bool.or_false]
      · rw [BitVec.getLsbD_and, BitVec.getLsbD_not, hmask, decide_eq_false hown, decide_eq_true hbit, Bool.not_false, Bool.and_true, Bool.and_true]
    · rfl

/-- After the steps of a list of elements a bit holds its element's relation, if the element is in the list and enabled. -/
theorem Ctx.getLsbD_foldl_compareStep {c : Ctx} {w : Width} {p : Nat → Nat → Bool} {l b : Nat} (hl : l < 32) (hb : b < 8)
    {xs : List (Nat × Nat)} (hxs : ∀ x ∈ xs, x.2 < w.elems) (m : MaskBits) : (xs.foldl (c.compareStep w p) m).getLsbD (8 * l + b) =
      if (l, b / w.bytes) ∈ xs ∧ c.en l (w.bytes * (b / w.bytes)) then p l (b / w.bytes) else m.getLsbD (8 * l + b) := by
  induction xs generalizing m with
  | nil => simp
  | cons x xs ih =>
    obtain ⟨hx, hxs⟩ := List.forall_mem_cons.mp hxs
    rw [List.foldl_cons, ih hxs, Ctx.getLsbD_compareStep hl hb hx]
    simp only [List.mem_cons, eq_comm (a := x)]
    by_cases hen : c.en l (w.bytes * (b / w.bytes)) = true
    case neg => simp only [hen, and_false, if_false, Bool.false_eq_true]
    case pos =>
      simp only [hen, and_true]
      by_cases hin : (l, b / w.bytes) ∈ xs
      · simp only [hin, or_true, if_true]
      · simp only [hin, or_false, if_false]

/-- The byte of a lane lies in one of its elements (R50). -/
theorem div_bytes_lt_elems (w : Width) {b : Nat} (hb : b < 8) : b / w.bytes < w.elems := by
  cases w <;> simp only [Width.bytes, Width.elems] <;> omega

theorem Ctx.getLsbD_compared (c : Ctx) (w : Width) (old : MaskBits) (p : Nat → Nat → Bool) {l b : Nat} (hl : l < 32) (hb : b < 8) :
    (c.compared w old p).getLsbD (8 * l + b) =
      if c.iss.active.getLsbD l && c.en l (w.bytes * (b / w.bytes)) then p l (b / w.bytes) else old.getLsbD (8 * l + b) := by
  rw [Ctx.compared_eq, Ctx.getLsbD_foldl_compareStep hl hb fun x hx => (Ctx.mem_elements.mp hx).2]
  simp [Ctx.mem_elements, hl, div_bytes_lt_elems w hb]

end Sys2Proof.Machine
end

section
/-! PROOFS. What a word writes of its elements and of a mask (R53 to R55, R63, R155, R169). -/
namespace Sys2Proof
open Machine

/-- Settles O13: the destination takes the packed results, whose sub-elements read back, and each mask bit is written by the step of its own
element alone. -/
theorem elementAndMaskWritesOfAWord : Obligations.ElementAndMaskWritesOfAWord := by
  refine ⟨fun c w d f l hl => ?elements, fun c w old p l b hl hb => c.getLsbD_compared w old p hl hb⟩
  have hlane := Ctx.lane_writeElems (c := c) (w := w) (d := d) (f := fun l e => (f l e).toNat) hl
  refine ⟨rfl, Gang.length_modLanes .., fun hoff => ?inactive, fun hon => ?active, fun _ => ⟨rfl, rfl⟩, fun _ => rfl, rfl, rfl, rfl, rfl,
    fun _ => ⟨rfl, rfl⟩⟩
  case inactive => rw [hlane, hoff, if_neg Bool.false_ne_true]
  case active =>
    rw [if_pos hon] at hlane
    rw [hlane]
    refine ⟨Lane.write_eq .., fun r hr => ?other, fun r hr e he => ?named⟩
    case other => rw [Gang.regGet_write, if_neg hr]
    case named =>
      rw [Gang.regGet_write, if_pos hr, Ctx.subElem_elemResult l (f l e).isLt he, Ctx.elem, Ctx.read_src hr]

end Sys2Proof
end

section
/-! SUPPORT. Floating point (R79 to R83): the pairs of a significand and an exponent that a format represents, what `val` reads of a
bit pattern and `round` gives of an exact value, the order of two values as that of numbers, and the roundings to an integer. -/

namespace Sys2Proof.Machine

/-! ### What a NaN and a zero do in the operations on values (R80) -/

@[simp] theorem FVal.nan_add (rm : RMode) (v : FVal) : FVal.nan.add rm v = .nan := rfl
@[simp] theorem FVal.add_nan (rm : RMode) (v : FVal) : v.add rm .nan = .nan := by cases v <;> rfl
@[simp] theorem FVal.nan_mul (v : FVal) : FVal.nan.mul v = .nan := rfl
@[simp] theorem FVal.mul_nan (v : FVal) : v.mul .nan = .nan := by cases v <;> rfl
@[simp] theorem FVal.nan_lt (v : FVal) : FVal.nan.lt v = false := rfl
@[simp] theorem FVal.lt_nan (v : FVal) : v.lt .nan = false := by cases v <;> rfl
@[simp] theorem FVal.negate_nan : FVal.nan.negate = .nan := rfl
@[simp] theorem FVal.isNan_nan : FVal.nan.isNan = true := rfl
@[simp] theorem FVal.isNan_inf (n : Bool) : (FVal.inf n).isNan = false := rfl
@[simp] theorem FVal.isNan_fin (n : Bool) (m : Nat) (e : Int) : (FVal.fin n m e).isNan = false := rfl
@[simp] theorem FloatFmt.ofVal_nan (f : FloatFmt) (rm : RMode) (sat : Bool) : f.ofVal rm sat .nan = f.nan := rfl

theorem FVal.isNan_iff {v : FVal} : v.isNan = true ↔ v = .nan := by cases v <;> simp

theorem FVal.lt_inf_iff {v : FVal} {n : Bool} : v.lt (.inf n) = true ↔ n = false ∧ v ≠ .inf false ∧ v ≠ .nan := by
  cases v <;> simp [FVal.lt, and_comm]

theorem FVal.inf_lt_iff {v : FVal} {n : Bool} : (FVal.inf n).lt v = true ↔ n = true ∧ v ≠ .inf true ∧ v ≠ .nan := by
  cases v <;> simp [FVal.lt]

/-- The exact sum of a finite value and its negation is a zero with the sign of R80. -/
theorem FVal.fin_add_negate (rm : RMode) (n : Bool) (m : Nat) (e : Int) :
    (FVal.fin n m e).add rm (FVal.fin n m e).negate = .fin (rm == .rd) 0 0 := by
  have hneg : signedNat (!n) m = -signedNat n m := by cases n <;> simp [signedNat]
  simp only [FVal.add, FVal.negate, hneg, Int.neg_mul, Int.add_right_neg, Bool.eq_not_self, and_false, if_true, if_false]

theorem FloatFmt.round_zero (f : FloatFmt) (rm : RMode) (sat n : Bool) (e : Int) : f.round rm sat n 0 e = f.signed n 0 := by
  simp [FloatFmt.round]

/-! ### Bit patterns -/

/-- What the formats of R79, R81 and R82 share: the magnitudes up to the largest finite one are those of finite values, and leave
room for the sign. -/
structure FloatFmt.Regular (f : FloatFmt) : Prop where
  width_pos : 0 < f.width
  prec_pos : 0 < f.prec
  maxFinite_lt : f.maxFinite < 2 ^ (f.width - 1)
  finite_iff (mag : Nat) : mag ≤ f.maxFinite ↔ mag < f.nanFrom ∧ f.inf ≠ some mag

theorem FloatFmt.regular_of_mem {f : FloatFmt} (hf : f ∈ [fmtF32, fmtBf16, fmtE4m3, fmtE5m2]) : f.Regular := by
  simp only [List.mem_cons, List.not_mem_nil, or_false] at hf
  obtain rfl | rfl | rfl | rfl := hf <;>
    exact ⟨by decide, by decide, by decide, fun mag => by simp [fmtF32, fmtBf16, fmtE4m3, fmtE5m2]; omega⟩

theorem regular_floatFmt (t : FFmt) : (floatFmt t).Regular := FloatFmt.regular_of_mem (by cases t <;> simp [floatFmt])

/-- The sign bit of a bit pattern is set. -/
def FloatFmt.sign (f : FloatFmt) (x : Nat) : Bool := decide (x / 2 ^ (f.width - 1) % 2 = 1)

/-- A bit pattern of the format's width is its sign and its magnitude. -/
theorem FloatFmt.signed_sign_mag {f : FloatFmt} (hf : f.Regular) {x : Nat} (hx : x < 2 ^ f.width) : f.signed (f.sign x) (f.mag x) = x := by
  have hwidth : 2 ^ f.width = 2 ^ (f.width - 1) * 2 := by rw [← Nat.pow_succ, Nat.succ_eq_add_one, Nat.sub_add_cancel hf.width_pos]
  have hbit : x / 2 ^ (f.width - 1) < 2 := Nat.div_lt_of_lt_mul (hwidth ▸ hx)
  have hdiv := Nat.div_add_mod x (2 ^ (f.width - 1))
  rw [FloatFmt.signed, FloatFmt.sign, FloatFmt.mag]
  generalize x % 2 ^ (f.width - 1) = mag at hdiv ⊢
  generalize x / 2 ^ (f.width - 1) = bit at hbit hdiv ⊢
  obtain rfl | rfl : bit = 0 ∨ bit = 1 := by omega
  · simpa using hdiv
  · simpa using hdiv

theorem FloatFmt.mag_signed {f : FloatFmt} {mag : Nat} (hmag : mag < 2 ^ (f.width - 1)) (n : Bool) : f.mag (f.signed n mag) = mag := by
  cases n <;> simp [FloatFmt.mag, FloatFmt.signed, Nat.mod_eq_of_lt hmag]

theorem FloatFmt.sign_signed {f : FloatFmt} {mag : Nat} (hmag : mag < 2 ^ (f.width - 1)) (n : Bool) : f.sign (f.signed n mag) = n := by
  cases n <;> simp [FloatFmt.sign, FloatFmt.signed, Nat.add_div_left _ (Nat.two_pow_pos _), Nat.div_eq_of_lt hmag]

/-- The value of a bit pattern, by its sign and its magnitude. -/
theorem FloatFmt.val_eq (f : FloatFmt) (x : Nat) : f.val x =
    if f.nanFrom ≤ f.mag x then .nan
    else if f.inf = some (f.mag x) then .inf (f.sign x)
    else if f.mag x < 2 ^ (f.prec - 1) then .fin (f.sign x) (f.mag x) f.qmin
    else .fin (f.sign x) (2 ^ (f.prec - 1) + f.mag x % 2 ^ (f.prec - 1)) (f.qmin + ((f.mag x / 2 ^ (f.prec - 1) - 1 : Nat) : Int)) := rfl

theorem FloatFmt.inf_of_val {f : FloatFmt} {x : Nat} {n : Bool} (h : f.val x = .inf n) : f.inf = some (f.mag x) ∧ n = f.sign x := by
  rw [f.val_eq] at h
  split at h
  · cases h
  · split at h
    case isTrue hinf => exact ⟨hinf, (FVal.inf.inj h).symm⟩
    case isFalse => split at h <;> cases h

/-! ### The values a format represents -/

/-- The magnitude of a bit pattern for `k × 2^q` (R79): a subnormal one has the lowest exponent. -/
def FloatFmt.pack (f : FloatFmt) (k : Nat) (q : Int) : Nat := (q - f.qmin).toNat * 2 ^ (f.prec - 1) + k

theorem FloatFmt.pack_qmin_add (f : FloatFmt) (k d : Nat) : f.pack k (f.qmin + d) = d * 2 ^ (f.prec - 1) + k := by
  have hexp : (f.qmin + d - f.qmin).toNat = d := by omega
  rw [FloatFmt.pack, hexp]

/-- `k × 2^q` is a finite value of the format, and `q` the exponent its bit pattern has. -/
structure FloatFmt.Represents (f : FloatFmt) (k : Nat) (q : Int) : Prop where
  qmin_le : f.qmin ≤ q
  lt : k < 2 ^ f.prec
  normal : f.qmin < q → 2 ^ (f.prec - 1) ≤ k
  finite : f.pack k q ≤ f.maxFinite

theorem FloatFmt.Regular.two_pow_prec {f : FloatFmt} (hf : f.Regular) : 2 ^ f.prec = 2 * 2 ^ (f.prec - 1) := by
  rw [Nat.mul_comm, ← Nat.pow_succ, Nat.succ_eq_add_one, Nat.sub_add_cancel hf.prec_pos]

/-- A finite bit pattern is that of its significand and exponent. -/
theorem FloatFmt.represents_of_val {f : FloatFmt} (hf : f.Regular) {x m : Nat} {n : Bool} {e : Int} (h : f.val x = .fin n m e) :
    n = f.sign x ∧ f.mag x = f.pack m e ∧ f.Represents m e := by
  have hprec := hf.two_pow_prec
  have hpos : 0 < 2 ^ (f.prec - 1) := Nat.two_pow_pos _
  rw [f.val_eq] at h
  split at h
  · cases h
  next hnan =>
  split at h
  · cases h
  next hinf =>
  have hfin : f.mag x ≤ f.maxFinite := (hf.finite_iff _).mpr ⟨Nat.lt_of_not_le hnan, hinf⟩
  split at h <;> obtain ⟨rfl, rfl, rfl⟩ := FVal.fin.inj h
  case isTrue hsub =>
    have hpack : f.pack (f.mag x) f.qmin = f.mag x := by simp [FloatFmt.pack]
    exact ⟨rfl, hpack.symm, Int.le_refl _, by omega, fun hlt => absurd hlt (Int.lt_irrefl _), Nat.le_trans (Nat.le_of_eq hpack) hfin⟩
  case isFalse hnorm =>
    have hmod := Nat.mod_lt (f.mag x) hpos
    have hdiv := Nat.div_add_mod (f.mag x) (2 ^ (f.prec - 1))
    have hquot : 0 < f.mag x / 2 ^ (f.prec - 1) := Nat.div_pos (Nat.le_of_not_lt hnorm) hpos
    have hpack : f.pack (2 ^ (f.prec - 1) + f.mag x % 2 ^ (f.prec - 1)) (f.qmin + ((f.mag x / 2 ^ (f.prec - 1) - 1 : Nat) : Int)) =
        f.mag x := by
      rw [FloatFmt.pack_qmin_add, ← Nat.add_assoc, ← Nat.succ_mul, Nat.succ_eq_add_one,
        Nat.sub_add_cancel hquot, Nat.mul_comm, hdiv]
    exact ⟨rfl, hpack.symm, by omega, by omega, fun _ => Nat.le_add_right _ _, Nat.le_trans (Nat.le_of_eq hpack) hfin⟩

/-- The bit pattern of a significand and an exponent reads back as them. -/
theorem FloatFmt.Represents.val {f : FloatFmt} (hf : f.Regular) {k : Nat} {q : Int} (h : f.Represents k q) (n : Bool) :
    f.val (f.signed n (f.pack k q)) = .fin n k q := by
  have hprec := hf.two_pow_prec
  have hpos : 0 < 2 ^ (f.prec - 1) := Nat.two_pow_pos _
  have hmag : f.pack k q < 2 ^ (f.width - 1) := Nat.lt_of_le_of_lt h.finite hf.maxFinite_lt
  obtain ⟨hnan, hinf⟩ := (hf.finite_iff _).mp h.finite
  rw [f.val_eq, FloatFmt.mag_signed hmag, FloatFmt.sign_signed hmag, if_neg (Nat.not_le_of_lt hnan), if_neg hinf]
  obtain ⟨hqmin, hlt, hnormal, -⟩ := h
  obtain ⟨d, rfl⟩ := Int.le.dest hqmin
  rw [f.pack_qmin_add]
  by_cases hsub : k < 2 ^ (f.prec - 1)
  case pos =>
    have hd : d = 0 := Nat.eq_zero_of_not_pos fun hd => Nat.not_le_of_lt hsub (hnormal (by omega))
    simp [hd, hsub]
  case neg =>
    obtain ⟨r, rfl⟩ := Nat.exists_eq_add_of_le (Nat.le_of_not_lt hsub)
    have hr : r < 2 ^ (f.prec - 1) := by omega
    have hsum : d * 2 ^ (f.prec - 1) + (2 ^ (f.prec - 1) + r) = r + 2 ^ (f.prec - 1) * (d + 1) := by
      rw [Nat.mul_succ, Nat.mul_comm d]
      omega
    have hge : 2 ^ (f.prec - 1) ≤ r + 2 ^ (f.prec - 1) * (d + 1) :=
      Nat.le_trans (Nat.le_mul_of_pos_right _ (Nat.succ_pos d)) (Nat.le_add_left _ _)
    rw [hsum, if_neg (Nat.not_lt_of_le hge), Nat.add_mul_mod_self_left, Nat.mod_eq_of_lt hr, Nat.add_mul_div_left _ _ hpos, Nat.div_eq_of_lt hr]
    simp

/-! ### Rounding what is represented (R80, R83) -/

theorem mul_two_pow_ne_zero {m : Nat} (hm : m ≠ 0) (s : Nat) : m * 2 ^ s ≠ 0 := Nat.mul_ne_zero hm (Nat.ne_of_gt (Nat.two_pow_pos s))

theorem log2_mul_two_pow {m : Nat} (hm : m ≠ 0) (s : Nat) : Nat.log2 (m * 2 ^ s) = Nat.log2 m + s := by
  rw [Nat.log2_eq_iff (mul_two_pow_ne_zero hm s), Nat.add_right_comm, Nat.pow_add, Nat.pow_add]
  exact ⟨Nat.mul_le_mul_right _ (Nat.log2_self_le hm), Nat.mul_lt_mul_of_pos_right Nat.lt_log2_self (Nat.two_pow_pos s)⟩

/-- The exponent to which `round` scales an exact value is the one with which the format represents it. -/
theorem FloatFmt.Represents.exponent {f : FloatFmt} {m : Nat} {e q : Int} (hm : m ≠ 0) (hq : q ≤ e)
    (h : f.Represents (m * 2 ^ (e - q).toNat) q) : max f.qmin ((Nat.log2 m : Int) + e - ((f.prec - 1 : Nat) : Int)) = q := by
  obtain ⟨hqmin, hlt, hnormal, -⟩ := h
  have hne := mul_two_pow_ne_zero hm (e - q).toNat
  have hlog := log2_mul_two_pow hm (e - q).toNat
  have hupper := (Nat.log2_lt hne).mpr hlt
  obtain hgt | heq := Int.le_iff_lt_or_eq.mp hqmin
  · have hlower := (Nat.le_log2 hne).mpr (hnormal hgt)
    omega
  · omega

/-- An exact value that the format represents rounds to its bit pattern, in every mode, whatever exponent it is written with. -/
theorem FloatFmt.Represents.round {f : FloatFmt} {m : Nat} {e q : Int} (hq : q ≤ e)
    (h : f.Represents (m * 2 ^ (e - q).toNat) q) (rm : RMode) (sat n : Bool) :
    f.round rm sat n m e = f.signed n (f.pack (m * 2 ^ (e - q).toNat) q) := by
  by_cases hm : m = 0
  case pos =>
    subst hm
    have hqmin : q = f.qmin := Int.le_antisymm (Int.not_lt.mp fun hgt => absurd (h.normal hgt) (by simp)) h.qmin_le
    rw [f.round_zero, hqmin]
    simp [FloatFmt.pack]
  case neg =>
    have hfinite := h.finite
    rw [FloatFmt.pack] at hfinite
    simp only [FloatFmt.round, hm, false_and, if_false, h.exponent hm hq, if_pos hq, if_neg (Nat.not_lt_of_le hfinite), FloatFmt.pack]

/-- A bit pattern that is no NaN is what its value rounds to; an infinity, where the conversion does not saturate. -/
theorem FloatFmt.ofVal_val {f : FloatFmt} (hf : f.Regular) {x : Nat} (hx : x < 2 ^ f.width) (hnan : (f.val x).isNan = false) {sat : Bool}
    (hsat : sat = false ∨ f.inf ≠ some (f.mag x)) (rm : RMode) : f.ofVal rm sat (f.val x) = x := by
  cases hval : f.val x with
  | nan => rw [hval] at hnan; cases hnan
  | inf n =>
    obtain ⟨hinf, rfl⟩ := FloatFmt.inf_of_val hval
    obtain rfl := hsat.resolve_right (not_not_intro hinf)
    simp only [FloatFmt.ofVal, hinf, Bool.false_eq_true, if_false]
    exact FloatFmt.signed_sign_mag hf hx
  | fin n m e =>
    obtain ⟨rfl, hmag, hrep⟩ := FloatFmt.represents_of_val hf hval
    have hround := FloatFmt.Represents.round (m := m) (Int.le_refl e) (by simpa using hrep) rm sat (f.sign x)
    rw [Int.sub_self, Int.toNat_zero, Nat.pow_zero, Nat.mul_one, ← hmag, FloatFmt.signed_sign_mag hf hx] at hround
    exact hround

/-- Every finite bf16 value is an f32 value with 16 more zeros in its significand. -/
theorem represents_f32_of_bf16 {m : Nat} {e : Int} (h : fmtBf16.Represents m e) : fmtF32.Represents (m * 2 ^ 16) (e - 16) ∧
    fmtF32.pack (m * 2 ^ 16) (e - 16) = fmtBf16.pack m e * 2 ^ 16 := by
  obtain ⟨hqmin, hlt, hnormal, hfinite⟩ := h
  simp only [FloatFmt.pack, fmtBf16] at hqmin hlt hnormal hfinite
  have hpack : fmtF32.pack (m * 2 ^ 16) (e - 16) = fmtBf16.pack m e * 2 ^ 16 := by simp only [FloatFmt.pack, fmtF32, fmtBf16]; omega
  refine ⟨⟨?_, ?_, fun hgt => ?_, Nat.le_trans (Nat.le_of_eq hpack) ?_⟩, hpack⟩
  all_goals simp only [FloatFmt.pack, fmtF32, fmtBf16] at *; omega

/-- Widening bf16 to f32 appends 16 zero bits (R81). -/
theorem convert_bf16_f32 (rm : RMode) {x : Nat} (hx : x < 2 ^ 16) (hnan : (fmtBf16.val x).isNan = false) :
    convert (.flt fmtBf16) (.flt fmtF32) rm true x = x * 2 ^ 16 := by
  have hf : fmtBf16.Regular := regular_floatFmt .bf16
  have hwiden : ∀ n mag, fmtF32.signed n (mag * 2 ^ 16) = fmtBf16.signed n mag * 2 ^ 16 := fun n mag => by
    cases n <;> simp only [FloatFmt.signed, fmtF32, fmtBf16, if_true, Bool.false_eq_true, if_false] <;> omega
  have hx' := FloatFmt.signed_sign_mag hf hx
  show fmtF32.ofVal rm false (fmtBf16.val x) = x * 2 ^ 16
  cases hval : fmtBf16.val x with
  | nan => rw [hval] at hnan; cases hnan
  | inf n =>
    obtain ⟨hinf, rfl⟩ := FloatFmt.inf_of_val hval
    have hinf16 : fmtBf16.inf = some 0x7F80 := rfl
    have hmag : fmtBf16.mag x = 0x7F80 := Option.some.inj (hinf.symm.trans hinf16)
    rw [hmag] at hx'
    have hround : fmtF32.ofVal rm false (.inf (fmtBf16.sign x)) = fmtF32.signed (fmtBf16.sign x) (0x7F80 * 2 ^ 16) := by
      simp [FloatFmt.ofVal, fmtF32]
    rw [hround, hwiden, hx']
  | fin n m e =>
    obtain ⟨rfl, hmag, hrep⟩ := FloatFmt.represents_of_val hf hval
    obtain ⟨hrep32, hpack⟩ := represents_f32_of_bf16 hrep
    have hexp : (e - (e - 16)).toNat = 16 := by omega
    have hround := FloatFmt.Represents.round (m := m) (e := e) (by omega) (hexp.symm ▸ hrep32) rm false (fmtBf16.sign x)
    rw [hexp, hpack, ← hmag, hwiden, hx'] at hround
    exact hround

/-! ### Values as numbers -/

/-- A finite value in units of the format's smallest subnormal. -/
def FloatFmt.units (f : FloatFmt) (n : Bool) (m : Nat) (e : Int) : Int := (if n then -(m : Int) else m) * 2 ^ (e - f.qmin).toNat

theorem natCast_two_pow (k : Nat) : ((2 ^ k : Nat) : Int) = 2 ^ k := Int.natCast_pow 2 k

theorem natCast_two_pow_pos (k : Nat) : 0 < ((2 ^ k : Nat) : Int) := Int.natCast_pos.mpr (Nat.two_pow_pos k)

/-- The units of a value, from a lower exponent. -/
theorem FloatFmt.units_eq {f : FloatFmt} {e lo : Int} (hlo : f.qmin ≤ lo) (he : lo ≤ e) (n : Bool) (m : Nat) :
    f.units n m e = signedNat n m * ((2 ^ (e - lo).toNat : Nat) : Int) * ((2 ^ (lo - f.qmin).toNat : Nat) : Int) := by
  have hexp : (e - f.qmin).toNat = (e - lo).toNat + (lo - f.qmin).toNat := by omega
  rw [FloatFmt.units, hexp, ← natCast_two_pow, Nat.pow_add, Int.natCast_mul, ← Int.mul_assoc]
  rfl

/-- The exponent a value is written with does not change its units. -/
theorem FloatFmt.units_scale {f : FloatFmt} {e q : Int} (hqmin : f.qmin ≤ q) (hq : q ≤ e) (n : Bool) (m : Nat) :
    f.units n (m * 2 ^ (e - q).toNat) q = f.units n m e := by
  rw [FloatFmt.units_eq hqmin hq, FloatFmt.units, ← natCast_two_pow]
  cases n <;> simp only [signedNat, Int.natCast_mul, Int.neg_mul, if_true, if_false, Bool.false_eq_true]

/-- One finite value is below another as the numbers they stand for are. -/
theorem FloatFmt.fin_lt_fin {f : FloatFmt} {e g : Int} (he : f.qmin ≤ e) (hg : f.qmin ≤ g) (a b : Bool) (m n : Nat) :
    (FVal.fin a m e).lt (.fin b n g) = decide (f.units a m e < f.units b n g) := by
  have hlo : f.qmin ≤ min e g := Int.le_min.mpr ⟨he, hg⟩
  rw [FloatFmt.units_eq hlo (Int.min_le_left e g), FloatFmt.units_eq hlo (Int.min_le_right e g)]
  exact decide_eq_decide.mpr (Int.mul_lt_mul_right (natCast_two_pow_pos _)).symm

theorem FVal.lt_asymm {v w : FVal} (h : v.lt w = true) : w.lt v = false := by
  cases v with
  | nan => cases h
  | inf a => cases w <;> simp_all [FVal.lt]
  | fin a m e =>
    cases w with
    | nan => cases h
    | inf b => simp_all [FVal.lt]
    | fin b n g =>
      simp only [FVal.lt, Int.min_comm g e, decide_eq_true_eq, decide_eq_false_iff_not] at h ⊢
      exact Int.lt_asymm h

theorem FVal.not_both_zero_of_lt {v w : FVal} (h : v.lt w = true) : (v.isZero && w.isZero) = false := by
  cases v <;> cases w <;> simp only [FVal.isZero, Bool.and_false, Bool.false_and]
  case fin.fin a m e b n g =>
    refine Bool.eq_false_iff.mpr fun hzero => ?_
    obtain ⟨rfl, rfl⟩ : m = 0 ∧ n = 0 := by simpa using hzero
    simp [FVal.lt, signedNat] at h

theorem FVal.below_of_lt {v w : FVal} (h : v.lt w = true) : v.below w = true ∧ w.below v = false := by
  have hzero := FVal.not_both_zero_of_lt h
  simp [FVal.below, h, FVal.lt_asymm h, Bool.and_comm w.isZero, hzero]

/-! ### The operations on bit patterns (R173) -/

section
variable {f : FloatFmt} {x y : Nat}

/-- The order of two finite bit patterns, and their equality, are those of the numbers they stand for. -/
theorem compare_fin {n k : Bool} {m p : Nat} {e g : Int} (hf : f.Regular) (hx : f.val x = .fin n m e) (hy : f.val y = .fin k p g) :
    fCeq f x y = decide (f.units n m e = f.units k p g) ∧ fClt f x y = decide (f.units n m e < f.units k p g) := by
  obtain ⟨-, -, hxrep⟩ := FloatFmt.represents_of_val hf hx
  obtain ⟨-, -, hyrep⟩ := FloatFmt.represents_of_val hf hy
  rw [fCeq, fClt, hx, hy, FloatFmt.fin_lt_fin hxrep.qmin_le hyrep.qmin_le, FloatFmt.fin_lt_fin hyrep.qmin_le hxrep.qmin_le]
  refine ⟨?_, rfl⟩
  rw [Bool.eq_iff_iff]
  simp only [FVal.isNan_fin, Bool.not_false, Bool.true_and, Bool.and_eq_true, Bool.not_eq_true', decide_eq_false_iff_not, decide_eq_true_eq]
  omega

/-- An infinity equals itself alone. -/
theorem fCeq_inf {n : Bool} (hx : f.val x = .inf n) : fCeq f x y = true ↔ f.val y = .inf n := by
  rw [fCeq, hx]
  cases f.val y <;> cases n <;> simp [FVal.lt]

/-- `min` and `max` take the two operands apart where one lies below the other. -/
theorem min_max_of_lt (hx : (f.val x).isNan = false) (hy : (f.val y).isNan = false) (h : fClt f x y = true) :
    fMin f x y = x ∧ fMax f x y = y ∧ fMin f y x = x ∧ fMax f y x = y := by
  obtain ⟨hbelow, hnot⟩ := FVal.below_of_lt h
  simp [fMin, fMax, hx, hy, hbelow, hnot]

theorem fMin_mem (hx : (f.val x).isNan = false) (hy : (f.val y).isNan = false) : fMin f x y = x ∨ fMin f x y = y := by
  rw [fMin, hx, hy, Bool.or_self, if_neg Bool.false_ne_true]
  split
  · exact .inr rfl
  · exact .inl rfl

theorem fMax_mem (hx : (f.val x).isNan = false) (hy : (f.val y).isNan = false) : fMax f x y = x ∨ fMax f x y = y := by
  rw [fMax, hx, hy, Bool.or_self, if_neg Bool.false_ne_true]
  split
  · exact .inr rfl
  · exact .inl rfl

theorem fSub_self {n : Bool} {m : Nat} {e : Int} (rm : RMode) (hx : f.val x = .fin n m e) :
    fSub f rm x x = if rm = .rd then 2 ^ (f.width - 1) else 0 := by
  rw [fSub, hx, FVal.fin_add_negate, FloatFmt.ofVal, FloatFmt.round_zero]
  cases rm <;> rfl

end

/-! ### Rounding to an integer (R10) -/

/-- `z` is the integer to which `v` rounds, where `one` units make 1: in RZ the nearest not further from zero, in RD and RU the nearest
not above and not below, in RNE the nearest, the even one of two. -/
def RoundsTo (rm : RMode) (one v z : Int) : Prop :=
  match rm with
  | .rz => (z.natAbs : Int) * one ≤ (v.natAbs : Int) ∧ (v.natAbs : Int) < ((z.natAbs : Int) + 1) * one
  | .rd => z * one ≤ v ∧ v < (z + 1) * one
  | .ru => (z - 1) * one < v ∧ v ≤ z * one
  | .rne => 2 * ((v - z * one).natAbs : Int) ≤ one ∧ (2 * ((v - z * one).natAbs : Int) = one → z % 2 = 0)

theorem natAbs_mul_of_pos (a : Int) {c : Int} (hc : 0 < c) : ((a * c).natAbs : Int) = a.natAbs * c := by
  rw [Int.natAbs_mul, Int.natCast_mul, Int.natAbs_of_nonneg (Int.le_of_lt hc)]

theorem RoundsTo.scale {rm : RMode} {one v z c : Int} (hc : 0 < c) (h : RoundsTo rm one v z) : RoundsTo rm (one * c) (v * c) z := by
  cases rm <;> simp only [RoundsTo, ← Int.mul_assoc, ← Int.sub_mul, natAbs_mul_of_pos _ hc] at h ⊢
  case rne =>
    rw [Int.mul_le_mul_right hc, Int.mul_eq_mul_right_iff (Int.ne_of_gt hc)]
    exact h
  all_goals
    rw [Int.mul_le_mul_right hc, Int.mul_lt_mul_right hc]
    exact h

theorem roundsTo_integer (rm : RMode) {one : Int} (hone : 0 < one) (z : Int) : RoundsTo rm one (z * one) z := by
  cases rm <;> simp only [RoundsTo, natAbs_mul_of_pos _ hone, Int.add_mul, Int.sub_mul, Int.one_mul] <;> omega

/-- When a discarded remainder moves a magnitude away from zero, by the mode (R10). -/
theorem roundsUp_iff {rm : RMode} {n odd : Bool} {rem sh : Nat} : roundsUp rm n odd rem sh false = true ↔
    match rm with
    | .rne => 2 ^ sh < 2 * rem ∨ (2 ^ sh = 2 * rem ∧ odd = true)
    | .rz => False
    | .rd => n = true ∧ rem ≠ 0
    | .ru => n = false ∧ rem ≠ 0 := by
  cases rm <;> simp [roundsUp]

/-- `roundShift` rounds `m × 2^(-sh)` with its sign. -/
theorem roundsTo_roundShift (rm : RMode) (n : Bool) (m sh : Nat) :
    RoundsTo rm ((2 ^ sh : Nat) : Int) (signedNat n m) (signedNat n (roundShift rm n m sh false)) := by
  have hrem := Nat.mod_lt m (Nat.two_pow_pos sh)
  have hdiv := Nat.div_add_mod m (2 ^ sh)
  have hmul : ((2 ^ sh * (m / 2 ^ sh) : Nat) : Int) = ((m / 2 ^ sh : Nat) : Int) * ((2 ^ sh : Nat) : Int) := by
    rw [Int.natCast_mul, Int.mul_comm]
  rw [roundShift]
  split
  all_goals
    next hup =>
    rw [roundsUp_iff] at hup
    generalize 2 ^ sh * (m / 2 ^ sh) = w at hdiv hmul
    generalize m % 2 ^ sh = r at *
    generalize m / 2 ^ sh = k at *
    generalize 2 ^ sh = S at *
    cases rm <;> cases n <;>
      simp only [RoundsTo, signedNat, beq_iff_eq, if_true, if_false, Bool.false_eq_true, reduceCtorEq, true_and, false_and,
        Int.natAbs_neg, Int.natAbs_natCast, Int.natCast_add, Int.natCast_one, Int.neg_add, Int.add_mul, Int.sub_mul,
        Int.neg_mul, Int.one_mul, ← hmul] at hup ⊢ <;>
      omega

theorem natAbs_signedNat (n : Bool) (m : Nat) : (signedNat n m).natAbs = m := by cases n <;> simp [signedNat]

theorem roundInt_of_neg {e : Int} (he : ¬ 0 ≤ e) (rm : RMode) (n : Bool) (m : Nat) :
    roundInt rm n m e = signedNat n (roundShift rm n m (-e).toNat false) := by
  rw [roundInt, if_neg he]

/-- A value whose exponent is not negative is an integer, the one that `roundInt` gives. -/
theorem FloatFmt.units_eq_roundInt {f : FloatFmt} {e : Int} (hqmin : f.qmin ≤ 0) (he : 0 ≤ e) (rm : RMode) (n : Bool) (m : Nat) :
    f.units n m e = roundInt rm n m e * ((2 ^ (-f.qmin).toNat : Nat) : Int) := by
  rw [FloatFmt.units_eq hqmin he, Int.zero_sub, Int.sub_zero, roundInt, if_pos he]
  cases n <;> simp only [signedNat, Int.natCast_mul, Int.neg_mul, if_true, if_false, Bool.false_eq_true]

/-- A finite value rounds to the integer that `roundInt` gives. -/
theorem FloatFmt.roundsTo_roundInt {f : FloatFmt} {m : Nat} {e : Int} (hqmin : f.qmin ≤ 0) (he : f.qmin ≤ e) (rm : RMode) (n : Bool) :
    RoundsTo rm ((2 ^ (-f.qmin).toNat : Nat) : Int) (f.units n m e) (roundInt rm n m e) := by
  by_cases hint : 0 ≤ e
  case pos =>
    rw [FloatFmt.units_eq_roundInt hqmin hint rm]
    exact roundsTo_integer rm (natCast_two_pow_pos _) _
  case neg =>
    have hexp : (-f.qmin).toNat = (-e).toNat + (e - f.qmin).toNat := by omega
    rw [roundInt_of_neg hint, hexp, Nat.pow_add, Int.natCast_mul, FloatFmt.units, ← natCast_two_pow]
    exact (roundsTo_roundShift rm n m (-e).toNat).scale (natCast_two_pow_pos _)

/-- An integer of at most the format's precision is represented, where the format's exponents reach past it. -/
theorem FloatFmt.exists_represents_integer {f : FloatFmt} (hf : f.Regular) {k : Nat} (hk : k < 2 ^ f.prec) (hqmin : f.qmin ≤ 0)
    (hroom : (-f.qmin).toNat * 2 ^ (f.prec - 1) + 2 ^ f.prec ≤ f.maxFinite) :
    ∃ q ≤ 0, f.Represents (k * 2 ^ (0 - q).toNat) q := by
  have hprec := hf.prec_pos
  have hfinite {q : Int} {k' : Nat} (hq : q ≤ 0) (hk' : k' < 2 ^ f.prec) : f.pack k' q ≤ f.maxFinite :=
    Nat.le_trans (Nat.add_le_add (Nat.mul_le_mul_right _ (by omega)) (Nat.le_of_lt hk')) hroom
  by_cases hsub : k * 2 ^ (0 - f.qmin).toNat < 2 ^ f.prec
  case pos => exact ⟨f.qmin, hqmin, Int.le_refl _, hsub, fun h => absurd h (Int.lt_irrefl _), hfinite hqmin hsub⟩
  case neg =>
    have hne : k ≠ 0 := fun h => hsub (by rw [h, Nat.zero_mul]; exact Nat.two_pow_pos _)
    have hlog : Nat.log2 k < f.prec := (Nat.log2_lt hne).mpr hk
    have hmin : f.prec ≤ Nat.log2 k + (0 - f.qmin).toNat := by
      rw [← log2_mul_two_pow hne, Nat.le_log2 (mul_two_pow_ne_zero hne _)]
      exact Nat.le_of_not_lt hsub
    obtain ⟨s, hs⟩ := Nat.exists_eq_add_of_lt hlog
    have hshift : Nat.log2 (k * 2 ^ s) = f.prec - 1 := by rw [log2_mul_two_pow hne]; omega
    obtain ⟨hlower, hupper⟩ := (Nat.log2_eq_iff (mul_two_pow_ne_zero hne s)).mp hshift
    rw [Nat.sub_add_cancel hprec] at hupper
    have hexp : (0 - (-(s : Int))).toNat = s := by omega
    exact ⟨-(s : Int), by omega, by omega, hexp.symm ▸ hupper, fun _ => hexp.symm ▸ hlower, hexp.symm ▸ hfinite (by omega) hupper⟩

/-- The exponents of the register formats reach past the integers of their precision. -/
theorem floatFmt_holds_integers (t : FFmt) : (floatFmt t).qmin ≤ 0 ∧
    (-(floatFmt t).qmin).toNat * 2 ^ ((floatFmt t).prec - 1) + 2 ^ (floatFmt t).prec ≤ (floatFmt t).maxFinite := by
  cases t <;> decide

/-- Discarding at least one bit of a significand leaves one that is not longer. -/
theorem roundShift_lt {f : FloatFmt} (hf : f.Regular) (rm : RMode) (n : Bool) {m sh : Nat} (hm : m < 2 ^ f.prec) (hsh : 0 < sh) :
    roundShift rm n m sh false < 2 ^ f.prec := by
  have hprec := hf.two_pow_prec
  have hpos : 0 < 2 ^ (f.prec - 1) := Nat.two_pow_pos _
  have hhalf : m / 2 ^ sh ≤ m / 2 := Nat.div_le_div_left (Nat.le_pow hsh) Nat.two_pos
  rw [roundShift]
  split <;> omega

/-- `rint` of a finite value is the integer that `roundInt` gives, with the value's sign. -/
theorem val_fRint {f : FloatFmt} {x m : Nat} {n : Bool} {e : Int} (hf : f.Regular) (hqmin : f.qmin ≤ 0)
    (hroom : (-f.qmin).toNat * 2 ^ (f.prec - 1) + 2 ^ f.prec ≤ f.maxFinite) (rm : RMode) (hx : f.val x = .fin n m e) :
    ∃ m' e', f.val (fRint f rm x) = .fin n m' e' ∧ f.units n m' e' = roundInt rm n m e * ((2 ^ (-f.qmin).toNat : Nat) : Int) := by
  obtain ⟨-, -, hrep⟩ := FloatFmt.represents_of_val hf hx
  by_cases he : 0 ≤ e
  case pos => exact ⟨m, e, by simp only [fRint, hx, if_pos he], FloatFmt.units_eq_roundInt hqmin he rm n m⟩
  case neg =>
    have hlt := roundShift_lt hf rm n hrep.lt (sh := (-e).toNat) (by omega)
    obtain ⟨q, hq, hint⟩ := FloatFmt.exists_represents_integer hf hlt hqmin hroom
    have hround : fRint f rm x = f.signed n (f.pack (roundShift rm n m (-e).toNat false * 2 ^ (0 - q).toNat) q) := by
      simp only [fRint, hx, if_neg he, roundInt_of_neg he, natAbs_signedNat, hint.round hq]
    refine ⟨_, q, (congrArg f.val hround).trans (hint.val hf n), ?_⟩
    rw [roundInt_of_neg he, FloatFmt.units_scale hint.qmin_le hq, FloatFmt.units, Int.zero_sub, ← natCast_two_pow]
    rfl

end Sys2Proof.Machine
end

section
/-! PROOFS. The conventions of floating point (R79 to R83). -/
namespace Sys2Proof
open Machine

/-- Settles O18: a finite bit pattern is the significand and exponent it packs, so that an exact value with those rounds back to it, and
the order, the sums and the roundings of bit patterns are those of numbers. -/
theorem floatingPointFollowsTheConventions : Obligations.FloatingPointFollowsTheConventions := by
  refine ⟨fun t rm x y z => ?_, fun f rm sat x hf hx hnan hsat => ?roundTrip, fun rm x hx hnan => convert_bf16_f32 rm hx hnan⟩
  case roundTrip => exact FloatFmt.ofVal_val (FloatFmt.regular_of_mem hf) hx hnan hsat rm
  have hf := regular_floatFmt t
  obtain ⟨hqmin, hroom⟩ := floatFmt_holds_integers t
  refine ⟨?operand, ?unary, fun n m e => fSub_self rm, ?zeros, fun n m e k p g => compare_fin hf,
    fun n hx => ⟨fCeq_inf hx, ?infBelow, ?infAbove⟩, fun hx hy => ⟨min_max_of_lt hx hy, fMin_mem hx hy, fMax_mem hx hy⟩,
    fun n hx => ?rintInf, fun n m e _ hx => ?rintFin⟩
  case operand =>
    rintro (h | h) <;>
      simp [FVal.isNan_iff.mp h, fAdd, fSub, fMul, fMin, fMax, fFma, fFms, fFnma, fCeq, fClt, fCle, fCun]
  case unary =>
    intro h
    simp [FVal.isNan_iff.mp h, fAbs, fNeg, fCsgn, fRint]
  case zeros => cases t <;> decide
  case infBelow => rw [fClt, hx, FVal.inf_lt_iff]
  case infAbove => rw [fClt, hx, FVal.lt_inf_iff]
  case rintInf => rw [fRint, hx]
  case rintFin =>
    obtain ⟨m', e', hval, hunits⟩ := val_fRint hf hqmin hroom rm hx
    have hrep := (FloatFmt.represents_of_val hf hx).2.2
    have hrounds := FloatFmt.roundsTo_roundInt (m := m) hqmin hrep.qmin_le rm n
    rw [natCast_two_pow] at hunits hrounds
    exact ⟨m', e', roundInt rm n m e, hval, hunits, hrounds⟩

end Sys2Proof
end

section
/-! SUPPORT. What the checks of an access find: the lowest lane that fails, the offsets of a scratchpad, the groups that no earlier store
mends, and the operation that a word leaves outstanding. -/
namespace Sys2Proof.Machine

/-! ### Lanes in order -/

theorem laneList_pairwise (act : LaneBits) : (laneList act).Pairwise (· < ·) := List.pairwise_lt_range.filter _

theorem Ctx.onLanes_pairwise (c : Ctx) : c.onLanes.Pairwise (· < ·) := (laneList_pairwise c.iss.active).filter _

/-- A search through lanes in order stops at the lowest lane for which its condition holds. -/
theorem find?_of_firstLane {ls : List Nat} {p : Nat → Prop} {q : Nat → Bool} {l : Nat} (hls : ls.Pairwise (· < ·)) (h : FirstLane ls p l)
    (hq : ∀ m ∈ ls, q m = true ↔ p m) : ls.find? q = some l := by
  obtain ⟨hmem, hp, hmin⟩ := h
  obtain ⟨before, after, rfl⟩ := List.append_of_mem hmem
  have hlt : ∀ m ∈ before, m < l := fun m hm => (List.pairwise_append.mp hls).2.2 m hm l List.mem_cons_self
  refine List.find?_eq_some_iff_append.mpr ⟨(hq l hmem).mpr hp, before, after, rfl, fun m hm => ?_⟩
  have hm' : m ∈ before ++ l :: after := List.mem_append_left _ hm
  simpa using mt (hq m hm').mp (hmin m hm' (hlt m hm))

/-- The same over data of the lanes. -/
theorem find?_map_of_firstLane {α : Type} {ls : List Nat} {f : Nat → α} {p : Nat → Prop} {q : α → Bool} {l : Nat} (hls : ls.Pairwise (· < ·))
    (h : FirstLane ls p l) (hq : ∀ m ∈ ls, q (f m) = true ↔ p m) : (ls.map f).find? q = some (f l) := by
  have hfind : ls.find? (q ∘ f) = some l := find?_of_firstLane hls h hq
  rw [List.find?_map, hfind]
  rfl

theorem find?_map_eq_none {α : Type} {ls : List Nat} {f : Nat → α} {q : α → Bool} (h : ∀ m ∈ ls, q (f m) = false) :
    (ls.map f).find? q = none := by simpa using h

/-! ### Words with checked operands -/

theorem checkedWord_ok {s : State} {c : Ctx} {srcs : Ctx → List Src} {k : Ctx → Out} (h : ctx? s = some c) (hc : c.Ok (srcs c)) :
    checkedWord s srcs k = k c := by
  rw [checkedWord, withCtx_some s c _ h, Ctx.check_ok c _ hc]

/-! ### Offsets in a scratchpad or a group window (R108, R184) -/

section
variable {c : Ctx} {n space : Nat} {ls : List Nat} {off : Nat → Int}

/-- The `n` bytes at an offset lie inside the data scratchpad. -/
def Ctx.InScratch (c : Ctx) (n : Nat) (o : Int) : Prop := 0 ≤ o ∧ o + (n : Int) ≤ ((1024 * c.blk.cfg.dsp : Nat) : Int)

theorem Ctx.outside_iff (o : Int) :
    (decide (o < 0) || decide (((1024 * c.blk.cfg.dsp : Nat) : Int) < o + (n : Int))) = true ↔ ¬ c.InScratch n o := by
  rw [InScratch, Bool.or_eq_true, decide_eq_true_iff, decide_eq_true_iff]
  omega

theorem Ctx.offsetChecks_outside {l : Nat} (hls : ls.Pairwise (· < ·)) (h : FirstLane ls (fun l => ¬ c.InScratch n (off l)) l) :
    c.offsetChecks n space (ls.map (fun l => (l, off l))) = some (addrTrap Cause.accessViolation l (lowBits 56 (off l)) space) := by
  rw [offsetChecks, find?_map_of_firstLane hls h (fun m _ => outside_iff (off m))]

theorem Ctx.find?_outside (h : ∀ l ∈ ls, c.InScratch n (off l)) :
    (ls.map (fun l => (l, off l))).find? (fun p => decide (p.2 < 0) || decide (((1024 * c.blk.cfg.dsp : Nat) : Int) < p.2 + (n : Int))) = none :=
  find?_map_eq_none fun m hm => Bool.eq_false_iff.mpr fun hm' => (outside_iff (off m)).mp hm' (h m hm)

theorem Ctx.offsetChecks_misaligned {l : Nat} (hls : ls.Pairwise (· < ·)) (hin : ∀ l ∈ ls, c.InScratch n (off l))
    (h : FirstLane ls (fun l => off l % (n : Int) ≠ 0) l) :
    c.offsetChecks n space (ls.map (fun l => (l, off l))) = some (addrTrap Cause.misaligned l (lowBits 56 (off l)) space) := by
  rw [offsetChecks, find?_outside hin, find?_map_of_firstLane hls h (fun m _ => by simp)]
  rfl

theorem Ctx.offsetChecks_none (h : ∀ l ∈ ls, c.InScratch n (off l) ∧ off l % (n : Int) = 0) :
    c.offsetChecks n space (ls.map (fun l => (l, off l))) = none := by
  rw [offsetChecks, find?_outside (fun l hl => (h l hl).1), find?_map_eq_none (fun m hm => by simp [(h m hm).2])]
  rfl

end

theorem addrTrap_offset (cause lane : Nat) (o : Int) : addrTrap cause lane (lowBits 56 o) 1 =
    { cause := cause, lane := lane, info := (o % 2 ^ 56).toNat + 2 ^ 56 } := by
  have h : lowBits 56 o % 2 ^ 56 = (o % 2 ^ 56).toNat := by
    unfold lowBits
    omega
  rw [addrTrap, spaceInfo, h, Nat.one_mul]

/-! ### Groups that no earlier store mends (R126, R132 item 1) -/

theorem runsMeet_iff {a n b m : Nat} : runsMeet a n b m = true ↔ a < b + m ∧ b < a + n := by simp [runsMeet]

/-- A run that holds the first and the last of eight bytes of the data scratchpad holds them all. -/
theorem Spot.meets_group {x : Spot} {n core group : Nat} :
    (x.meets n (.ds core (group * 8)) 1 && x.meets n (.ds core (group * 8 + 7)) 1) = true ↔
      ∃ a, x = .ds core a ∧ a ≤ 8 * group ∧ 8 * group + 8 ≤ a + n := by
  cases x with
  | vm l => simp [Spot.meets]
  | rs a => simp [Spot.meets]
  | ds c a =>
    simp only [Spot.meets, Bool.and_eq_true, beq_iff_eq, runsMeet_iff, Spot.ds.injEq]
    constructor
    · rintro ⟨⟨rfl, hfirst⟩, -, hlast⟩
      exact ⟨a, ⟨rfl, rfl⟩, by omega, by omega⟩
    · rintro ⟨a, ⟨rfl, rfl⟩, hlow, hhigh⟩
      exact ⟨⟨rfl, by omega, by omega⟩, rfl, by omega, by omega⟩

theorem Ctx.mends_group {c : Ctx} {lanes : LaneBits} {core group : Nat} :
    c.g.mends lanes (.ds core (group * 8)) 8 = true ↔ c.DsMended lanes core group := by
  simp only [Gang.mends, DsMended, List.any_eq_true, Spot.plus, Bool.and_assoc]
  refine exists_congr fun o => and_congr_right fun _ => exists_congr fun y => and_congr_right fun _ => ?_
  rw [Bool.and_eq_true, Bool.and_eq_true, bne_iff_ne, Spot.meets_group]

/-- A read of a scratchpad fails where one of its bytes lies in a failing group that no earlier store of its lanes covers whole. -/
theorem Ctx.dsFails_isSome {c : Ctx} {core o n : Nat} {b : Block} {lanes : LaneBits} :
    (c.g.dsFails core b lanes o n).isSome = true ↔ ∃ k, k < n ∧ (o + k) / 8 ∈ b.dsFail ∧ ¬ c.DsMended lanes core ((o + k) / 8) := by
  rw [Gang.dsFails, List.find?_isSome]
  simp only [List.mem_range, Bool.and_eq_true, List.contains_iff_mem, Bool.not_eq_true', ← Bool.not_eq_true, mends_group]

/-! ### The operation a word leaves outstanding (R185) -/

theorem Ctx.memOp_zeroElems (c : Ctx) (xs : List Access) (d : Dst) : c.memOp xs (c.zeroElems d) = c.outstanding xs (c.zeroed d) := by
  have hlanes : c.zeroLanes = c.lanes.filter (fun l => c.zeroing && !c.en l 0) := by
    unfold zeroLanes
    cases c.zeroing with
    | false => exact (List.filter_eq_nil_iff.mpr fun _ _ => Bool.false_ne_true).symm
    | true => rfl
  have h : zeroResults (c.zeroElems d) = c.zeroed d := by
    unfold zeroResults zeroElems zeroed
    rw [hlanes, List.filterMap_map]
    rfl
  rw [← h]
  rfl

/-- Accesses to scratchpads ask nothing of a peer, and need no translation. -/
theorem Ctx.issues_of_no_peer {c : Ctx} {s : State} {i : Instr} {xs : List Access} {rs : List RegWrite} (hx : ∀ x ∈ xs, x.spot.isPeer = false)
    (h : exec i s = .next (c.issueOp s (c.outstanding xs rs) [])) : c.Issues s s i xs rs [] := by
  have hfilter : xs.filter (·.spot.isPeer) = [] := List.filter_eq_nil_iff.mpr fun x hm => by simp [hx x hm]
  have hany : xs.any (fun x => x.spot.isPeer && x.reads) = false := List.any_eq_false.mpr fun x hm => by simp [hx x hm]
  have hvia : c.via s xs [] = xs := by
    unfold via
    exact List.mapIdx_eq_iff.mpr fun i => by simp
  have hnum : Numbered (s.tower (towerOf c.iss.core)).requests xs xs := by
    refine (List.mapIdx_eq_iff.mpr fun i => ?_).symm
    cases hi : xs[i]? with
    | none => rfl
    | some x => simp [hx x (List.mem_of_getElem? hi)]
  have htr : translatedBy (c.tlb s) c.blk.cfg.asid xs [] = xs := by cases xs <;> rfl
  refine ⟨xs, by rw [hvia]; exact hnum, ?_⟩
  rw [h, hfilter, hany]
  simp [issueOp, State.numbered, outstanding, htr, hfilter, hany]

end Sys2Proof.Machine
end

section
/-! SUPPORT. What the words of the data scratchpad answer where a check fails, and where none does (R109, R126, R184, R189). -/
namespace Sys2Proof.Machine

section
variable {s : State} {c : Ctx} {w : Width} {d : Dst} {v a : Src} {sgn : Bool} {o : Int}

/-- The lane's offset is inside its scratchpad and a multiple of the width. -/
def Ctx.OffsetForm (c : Ctx) (w : Width) (o : Int) : Prop := c.InScratch w.bytes o ∧ o % (w.bytes : Int) = 0

/-- A byte of the lane's access lies in a failing group that no earlier store of the lane's mends. -/
def Ctx.OffsetFails (c : Ctx) (w : Width) (l : Nat) (o : Int) : Prop :=
  ∃ k, k < w.bytes ∧ (o.toNat + k) / 8 ∈ c.blk.dsFail ∧ ¬ c.DsMended (oneLane l) c.iss.core ((o.toNat + k) / 8)

theorem addrTrap_toNat {o : Int} (cause lane : Nat) (h : 0 ≤ o) : addrTrap cause lane o.toNat 1 =
    { cause := cause, lane := lane, info := (o % 2 ^ 56).toNat + 2 ^ 56 } := by
  have hmod : o.toNat % 2 ^ 56 = (o % 2 ^ 56).toNat := by omega
  rw [addrTrap, spaceInfo, hmod, Nat.one_mul]

/-- What `Ctx.scratchLoad` asks of a lane and its offset. -/
def Ctx.offsetBad (c : Ctx) (w : Width) (p : Nat × Int) : Bool := (c.g.dsFails c.iss.core c.blk (oneLane p.1) p.2.toNat w.bytes).isSome

theorem Ctx.offsetBad_iff {l : Nat} : c.offsetBad w (l, o) = true ↔ c.OffsetFails w l o := dsFails_isSome

theorem Ctx.scratchLoad_of_trap {t : Trap} (h : c.offsetChecks w.bytes 1 (c.onLanes.map (fun l => (l, c.offset a o l))) = some t) :
    c.scratchLoad s w sgn d a o = s.trap t := by
  rw [scratchLoad, h]

theorem Ctx.scratchLoad_of_form (hform : ∀ l ∈ c.onLanes, c.OffsetForm w (c.offset a o l)) :
    c.scratchLoad s w sgn d a o = match (c.onLanes.map (fun l => (l, c.offset a o l))).find? (c.offsetBad w) with
      | some (l, o) => s.trap (addrTrap Cause.uncorrectableData l o.toNat 1)
      | none => c.issueOp s (c.memOp ((c.onLanes.map (fun l => (l, c.offset a o l))).map (fun p =>
          c.scratchAccess p.1 p.2.toNat w.bytes (.load w sgn (c.g.dstIndex p.1 d) none))) (c.zeroElems d)) [] := by
  rw [scratchLoad, offsetChecks_none hform]
  rfl

theorem Ctx.scratchLoad_fails {l : Nat} (hform : ∀ l ∈ c.onLanes, c.OffsetForm w (c.offset a o l))
    (h : FirstLane c.onLanes (fun l => c.OffsetFails w l (c.offset a o l)) l) :
    c.scratchLoad s w sgn d a o = s.trap (addrTrap Cause.uncorrectableData l (c.offset a o l).toNat 1) := by
  have hfind := find?_map_of_firstLane (f := fun l => (l, c.offset a o l)) (q := c.offsetBad w) c.onLanes_pairwise h (fun _ _ => offsetBad_iff)
  rw [scratchLoad_of_form hform, hfind]

theorem Ctx.scratchLoad_issues (hform : ∀ l ∈ c.onLanes, c.OffsetForm w (c.offset a o l))
    (hgood : ∀ l ∈ c.onLanes, ¬ c.OffsetFails w l (c.offset a o l)) :
    c.scratchLoad s w sgn d a o = c.issueOp s (c.outstanding (c.onLanes.map (fun l =>
      c.scratchAccess l (c.offset a o l).toNat w.bytes (.load w sgn (c.g.dstIndex l d) none))) (c.zeroed d)) [] := by
  have hfind : (c.onLanes.map (fun l => (l, c.offset a o l))).find? (c.offsetBad w) = none :=
    find?_map_eq_none fun m hm => Bool.eq_false_iff.mpr fun hbad => hgood m hm (offsetBad_iff.mp hbad)
  rw [scratchLoad_of_form hform, hfind, memOp_zeroElems, List.map_map]
  rfl

theorem sts_traps {i : BitVec 8} {t : Trap} (hc : ctx? s = some c) (hok : c.Ok [v, a])
    (h : c.offsetChecks w.bytes 1 (c.onLanes.map (fun l => (l, c.offset a (immOffset w i) l))) = some t) : Traps s (.sts w v a i) t := by
  refine (checkedWord_ok hc hok).trans ?_
  dsimp only
  rw [h]

theorem exec_sts_of_form {i : BitVec 8} (hc : ctx? s = some c) (hok : c.Ok [v, a])
    (hform : ∀ l ∈ c.onLanes, c.OffsetForm w (c.offset a (immOffset w i) l)) :
    exec (.sts w v a i) s = .next (c.issueOp s (c.outstanding (c.onLanes.map (fun l =>
      c.scratchAccess l (c.offset a (immOffset w i) l).toNat w.bytes (.store (leBytes w.bytes (c.read l v).toNat)))) []) []) := by
  refine (checkedWord_ok hc hok).trans ?_
  dsimp only
  rw [Ctx.offsetChecks_none hform, List.map_map]
  rfl

theorem Ctx.scratchAccess_no_peer {off : Nat → Nat} {act : Nat → AccAct} :
    ∀ x ∈ c.onLanes.map (fun l => c.scratchAccess l (off l) w.bytes (act l)), x.spot.isPeer = false :=
  List.forall_mem_map.mpr fun _ _ => rfl

end
end Sys2Proof.Machine
end

section
/-! PROOFS. The words of the data scratchpad (R109, R126, R184, R189). -/
namespace Sys2Proof
open Machine

/-- Settles O36: the checks find the lowest lane that fails, in their order; where none does, the accesses of the lanes ask nothing of a
peer, so that they are all that the word leaves. -/
theorem scratchpadWordsReadAndWriteTheirBytes : Obligations.ScratchpadWordsReadAndWriteTheirBytes := by
  intro s c w v a d i hc off inside form bad accesses traps loads
  have formTraps (j : Instr) (hj : ∀ t, c.offsetChecks w.bytes 1 (c.onLanes.map (fun l => (l, off l))) = some t → Traps s j t) : traps j :=
    ⟨fun l hl => addrTrap_offset _ l (off l) ▸ hj _ (Ctx.offsetChecks_outside c.onLanes_pairwise hl),
      fun hin l hl => addrTrap_offset _ l (off l) ▸ hj _ (Ctx.offsetChecks_misaligned c.onLanes_pairwise hin hl)⟩
  have load (j : Instr) (sgn : Bool) (hj : exec j s = .next (c.scratchLoad s w sgn d a (immOffset w i))) : loads j sgn := by
    refine ⟨formTraps j fun t ht => ?trap, fun hform l hl => ?fails, fun hgood => ?issues⟩
    case trap => rw [Traps, hj, Ctx.scratchLoad_of_trap (o := immOffset w i) ht]
    case fails =>
      rw [Traps, hj, Ctx.scratchLoad_fails (o := immOffset w i) hform hl]
      exact congrArg (fun t => Host.Outcome.next (s.trap t)) (addrTrap_toNat _ l (hform l hl.1).1.1)
    case issues =>
      refine Ctx.issues_of_no_peer Ctx.scratchAccess_no_peer ?_
      rw [hj, Ctx.scratchLoad_issues (o := immOffset w i) (fun l hl => (hgood l hl).1) (fun l hl => (hgood l hl).2)]
      rfl
  refine ⟨fun hok => ⟨load _ false (checkedWord_ok hc hok), load _ true (checkedWord_ok hc hok)⟩, fun hok =>
    ⟨formTraps _ fun t ht => sts_traps hc hok ht, fun hform => ?_⟩⟩
  exact Ctx.issues_of_no_peer Ctx.scratchAccess_no_peer (exec_sts_of_form hc hok hform)

end Sys2Proof
end

section
/-! SUPPORT. Group loads (R120 to R125, R192): the lanes and elements that take part, the present ranks with their cores, and the
combination over the ranks. -/
namespace Sys2Proof.Machine

/-! ### The lanes and elements of the word -/

/-- The lane has an enabled element (R63). -/
def Ctx.HasElem (c : Ctx) (w : Width) (l : Nat) : Prop := ∃ e, e < w.elems ∧ c.en l (w.bytes * e) = true

/-- The active lanes with an enabled element. -/
def Ctx.groupLanes (c : Ctx) (w : Width) : List Nat := c.lanes.filter (fun l => (List.range w.elems).any (fun e => c.en l (w.bytes * e)))

/-- The enabled elements of the active lanes, by lane and sub-element. -/
def Ctx.groupElems (c : Ctx) (w : Width) : List (Nat × Nat) :=
  c.lanes.flatMap (fun l => ((List.range w.elems).filter (fun e => c.en l (w.bytes * e))).map (fun e => (l, e)))

/-- An element with its offset in every rank's data scratchpad. -/
def Ctx.groupPlace (c : Ctx) (w : Width) (a : Src) (x : Nat × Nat) : Nat × Nat × Nat := (x.1, x.2, (c.read x.1 a).toNat + w.bytes * x.2)

section
variable {s : State} {c : Ctx} {w : Width} {d : Dst} {a : Src} {op : GroupOp}

theorem Ctx.any_enabled_iff {l : Nat} : (List.range w.elems).any (fun e => c.en l (w.bytes * e)) = true ↔ c.HasElem w l := by
  simp [HasElem]

theorem Ctx.mem_groupLanes {l : Nat} : l ∈ c.groupLanes w ↔ l ∈ c.lanes ∧ c.HasElem w l := by
  rw [groupLanes, List.mem_filter, any_enabled_iff]

theorem Ctx.mem_groupElems {l e : Nat} : (l, e) ∈ c.groupElems w ↔ l ∈ c.lanes ∧ e < w.elems ∧ c.en l (w.bytes * e) = true := by
  simp [groupElems]

theorem Ctx.groupLanes_of_firstLane {l : Nat} (h : FirstLane c.lanes (c.HasElem w) l) : ∃ ls, c.groupLanes w = l :: ls := by
  have hhead : (c.groupLanes w).head? = some l := by
    rw [groupLanes, List.head?_filter]
    exact find?_of_firstLane (laneList_pairwise _) h (fun _ _ => any_enabled_iff)
  exact List.head?_eq_some_iff.mp hhead

theorem flatMap_filter_of_nil {α β : Type} {p : α → Bool} {f : α → List β} {l : List α} (h : ∀ x ∈ l, p x = false → f x = []) :
    (l.filter p).flatMap f = l.flatMap f := by
  induction l with
  | nil => rfl
  | cons x r ih =>
    have hr := ih fun y hy => h y (List.mem_cons_of_mem x hy)
    cases hx : p x with
    | true => simp [hx, hr]
    | false => simp [hx, hr, h x List.mem_cons_self hx]

/-- Lanes without an enabled element add no element. -/
theorem Ctx.groupLanes_flatMap : (c.groupLanes w).flatMap (fun l => ((List.range w.elems).filter (fun e => c.en l (w.bytes * e))).map (fun e =>
    (l, e, (c.read l a).toNat + w.bytes * e))) = (c.groupElems w).map (c.groupPlace w a) := by
  rw [groupLanes, flatMap_filter_of_nil, groupElems, List.map_flatMap]
  · simp only [List.map_map]
    rfl
  · intro l _ hl
    simpa using hl

/-! ### The ranks (R30, R120, R121) -/

/-- The block on core `m` is a block of rank `r` in the ensemble of `b`. -/
def State.HoldsRank (s : State) (b : Block) (m r : Nat) : Prop :=
  ∃ x, s.block? m = some x ∧ x.cfg.lid = b.cfg.lid ∧ x.cfg.index / x.cfg.ens = b.cfg.index / b.cfg.ens ∧ x.cfg.index % x.cfg.ens = r

/-- The present ranks of a block's ensemble, each with the core that holds it. -/
def State.rankCores (s : State) (b : Block) : List (Nat × Nat) :=
  (List.range b.cfg.ens).filterMap (fun r => (s.rankCore b r).map (fun k => (r, k)))

theorem State.holdsRank_iff {b : Block} {m r : Nat} : s.HoldsRank b m r ↔ ∃ x, s.block? m = some x ∧ x.ensemble = b.ensemble ∧ x.rank = r := by
  simp only [HoldsRank, Block.ensemble, Block.rank, Prod.mk.injEq, and_assoc]

theorem State.mem_membersOf {e : Nat × Nat} {m : Nat} :
    m ∈ s.membersOf e ↔ m < s.cores.length ∧ ∃ x, s.block? m = some x ∧ x.ensemble = e := by
  rw [membersOf, List.mem_filter, List.mem_range]
  cases s.block? m <;> simp

theorem State.holdsRank_of_rankCore {b : Block} {m r : Nat} (h : s.rankCore b r = some m) : s.HoldsRank b m r := by
  obtain ⟨-, x, hx, hens⟩ := mem_membersOf.mp (List.mem_of_find?_eq_some h)
  have hrank := List.find?_some h
  rw [hx] at hrank
  exact holdsRank_iff.mpr ⟨x, hx, hens, by simpa using hrank⟩

theorem State.exists_rankCore {b : Block} {m r : Nat} (hm : m < s.cores.length) (h : s.HoldsRank b m r) : ∃ k, s.rankCore b r = some k := by
  obtain ⟨x, hx, hens, hrank⟩ := holdsRank_iff.mp h
  refine Option.isSome_iff_exists.mp (List.find?_isSome.mpr ⟨m, mem_membersOf.mpr ⟨hm, x, hx, hens⟩, ?_⟩)
  simp [hx, hrank]

theorem State.mem_rankCores {b : Block} {p : Nat × Nat} : p ∈ s.rankCores b ↔ p.1 < b.cfg.ens ∧ s.rankCore b p.1 = some p.2 := by
  obtain ⟨r, k⟩ := p
  simp [rankCores]

theorem State.rankCores_nodup (b : Block) : ((s.rankCores b).map (·.1)).Nodup := by
  rw [rankCores, List.map_filterMap]
  refine List.Pairwise.filterMap _ (fun r r' hne q hq q' hq' => ?_) List.nodup_range
  simp only [Option.map_map, Option.map_eq_some_iff, Function.comp_apply] at hq hq'
  obtain ⟨-, -, rfl⟩ := hq
  obtain ⟨-, -, rfl⟩ := hq'
  exact hne

/-! ### The word -/

theorem State.groupBad_eq_none {ms : List (Nat × Nat)} {els : List (Nat × Nat × Nat)}
    (h : ∀ p ∈ els, ∀ m ∈ ms, ∀ b, s.block? m.2 = some b → ∀ k, k < w.bytes → (p.2.2 + k) / 8 ∈ b.dsFail →
      c.DsMended c.iss.active m.2 ((p.2.2 + k) / 8)) : s.groupBad c.g c.iss.active ms w els = none := by
  refine List.findSome?_eq_none_iff.mpr fun p hp => ?_
  rw [Option.map_eq_none_iff, List.find?_eq_none]
  intro m hm hbad
  cases hb : s.block? m.2 with
  | none => simp [hb] at hbad
  | some b =>
    rw [hb, Option.any_some] at hbad
    obtain ⟨k, hk, hfail, hmend⟩ := Ctx.dsFails_isSome.mp hbad
    exact hmend (h p hp m hm b hb k hk hfail)

theorem Ctx.zeroedParts_eq : c.zeroedParts w d = c.lanes.flatMap (fun l =>
    ((List.range w.elems).filter (fun e => c.zeroing && !c.en l (w.bytes * e))).filterMap (fun e => (c.g.dstIndex l d).map (fun r =>
      { lane := l, reg := r, bits := BitVec.ofNat 64 ((2 ^ w.bits - 1) * 2 ^ (w.bits * e)), value := 0 }))) := by
  unfold zeroedParts
  cases c.zeroing <;> simp

/-- The combination that a group load leaves to be made once its leaves have been read. -/
def Ctx.groupJob (c : Ctx) (op : GroupOp) (d : Dst) : GroupJob :=
  GroupJob.mk op c.blk.cfg.ens ((c.groupElems op.width).filterMap (fun x => (c.g.dstIndex x.1 d).map (fun r => (x.1, x.2, r)))) []

/-- The lanes with an enabled element have their offsets inside the scratchpad, multiples of 8 (R125). -/
def Ctx.GroupForm (c : Ctx) (w : Width) (a : Src) : Prop :=
  ∀ l ∈ c.lanes, c.HasElem w l → (c.read l a).toNat + 8 ≤ 1024 * c.blk.cfg.dsp ∧ (c.read l a).toNat % 8 = 0

theorem Ctx.GroupForm.offsetChecks (h : c.GroupForm w a) : c.offsetChecks 8 3 ((c.groupLanes w).map (fun l => (l, c.offset a 0 l))) = none := by
  refine offsetChecks_none fun l hl => ?_
  obtain ⟨hin, haligned⟩ := h l (mem_groupLanes.mp hl).1 (mem_groupLanes.mp hl).2
  simp only [InScratch, offset]
  omega

theorem groupWord_of_dead {l r : Nat} {ls rs : List Nat} (hc : ctx? s = some c) (hok : c.Ok [d.src, a]) (hform : c.GroupForm op.width a)
    (hlanes : c.groupLanes op.width = l :: ls) (hdead : s.deadRanks c.blk = r :: rs) :
    groupWord s op d a = .next (s.trap { cause := Cause.groupMembership, lane := l, info := r }) := by
  have hchecks := hform.offsetChecks
  rw [Ctx.groupLanes] at hlanes hchecks
  refine (checkedWord_ok hc hok).trans ?_
  dsimp only
  rw [hchecks, hlanes, hdead]

theorem groupWord_of_live (hc : ctx? s = some c) (hok : c.Ok [d.src, a]) (hform : c.GroupForm op.width a) (hlive : s.deadRanks c.blk = [])
    (hgood : s.groupBad c.g c.iss.active (s.rankCores c.blk) op.width ((c.groupElems op.width).map (c.groupPlace op.width a)) = none) :
    groupWord s op d a = .next (s.retire (c.g.addOp { c.outstanding
      (groupLeaves c.iss.active (s.rankCores c.blk) op.width ((c.groupElems op.width).map (c.groupPlace op.width a)))
      (c.zeroedParts op.width d) with group := some (c.groupJob op d) })) := by
  have hchecks := hform.offsetChecks
  have helems := Ctx.groupLanes_flatMap (c := c) (w := op.width) (a := a)
  rw [Ctx.groupLanes] at helems hchecks
  refine (checkedWord_ok hc hok).trans ?_
  dsimp only
  rw [hchecks, hlive, helems]
  rw [State.rankCores] at hgood
  rw [hgood, List.filterMap_map]
  generalize c.lanes.filter _ = ls
  cases ls <;> rfl

end

/-! ### The combination over the ranks (R122, R123) -/

section
variable {j : GroupJob} {l e : Nat}

/-- What the rank `r` gave for an element, or the operator's identity. -/
def GroupJob.leaf (j : GroupJob) (l e r : Nat) : Nat :=
  ((j.leaves.find? (fun x => x.1 == l && x.2.1 == e && x.2.2.1 == r)).map (·.2.2.2)).getD j.op.ident

/-- The value of an element: the tree of R122 over the leaves of ranks 0 to 3. -/
def GroupJob.value (j : GroupJob) (l e : Nat) : Nat :=
  let x := j.leaf l e
  if j.ens = 1 then x 0
  else if j.ens = 2 then j.op.node (x 0) (x 1)
  else j.op.node (j.op.node (x 0) (x 1)) (j.op.node (x 2) (x 3))

theorem GroupJob.groupValue_leavesOf (hlo : 1 ≤ j.ens) (hhi : j.ens ≤ 4) : groupValue j.ens j.op.node (j.leavesOf l e) = j.value l e := by
  have hens : j.ens = 1 ∨ j.ens = 2 ∨ j.ens = 3 ∨ j.ens = 4 := by omega
  unfold groupValue leavesOf value
  obtain h | h | h | h := hens <;> rw [h] <;> rfl

end

end Sys2Proof.Machine
end

section
/-! PROOFS. Group loads (R120 to R125, R192). -/
namespace Sys2Proof
open Machine

/-- Settles O37: the elements of lanes without an enabled one are none, every present rank has its core, and the tree over the leaves is
evaluated for each size of an ensemble. -/
theorem groupLoadsCombineTheRanks : Obligations.GroupLoadsCombineTheRanks := by
  refine ⟨fun s c d a hc hok => ?_, fun op ens els leaves hlo hhi => ?_⟩
  · intro has off form holds els part job word
    have each (i : Instr) (op : GroupOp) (hi : exec i s = groupWord s op d a) : word i op op.width := by
      refine ⟨fun hform hlive hgood => ⟨s.rankCores c.blk, ?_, ?_, State.rankCores_nodup _, ?_⟩, fun hform l r rs hl hdead => ?_⟩
      · exact fun p hp => ⟨(State.mem_rankCores.mp hp).1, State.holdsRank_of_rankCore (State.mem_rankCores.mp hp).2⟩
      · intro r hr m hm hheld
        obtain ⟨k, hk⟩ := State.exists_rankCore hm hheld
        exact ⟨(r, k), State.mem_rankCores.mpr ⟨hr, hk⟩, rfl⟩
      · rw [hi, groupWord_of_live hc hok hform hlive, Ctx.zeroedParts_eq, groupLeaves, List.flatMap_map]
        · rfl
        · refine State.groupBad_eq_none fun p hp m hm b hb k hk hfail => ?_
          obtain ⟨⟨l, e⟩, hx, rfl⟩ := List.mem_map.mp hp
          obtain ⟨hl, he, hen⟩ := Ctx.mem_groupElems.mp hx
          exact hgood l hl e he hen m.2 m.1 b (State.holdsRank_of_rankCore (State.mem_rankCores.mp hm).2) hb k hk hfail
      · obtain ⟨ls, hls⟩ := Ctx.groupLanes_of_firstLane hl
        exact hi.trans (groupWord_of_dead hc hok hform hls hdead)
    exact ⟨each _ .addF32 rfl, each _ .addI32 rfl, each _ .addI64 rfl, each _ .maxF32 rfl, each _ .minF32 rfl, each _ .amaxF32 rfl⟩
  · intro table w f leaf value
    have hwidth : op.width = w := by cases op <;> rfl
    have hnode : op.node = f := by cases op <;> rfl
    have hident : op.ident = table.2.1 := by cases op <;> rfl
    have hleaf (l e r : Nat) : (GroupJob.mk op ens els leaves).leaf l e r = leaf l e r := by
      dsimp only [GroupJob.leaf, leaf]
      rw [hident]
      cases leaves.find? (fun x => x.1 == l && x.2.1 == e && x.2.2.1 == r) <;> rfl
    have hvalue (l e : Nat) : (GroupJob.mk op ens els leaves).value l e = value l e := by
      simp only [GroupJob.value, hleaf, hnode, value, ite_self]
    refine List.map_congr_left fun x _ => ?_
    rw [GroupJob.groupValue_leavesOf hlo hhi, hvalue]
    simp only [hwidth]

end Sys2Proof
end

section
/-! SUPPORT. A load whose walk meets a context entry that cannot be read: the event of kind 1 that it leaves in the error log (R349,
R364) goes to the host as a message (R358), so that bytes of host memory change. -/
namespace Sys2Proof.Machine

/-- A gang at its first word on core 0, with lane 0 active; the context entry at address 0 lies in a failing granule (R126, R339), and the
device-to-host ring has room. -/
def unreadableContext : State :=
  ({ State.reset with failing := [0], mailbox := { ready := true }, cur := { active := 1 } } : State).setBlock 0 { gangs := [{}] }

/-- The context of the word in that state. -/
def unreadableContextCtx : Ctx := ⟨{ gangs := [{}] }, {}, { active := 1 }⟩

/-- A byte of host memory after an outcome. -/
def hostByteAfter (a : Nat) : Out → Byte
  | .next t => cellGet t.hostMem a
  | _ => 0

theorem ctx?_unreadableContext : ctx? unreadableContext = some unreadableContextCtx := rfl

theorem onLanes_unreadableContextCtx : unreadableContextCtx.onLanes = [0] := by decide

theorem walk_unreadableContext (va : Nat) :
    walk unreadableContext (unreadableContext.coreTlb 0) 0 va = .fault ⟨4, 4, 0⟩ := rfl

/-- The first byte of the sequence number of the ring's first message (R358). -/
theorem hostByteAfter_load : hostByteAfter 64 (exec (.ldN .b64 .z .z 0) unreadableContext) = 1 := by decide +kernel

end Sys2Proof.Machine
end

section
/-! PROOFS. The checks of R108 in order. -/
namespace Sys2Proof
open Machine

/-- Refutes O35: a load that stalls on a context entry that cannot be read leaves an event in the error log, whose message to the host
changes a byte of host memory, where the statement has every byte of every memory as it was. -/
theorem not_accessesThatFailTrapInOrder : ¬ Obligations.AccessesThatFailTrapInOrder := by
  intro h
  have hok : unreadableContextCtx.Ok [.z, .z] := by simp [Ctx.Ok, Ctx.SrcOk]
  have hmem : 0 ∈ unreadableContextCtx.onLanes := by simp [onLanes_unreadableContextCtx]
  obtain ⟨⟨-, -, -, hstall⟩, -⟩ := (h unreadableContext unreadableContextCtx .b64 .z .z .z 0 ctx?_unreadableContext).1 hok
  have haligned : 0 < 2 ^ 56 ∧ 0 % Width.b64.bytes = 0 := by decide
  have hfaults (va : Nat) : ¬ ∃ x f, walk unreadableContext (unreadableContext.coreTlb 0) 0 va = .ok x f := by
    rintro ⟨x, f, hwalk⟩
    cases (walk_unreadableContext va).symm.trans hwalk
  obtain ⟨t, -, -, ht, -, ⟨-, hhost, -⟩, -⟩ := hstall (fun _ _ => haligned) ⟨0, hmem, hfaults _⟩ rfl (by decide)
  have hbyte := hostByteAfter_load
  rw [ht, hostByteAfter, hhost 64] at hbyte
  exact absurd hbyte (by decide)

end Sys2Proof
end

section
/-! SUPPORT. What a write of memory changes and what it leaves (R106, R119, R126, R127, R131, R186): the run at its home, the reports to
the host, the copies that follow, and a list of writes. -/
namespace Sys2Proof.Machine

/-! ### Runs and pairs stored in a memory -/

section
variable {n : Nat}

/-- Cells stored one after another. -/
def cellSetAll (c : List (Nat × BitVec n)) (ps : List (Nat × BitVec n)) : List (Nat × BitVec n) := ps.foldl (fun m p => cellSet m p.1 p.2) c

variable {c : List (Nat × BitVec n)}

theorem cellSetAll_wf (ps : List (Nat × BitVec n)) (h : cellsWf c = true) : cellsWf (cellSetAll c ps) = true := by
  induction ps generalizing c with
  | nil => exact h
  | cons p r ih => exact ih (cellSet_wf p.1 p.2 h)

theorem cellGet_cellSetAll_outside {ps : List (Nat × BitVec n)} {a : Nat} (h : cellsWf c = true) (ha : ∀ p ∈ ps, p.1 ≠ a) :
    cellGet (cellSetAll c ps) a = cellGet c a := by
  induction ps generalizing c with
  | nil => rfl
  | cons p r ih =>
    obtain ⟨hp, hr⟩ := List.forall_mem_cons.mp ha
    have hrest : cellGet (cellSetAll (cellSet c p.1 p.2) r) a = cellGet (cellSet c p.1 p.2) a := ih (cellSet_wf _ _ h) hr
    rw [show cellSetAll c (p :: r) = cellSetAll (cellSet c p.1 p.2) r from rfl, hrest, cellGet_cellSet _ _ _ h, if_neg (Ne.symm hp)]

/-- An address that the pairs give one value reads as that value. -/
theorem cellGet_cellSetAll_inside {ps : List (Nat × BitVec n)} {a : Nat} {v : BitVec n} (h : cellsWf c = true) (hmem : (a, v) ∈ ps)
    (hone : ∀ p ∈ ps, p.1 = a → p.2 = v) : cellGet (cellSetAll c ps) a = v := by
  induction ps generalizing c with
  | nil => simp at hmem
  | cons p r ih =>
    rw [show cellSetAll c (p :: r) = cellSetAll (cellSet c p.1 p.2) r from rfl]
    obtain ⟨hp, hr⟩ := List.forall_mem_cons.mp hone
    by_cases hlater : (a, v) ∈ r
    · exact ih (cellSet_wf _ _ h) hlater hr
    · have hhead : p = (a, v) := ((List.mem_cons.mp hmem).resolve_right hlater).symm
      subst hhead
      have hout : ∀ q ∈ r, q.1 ≠ a := fun q hq hqa => hlater (by
        have hqv := hr q hq hqa
        rwa [show q = (a, v) from Prod.ext hqa hqv] at hq)
      rw [cellGet_cellSetAll_outside (cellSet_wf _ _ h) hout, cellGet_cellSet _ _ _ h, if_pos rfl]

theorem getD_of_lt {α : Type} {vs : List α} {i : Nat} {x : α} (hi : i < vs.length) : vs.getD i x = vs[i] := by
  rw [List.getD_eq_getElem?_getD, List.getElem?_eq_getElem hi, Option.getD_some]

theorem cellGet_cellSetList_getD (a i : Nat) (vs : List (BitVec n)) (h : cellsWf c = true) (hi : i < vs.length) :
    cellGet (cellSetList c a vs) (a + i) = vs.getD i 0 := by
  rw [cellGet_cellSetList_inside a i vs h hi, getD_of_lt hi]

end

/-- A run that meets no failing granule is stored whole (R127). -/
theorem putRun_of_clear {failing : List Nat} (lo n : Nat) (m : Memory) (a : Nat) (bytes : List Byte)
    (h : ∀ i, i < bytes.length → (a + i) / 32 ∉ failing) : putRun failing lo n m a bytes = cellSetList m a bytes := by
  induction bytes generalizing m a with
  | nil => rfl
  | cons v r ih =>
    have hhead : a / 32 ∉ failing := h 0 (Nat.succ_pos _)
    rw [putRun, putByte, if_neg (by simp [hhead]), cellSetList]
    refine ih _ _ fun i hi => ?_
    have htail := h (i + 1) (Nat.succ_lt_succ hi)
    rwa [show a + (i + 1) = a + 1 + i by omega] at htail

theorem State.not_failing_of_granulesFail {s : State} {p n i : Nat} (h : s.granulesFail p n = false) (hi : i < n) : (p + i) / 32 ∉ s.failing := by
  intro hmem
  have hclear := List.any_eq_false.mp h _ hmem
  simp only [Bool.and_eq_true, decide_eq_true_eq, not_and] at hclear
  omega

/-! ### What a report to the host changes (R358, R364) -/

/-- Between the two states there are but reports to the host: its ring, the error logs and the mailbox. -/
def State.Reports (s t : State) : Prop := t = { s with hostMem := t.hostMem, towers := t.towers, mailbox := t.mailbox }

section
variable {s t u : State}

theorem State.Reports.refl (s : State) : s.Reports s := rfl

theorem State.Reports.trans (h : s.Reports t) (h' : t.Reports u) : s.Reports u := by
  unfold State.Reports at *
  rw [h'.trans (by rw [h])]

theorem State.reports_sendEntry (s : State) (words : List Word) : s.Reports (s.sendEntry words) := rfl

theorem State.reports_modTower (s : State) (n : Nat) (f : Tower → Tower) : s.Reports (s.modTower n f) := rfl

theorem State.reports_mailbox (s : State) (m : Mailbox) : s.Reports { s with mailbox := m } := rfl

theorem State.reports_pumpN (n : Nat) (s : State) : s.Reports (State.pumpN n s) := by
  induction n generalizing s with
  | zero => exact .refl s
  | succ n ih =>
    rw [State.pumpN]
    split
    · split
      · exact ((reports_mailbox _ _).trans (reports_sendEntry _ _)).trans (ih _)
      · split
        · exact .refl s
        · exact ((reports_modTower _ _ _).trans (reports_sendEntry _ _)).trans (ih _)
    · exact .refl s

theorem State.reports_log (s : State) (n : Nat) (e : LogEntry) : s.Reports (s.log n e) :=
  (reports_modTower _ _ _).trans (reports_pumpN _ _)

theorem State.reports_foldl_log {α : Type} (f : α → Nat) (e : α → LogEntry) (l : List α) (s : State) :
    s.Reports (l.foldl (fun s x => s.log (f x) (e x)) s) := by
  induction l generalizing s with
  | nil => exact .refl s
  | cons x r ih => exact (reports_log s _ _).trans (ih _)

/-! ### What the copies and the clocks change (R111, R119, R137, R141) -/

/-- Between the two states the memories and the blocks stay; what follows a write changes: the clocks, the copies and the L1. -/
def State.Follows (s t : State) : Prop := t = { s with cores := t.cores, towers := t.towers, farPub := t.farPub } ∧ ∀ n, t.block? n = s.block? n

theorem State.Follows.refl (s : State) : s.Follows s := ⟨rfl, fun _ => rfl⟩

theorem State.Follows.trans (h : s.Follows t) (h' : t.Follows u) : s.Follows u := by
  obtain ⟨heq, hblock⟩ := h
  obtain ⟨heq', hblock'⟩ := h'
  refine ⟨?_, fun n => (hblock' n).trans (hblock n)⟩
  rw [heq'.trans (by rw [heq])]

/-- A change of the towers and of what releases have published. -/
theorem State.follows_of_eq (h : t = { s with towers := t.towers, farPub := t.farPub }) : s.Follows t := by
  rw [h]
  exact ⟨rfl, fun _ => rfl⟩

theorem State.follows_modTower (s : State) (n : Nat) (f : Tower → Tower) : s.Follows (s.modTower n f) := follows_of_eq rfl

theorem State.follows_learn (s : State) (n : Nat) (clock : List Nat) : s.Follows (s.learn n clock) := by
  unfold learn
  split
  · exact .refl s
  · exact follows_modTower ..

theorem State.follows_foldl {α : Type} {f : State → α → State} (hf : ∀ (s : State) (x : α), s.Follows (f s x)) (l : List α) (s : State) :
    s.Follows (l.foldl f s) := by
  induction l generalizing s with
  | nil => exact .refl s
  | cons x r ih => exact (hf s x).trans (ih _)

theorem State.follows_sendLine (s : State) (writer : Option Who) (line : Nat) : s.Follows (s.sendLine writer line) := follows_of_eq rfl

theorem State.follows_sendLines (s : State) (n : Option Nat) (writer : Option Who) (knows carry : List Nat) (a len : Nat) :
    s.Follows (s.sendLines n writer knows carry a len) := by
  refine follows_foldl (fun s line => ?_) _ _
  have hsent (pub : Tower → Tower) : s.Follows (((s.learn (homeOf line) (joinClock knows carry)).modTower (homeOf line) pub).sendLine writer line) :=
    ((s.follows_learn _ _).trans (follows_modTower ..)).trans (follows_sendLine _ writer line)
  cases n with
  | none => exact hsent _
  | some n => exact (hsent _).trans (follows_modTower ..)

theorem State.block?_setCore {c : Nat} {x : Core} (h : x.block = (s.core c).block) (n : Nat) : (s.setCore c x).block? n = s.block? n := by
  rcases Nat.lt_or_ge c s.cores.length with hlt | hge
  · rw [block?, s.core_setCore c n x hlt]
    split
    · rename_i hn
      rw [h, hn, block?]
    · rfl
  · rw [setCore, List.set_eq_of_length_le hge]

theorem State.follows_writeThrough (s : State) (core : Nat) (x : Loc) (n : Nat) : s.Follows (s.writeThrough core x n) := by
  unfold writeThrough
  split
  · dsimp only
    split
    · exact .refl s
    · exact ⟨rfl, block?_setCore rfl⟩
  · split
    · exact .refl s
    · exact follows_modTower ..

/-- Where the towers hold no copy and the core's L1 is empty, nothing follows a write. -/
theorem State.writeThrough_of_no_copy {core : Nat} {x : Loc} {n : Nat} (hcopied : s.copied = false) (hl1 : (s.core core).l1 = []) :
    s.writeThrough core x n = s := by
  cases x <;> simp [writeThrough, hcopied, hl1]

end
end Sys2Proof.Machine
end

section
/-! SUPPORT. One write at a location, and a list of them (R106, R119, R126, R127, R131). -/
namespace Sys2Proof.Machine

/-- A write of `n` bytes at a location does not reach byte `a` of package memory. -/
def Loc.MissesPkg (x : Loc) (n a : Nat) : Prop := ∀ p, x = .pkg p → a < p ∨ p + n ≤ a
/-- A write of `n` bytes at a location does not reach byte `a` of host memory. -/
def Loc.MissesHost (x : Loc) (n a : Nat) : Prop := ∀ p, x = .host p → a < p ∨ p + n ≤ a
/-- A write of `n` bytes at a location does not reach byte `a` of the peers' memory. -/
def Loc.MissesPeer (x : Loc) (n a : Nat) : Prop := ∀ m p, x = .peer m p → a < peerIndex m p ∨ peerIndex m p + n ≤ a

/-- A write of `n` bytes at a location covers no failing granule in part (R127). -/
def State.CoversWhole (s : State) (x : Loc) (n : Nat) : Prop := ∀ p, x = .pkg p → s.partGranules p n = []

/-- What some writes leave as it was. -/
structure State.Wrote (s : State) (ws : List (Loc × List Byte)) (t : State) : Prop where
  mem : ∀ a, (∀ w ∈ ws, w.1.MissesPkg w.2.length a) → cellGet t.mem a = cellGet s.mem a
  peerMem : ∀ a, (∀ w ∈ ws, w.1.MissesPeer w.2.length a) → cellGet t.peerMem a = cellGet s.peerMem a
  hostMem : (∀ w ∈ ws, s.CoversWhole w.1 w.2.length) → ∀ a, (∀ w ∈ ws, w.1.MissesHost w.2.length a) → cellGet t.hostMem a = cellGet s.hostMem a
  failing : ∀ n, n ∈ t.failing → n ∈ s.failing
  homeLog : ∀ x, x ∈ s.homeLog → x ∈ t.homeLog
  block : ∀ n, t.block? n = s.block? n

/-- The bytes of a write stand in the memory it names; in package memory, where no granule of it fails. -/
structure State.Stores (s : State) (x : Loc) (bs : List Byte) (t : State) : Prop where
  mem : ∀ i, i < bs.length → ∀ p, x = .pkg p → s.granulesFail p bs.length = false → cellGet t.mem (p + i) = bs.getD i 0
  hostMem : ∀ i, i < bs.length → ∀ p, x = .host p → cellGet t.hostMem (p + i) = bs.getD i 0
  peerMem : ∀ i, i < bs.length → ∀ m p, x = .peer m p → cellGet t.peerMem (peerIndex m p + i) = bs.getD i 0

/-- Between the two states nothing differs but the memories, the marks of failing granules and the note of what writes have replaced. -/
def State.OnlyMemories (s t : State) : Prop :=
  t = { s with mem := t.mem, hostMem := t.hostMem, peerMem := t.peerMem, failing := t.failing, homeLog := t.homeLog }

section
variable {s t u : State} {x : Loc} {bs : List Byte} {ws ws' : List (Loc × List Byte)}

theorem State.CoversWhole.of_failing {n : Nat} (h : s.CoversWhole x n) (hsub : ∀ n, n ∈ t.failing → n ∈ s.failing) : t.CoversWhole x n := by
  intro p hp
  refine List.filter_eq_nil_iff.mpr fun g hg => ?_
  exact List.filter_eq_nil_iff.mp (h p hp) g (hsub g hg)

theorem State.granulesFail_of_failing {p n : Nat} (h : s.granulesFail p n = false) (hsub : ∀ n, n ∈ t.failing → n ∈ s.failing) :
    t.granulesFail p n = false :=
  List.any_eq_false.mpr fun g hg => List.any_eq_false.mp h g (hsub g hg)

theorem State.Wrote.trans (h : s.Wrote ws t) (h' : t.Wrote ws' u) : s.Wrote (ws ++ ws') u where
  mem a ha := (h'.mem a fun w hw => ha w (List.mem_append_right _ hw)).trans (h.mem a fun w hw => ha w (List.mem_append_left _ hw))
  peerMem a ha := (h'.peerMem a fun w hw => ha w (List.mem_append_right _ hw)).trans (h.peerMem a fun w hw => ha w (List.mem_append_left _ hw))
  hostMem hcov a ha :=
    (h'.hostMem (fun w hw => (hcov w (List.mem_append_right _ hw)).of_failing h.failing) a fun w hw => ha w (List.mem_append_right _ hw)).trans
      (h.hostMem (fun w hw => hcov w (List.mem_append_left _ hw)) a fun w hw => ha w (List.mem_append_left _ hw))
  failing n hn := h.failing n (h'.failing n hn)
  homeLog y hy := h'.homeLog y (h.homeLog y hy)
  block n := (h'.block n).trans (h.block n)

theorem State.Follows.wrote (h : s.Follows t) : s.Wrote [] t := by
  obtain ⟨heq, hblock⟩ := h
  rw [heq] at hblock ⊢
  exact ⟨fun _ _ => rfl, fun _ _ => rfl, fun _ _ _ => rfl, fun _ => id, fun _ => id, hblock⟩

theorem State.Stores.followed (h : s.Stores x bs t) (h' : t.Follows u) : s.Stores x bs u := by
  rw [h'.1]
  exact ⟨h.mem, h.hostMem, h.peerMem⟩

theorem State.OnlyMemories.trans (h : s.OnlyMemories t) (h' : t.OnlyMemories u) : s.OnlyMemories u := by
  unfold State.OnlyMemories at *
  rw [h'.trans (by rw [h])]

theorem State.OnlyMemories.copied (h : s.OnlyMemories t) : t.copied = s.copied := by
  rw [h]
  rfl

theorem State.OnlyMemories.core (h : s.OnlyMemories t) (n : Nat) : t.core n = s.core n := by
  rw [h]
  rfl

/-! ### A write at its home -/

theorem State.reports_writePkg (s : State) (a : Nat) (bs : List Byte) :
    ({ s with mem := putRun s.failing a bs.length s.mem a bs
              failing := s.failing.filter (fun g => !(decide (a ≤ 32 * g) && decide (32 * g + 32 ≤ a + bs.length))) } : State).Reports
      (s.writePkg a bs) := reports_foldl_log _ _ _ _

theorem State.writePkg_mem (s : State) (a : Nat) (bs : List Byte) : (s.writePkg a bs).mem = putRun s.failing a bs.length s.mem a bs :=
  congrArg State.mem (s.reports_writePkg a bs)

theorem State.writePkg_of_whole {a : Nat} (h : s.partGranules a bs.length = []) : s.writePkg a bs =
    { s with mem := putRun s.failing a bs.length s.mem a bs
             failing := s.failing.filter (fun g => !(decide (a ≤ 32 * g) && decide (32 * g + 32 ≤ a + bs.length))) } := by
  rw [writePkg, h]
  rfl

theorem State.wrote_writePkg {a : Nat} (h : s.Inv) : s.Wrote [(.pkg a, bs)] (s.writePkg a bs) := by
  have hrep := s.reports_writePkg a bs
  refine ⟨fun b hb => ?_, fun b _ => by rw [hrep], fun hcov b _ => ?_, fun n hn => ?_, fun y hy => ?_, fun n => ?_⟩
  · rw [writePkg_mem, cellGet_putRun_outside _ _ _ _ _ _ h.1 (hb _ (List.mem_singleton_self _) a rfl)]
  · rw [writePkg_of_whole (hcov _ (List.mem_singleton_self _) a rfl)]
  · rw [hrep] at hn
    exact (List.mem_filter.mp hn).1
  · rw [hrep]
    exact hy
  · rw [hrep]
    rfl

theorem State.stores_writePkg {a : Nat} (h : s.Inv) : s.Stores (.pkg a) bs (s.writePkg a bs) := by
  refine ⟨fun i hi p hp hclear => ?_, fun _ _ _ hp => (nomatch hp), fun _ _ _ _ hp => (nomatch hp)⟩
  cases hp
  rw [writePkg_mem, putRun_of_clear _ _ _ _ _ (fun j hj => not_failing_of_granulesFail hclear hj), cellGet_cellSetList_getD _ _ _ h.1 hi]

theorem State.wrote_storeHome (h : s.Inv) : s.Wrote [(x, bs)] (s.storeHome x bs) := by
  cases x with
  | pkg a => exact wrote_writePkg h
  | peer m a =>
    refine ⟨fun _ _ => rfl, fun b hb => ?_, fun _ _ _ => rfl, fun _ => id, fun _ => id, fun _ => rfl⟩
    exact cellGet_cellSetList_outside _ _ _ h.2.2.1 (hb _ (List.mem_singleton_self _) m a rfl)
  | host a =>
    refine ⟨fun _ _ => rfl, fun _ _ => rfl, fun _ b hb => ?_, fun _ => id, fun _ => id, fun _ => rfl⟩
    exact cellGet_cellSetList_outside _ _ _ h.2.1 (hb _ (List.mem_singleton_self _) a rfl)

theorem State.stores_storeHome (h : s.Inv) : s.Stores x bs (s.storeHome x bs) := by
  cases x with
  | pkg a => exact stores_writePkg h
  | peer m a =>
    refine ⟨fun _ _ _ hp => (nomatch hp), fun _ _ _ hp => (nomatch hp), fun i hi _ _ hp => ?_⟩
    cases hp
    exact cellGet_cellSetList_getD _ _ _ h.2.2.1 hi
  | host a =>
    refine ⟨fun _ _ _ hp => (nomatch hp), fun i hi _ hp => ?_, fun _ _ _ _ hp => (nomatch hp)⟩
    cases hp
    exact cellGet_cellSetList_getD _ _ _ h.2.1 hi

theorem State.onlyMemories_storeHome (h : s.CoversWhole x bs.length) : s.OnlyMemories (s.storeHome x bs) := by
  cases x with
  | pkg a =>
    rw [storeHome, writePkg_of_whole (h a rfl)]
    rfl
  | peer m a => rfl
  | host a => rfl

theorem State.noteWrite_eq (s : State) (x : Loc) (n : Nat) : s.noteWrite x n = { s with homeLog := (s.noteWrite x n).homeLog } := by
  unfold noteWrite
  split <;> rfl

theorem State.mem_noteWrite_homeLog {n : Nat} {y : Loc × List Byte} (h : y ∈ s.homeLog) : y ∈ (s.noteWrite x n).homeLog := by
  unfold noteWrite
  split
  · exact List.mem_cons_of_mem _ h
  · exact h

theorem State.wrote_noteWrite (s : State) (x : Loc) (n : Nat) : s.Wrote [] (s.noteWrite x n) := by
  have hlog := fun y => mem_noteWrite_homeLog (s := s) (x := x) (n := n) (y := y)
  rw [noteWrite_eq] at hlog ⊢
  exact ⟨fun _ _ => rfl, fun _ _ => rfl, fun _ _ _ => rfl, fun _ => id, hlog, fun _ => rfl⟩

theorem State.onlyMemories_noteWrite (s : State) (x : Loc) (n : Nat) : s.OnlyMemories (s.noteWrite x n) := by
  rw [noteWrite_eq]
  rfl

end

/-! ### The three ways of writing -/

/-- A way of writing the bytes of a run at a location. -/
structure WritesMemory (put : State → Loc → List Byte → State) : Prop where
  inv : ∀ {s : State} {x : Loc} {bs : List Byte}, s.Inv → (put s x bs).Inv
  wrote : ∀ {s : State} {x : Loc} {bs : List Byte}, s.Inv → s.Wrote [(x, bs)] (put s x bs)
  stores : ∀ {s : State} {x : Loc} {bs : List Byte}, s.Inv → s.Stores x bs (put s x bs)
  only : ∀ {s : State} {x : Loc} {bs : List Byte}, s.CoversWhole x bs.length → s.copied = false → (∀ n, (s.core n).l1 = []) → s.OnlyMemories (put s x bs)

theorem writesMemory_writeHome : WritesMemory State.writeHome where
  inv := State.Inv.writeHome
  wrote h := (State.wrote_noteWrite _ _ _).trans (State.wrote_storeHome h.noteWrite)
  stores {s x bs} h := by
    have hstores := State.stores_storeHome (x := x) (bs := bs) (h.noteWrite (loc := x) (n := bs.length))
    exact ⟨fun i hi p hp hclear => hstores.mem i hi p hp
      (State.granulesFail_of_failing hclear (s.wrote_noteWrite x bs.length).failing), hstores.hostMem, hstores.peerMem⟩
  only hcov _ _ := (State.onlyMemories_noteWrite _ _ _).trans
    (State.onlyMemories_storeHome (hcov.of_failing (State.wrote_noteWrite _ _ _).failing))

/-- What follows a write keeps what it says, and where there is no copy nothing follows. -/
theorem WritesMemory.followed {put put' : State → Loc → List Byte → State} (h : WritesMemory put)
    (hinv : ∀ {s : State} {x : Loc} {bs : List Byte}, s.Inv → (put' s x bs).Inv) (hfollows : ∀ (s : State) (x : Loc) (bs : List Byte), (put s x bs).Follows (put' s x bs))
    (hquiet : ∀ {s : State} {x : Loc} {bs : List Byte}, s.copied = false → (put s x bs).copied = false → (∀ n, ((put s x bs).core n).l1 = []) → put' s x bs = put s x bs) :
    WritesMemory put' where
  inv := hinv
  wrote hs := (h.wrote hs).trans (hfollows _ _ _).wrote
  stores hs := (h.stores hs).followed (hfollows _ _ _)
  only hcov hcopied hl1 := by
    have honly := h.only hcov hcopied hl1
    rw [hquiet hcopied (honly.copied.trans hcopied) (fun n => by rw [honly.core, hl1])]
    exact honly

theorem writesMemory_writeLoc : WritesMemory State.writeLoc := by
  refine writesMemory_writeHome.followed State.Inv.writeLoc (fun s x bs => ?_) (fun hcopied _ _ => ?_)
  · unfold State.writeLoc
    split
    · split
      · exact State.follows_sendLines ..
      · exact State.follows_of_eq rfl
    · exact .refl _
  · unfold State.writeLoc
    rw [hcopied]
    rfl

theorem writesMemory_towerWrite (n : Nat) (who : Option Who) (m : MemOrder) : WritesMemory (fun s => s.towerWrite n who m) := by
  refine writesMemory_writeHome.followed State.Inv.towerWrite (fun s x bs => ?_) (fun hcopied _ _ => ?_)
  · unfold State.towerWrite
    split
    · split
      · exact State.follows_sendLines ..
      · exact State.follows_of_eq rfl
    · exact .refl _
  · unfold State.towerWrite
    rw [hcopied]
    rfl

theorem writesMemory_laneWrite (who : Who) (m : MemOrder) : WritesMemory (fun s => s.laneWrite who m) :=
  (writesMemory_towerWrite (towerOf who.1) (some who) m).followed State.Inv.laneWrite (fun _ _ _ => State.follows_writeThrough ..)
    (fun _ hcopied hl1 => State.writeThrough_of_no_copy hcopied (hl1 _))

/-! ### A list of writes -/

/-- Writes performed in order. -/
def State.writeAll (put : State → Loc → List Byte → State) (s : State) (ws : List (Loc × List Byte)) : State :=
  ws.foldl (fun t w => put t w.1 w.2) s

section
variable {put : State → Loc → List Byte → State} (hput : WritesMemory put) {s : State} {ws : List (Loc × List Byte)}
include hput

theorem WritesMemory.inv_writeAll (h : s.Inv) : (s.writeAll put ws).Inv := h.foldl fun _ _ hs => hput.inv hs

theorem WritesMemory.wrote_writeAll (h : s.Inv) : s.Wrote ws (s.writeAll put ws) := by
  induction ws generalizing s with
  | nil => exact (State.Follows.refl s).wrote
  | cons w r ih => exact (hput.wrote h).trans (ih (hput.inv h))

theorem WritesMemory.stores_writeAll {ini : List (Loc × List Byte)} {x : Loc} {bs : List Byte} (h : s.Inv) :
    s.Stores x bs (s.writeAll put (ini ++ [(x, bs)])) := by
  rw [State.writeAll, List.foldl_append]
  have hlast := hput.stores (x := x) (bs := bs) (hput.inv_writeAll (ws := ini) h)
  exact ⟨fun i hi p hp hclear => hlast.mem i hi p hp (State.granulesFail_of_failing hclear (hput.wrote_writeAll h).failing), hlast.hostMem,
    hlast.peerMem⟩

theorem WritesMemory.onlyMemories_writeAll (h : s.Inv) (hcov : ∀ w ∈ ws, s.CoversWhole w.1 w.2.length) (hcopied : s.copied = false)
    (hl1 : ∀ n, (s.core n).l1 = []) : s.OnlyMemories (s.writeAll put ws) := by
  induction ws generalizing s with
  | nil => rfl
  | cons w r ih =>
    obtain ⟨hw, hr⟩ := List.forall_mem_cons.mp hcov
    have honly := hput.only hw hcopied hl1
    exact honly.trans (ih (hput.inv h) (fun v hv => (hr v hv).of_failing (hput.wrote h).failing) (honly.copied.trans hcopied)
      (fun n => by rw [honly.core, hl1]))

end
end Sys2Proof.Machine
end

section
/-! SUPPORT. A store into the data scratchpad (R109, R126, R127, R186). -/
namespace Sys2Proof.Machine

/-- The cells of a store that are stored: those in a group that does not fail, or that the store covers whole. -/
def Block.keptCells (b : Block) (o : Nat) (bs : List Byte) : List (Nat × Byte) :=
  (bs.mapIdx (fun i v => (o + i, v))).filter (fun p => !b.dsFail.contains (p.1 / 8) || groupWhole o bs.length (p.1 / 8))

section
variable {b : Block} {o : Nat} {bs : List Byte}

theorem groupWhole_iff {n g : Nat} : groupWhole o n g = true ↔ o ≤ 8 * g ∧ 8 * g + 8 ≤ o + n := by simp [groupWhole]

theorem Block.dsStore_ds : (b.dsStore o bs).ds = cellSetAll b.ds (b.keptCells o bs) := rfl

theorem Block.mem_dsStore_dsFail {n : Nat} :
    n ∈ (b.dsStore o bs).dsFail ↔ n ∈ b.dsFail ∧ ¬ (o ≤ 8 * n ∧ 8 * n + 8 ≤ o + bs.length) := by
  rw [dsStore, List.mem_filter, Bool.not_eq_true', ← Bool.not_eq_true, groupWhole_iff]

theorem Block.mem_keptCells {p : Nat × Byte} : p ∈ b.keptCells o bs ↔ (∃ i, i < bs.length ∧ p = (o + i, bs.getD i 0)) ∧
    (p.1 / 8 ∈ b.dsFail → o ≤ 8 * (p.1 / 8) ∧ 8 * (p.1 / 8) + 8 ≤ o + bs.length) := by
  rw [keptCells, List.mem_filter, List.mem_mapIdx, Bool.or_eq_true, Bool.not_eq_true', groupWhole_iff, ← Bool.not_eq_true,
    List.contains_iff_mem, ← Decidable.imp_iff_not_or]
  refine and_congr_left fun _ => exists_congr fun i => ?_
  constructor
  · rintro ⟨hi, rfl⟩
    exact ⟨hi, by rw [getD_of_lt hi]⟩
  · rintro ⟨hi, rfl⟩
    exact ⟨hi, by rw [getD_of_lt hi]⟩

theorem Block.dsStore_wf (h : b.ds.wf = true) : (b.dsStore o bs).ds.wf = true := cellSetAll_wf _ h

/-- A byte that the store does not reach, or that lies in a failing group it does not cover whole, stays. -/
theorem Block.cellGet_dsStore_of_not_kept {a : Nat} (h : b.ds.wf = true)
    (ha : o ≤ a → a < o + bs.length → a / 8 ∈ b.dsFail ∧ ¬ (o ≤ 8 * (a / 8) ∧ 8 * (a / 8) + 8 ≤ o + bs.length)) :
    cellGet (b.dsStore o bs).ds a = cellGet b.ds a := by
  rw [dsStore_ds]
  refine cellGet_cellSetAll_outside h fun p hp hpa => ?_
  obtain ⟨⟨i, hi, rfl⟩, hkept⟩ := mem_keptCells.mp hp
  obtain rfl : o + i = a := hpa
  obtain ⟨hfail, hpart⟩ := ha (by omega) (by omega)
  exact hpart (hkept hfail)

/-- A byte of the store in a group that does not fail, or that the store covers whole, is stored. -/
theorem Block.cellGet_dsStore_of_kept {i : Nat} (h : b.ds.wf = true) (hi : i < bs.length)
    (hkept : (o + i) / 8 ∈ b.dsFail → o ≤ 8 * ((o + i) / 8) ∧ 8 * ((o + i) / 8) + 8 ≤ o + bs.length) :
    cellGet (b.dsStore o bs).ds (o + i) = bs.getD i 0 := by
  rw [dsStore_ds]
  refine cellGet_cellSetAll_inside h (mem_keptCells.mpr ⟨⟨i, hi, rfl⟩, hkept⟩) fun p hp hpi => ?_
  obtain ⟨⟨j, -, rfl⟩, -⟩ := mem_keptCells.mp hp
  rw [show j = i from Nat.add_left_cancel hpi]

end
end Sys2Proof.Machine
end

section
/-! PROOFS. Writes of memory and of the data scratchpad (R106, R109, R119, R126, R127, R131, R186). -/
namespace Sys2Proof
open Machine

/-- Settles O34: each of the three ways of writing stores the run at its home, after which but clocks and copies change; a list of writes
keeps what each of them keeps. In a scratchpad the cells stored are those of groups that do not fail or are covered whole. -/
theorem aWriteChangesItsBytesAndNoOther : Obligations.AWriteChangesItsBytesAndNoOther := by
  refine ⟨fun s ws put hs hway => ?memories, fun b o bs hwf => ?scratchpad⟩
  case memories =>
    have hput : WritesMemory put := by
      obtain rfl | ⟨n, who, m, rfl⟩ | ⟨who, m, rfl⟩ := hway
      · exact writesMemory_writeLoc
      · exact writesMemory_towerWrite n who m
      · exact writesMemory_laneWrite who m
    have hwrote : s.Wrote ws (s.writeAll put ws) := hput.wrote_writeAll hs
    refine ⟨hwrote.mem, hwrote.peerMem, fun ini x bs hlast i hi => ?_, hwrote.failing, hput.inv_writeAll hs, hwrote.homeLog,
      fun hcov => ⟨hwrote.hostMem hcov, hwrote.block, hput.onlyMemories_writeAll hs hcov⟩⟩
    subst hlast
    have hstores : s.Stores x bs (s.writeAll put (ini ++ [(x, bs)])) := hput.stores_writeAll hs
    exact ⟨hstores.mem i hi, hstores.hostMem i hi, hstores.peerMem i hi⟩
  case scratchpad =>
    refine ⟨rfl, Block.dsStore_wf hwf, fun n hn => (Block.mem_dsStore_dsFail.mp hn).1, fun a ha => ?outside, fun i hi hgood => ?inside,
      fun n hn hlow hhigh => ⟨fun hstill => (Block.mem_dsStore_dsFail.mp hstill).2 ⟨hlow, hhigh⟩, fun i hi => ?whole⟩,
      fun n i hn hi hpart => ?part⟩
    case outside => exact Block.cellGet_dsStore_of_not_kept hwf fun hlo hhi => absurd ha (by omega)
    case inside => exact Block.cellGet_dsStore_of_kept hwf hi fun hfail => absurd hfail hgood
    case whole =>
      have hplace : o + (8 * n + i - o) = 8 * n + i := by omega
      have hgroup : (8 * n + i) / 8 = n := by omega
      rw [← hplace]
      refine (Block.cellGet_dsStore_of_kept hwf (by omega) fun _ => ?_).trans (by rw [Nat.add_sub_cancel_left])
      rw [hplace, hgroup]
      exact ⟨hlow, hhigh⟩
    case part =>
      have hgroup : (8 * n + i) / 8 = n := by omega
      exact Block.cellGet_dsStore_of_not_kept hwf fun _ _ => by rw [hgroup]; exact ⟨hn, hpart⟩

end Sys2Proof
end

section
/-! SUPPORT. A lane's own staged entries (R148, R150, R151): which they are, in staging order, and what its load of a byte takes from them. -/
namespace Sys2Proof.Machine

section
variable {b : Block} {f : Forward} {l a i : Nat} {ini : List TellerEntry} {e : TellerEntry}

/-- An entry not yet applied that a lane has staged on a byte before a load. -/
def TellerEntry.OwnOn (e : TellerEntry) (f : Forward) (l a : Nat) : Prop :=
  e.gang = f.gang ∧ e.lane = l ∧ e.seq < f.before ∧ e.addr.toNat ≤ a ∧ a < e.addr.toNat + e.size

theorem Block.mem_stagedOn : e ∈ b.stagedOn f l a ↔ e ∈ b.teller ∧ e.OwnOn f l a := by
  simp only [stagedOn, (sortBy_perm _).mem_iff, List.mem_filter, TellerEntry.OwnOn, Bool.and_eq_true, decide_eq_true_eq, and_assoc]

theorem Block.stagedOn_pairwise (b : Block) (f : Forward) (l a : Nat) : (b.stagedOn f l a).Pairwise (fun x y => x.seq ≤ y.seq) :=
  (sortBy_pairwise (fun _ _ => by simp only [decide_eq_true_eq]; exact Nat.le_total _ _)
    (fun _ _ _ => by simp only [decide_eq_true_eq]; exact Nat.le_trans) _).imp of_decide_eq_true

theorem Block.mem_of_stagedOn_eq (h : b.stagedOn f l a = ini ++ [e]) {x : TellerEntry} : x ∈ ini ∨ x = e ↔ x ∈ b.teller ∧ x.OwnOn f l a := by
  rw [← mem_stagedOn, h, List.mem_append, List.mem_singleton]

theorem Block.le_of_stagedOn_eq (h : b.stagedOn f l a = ini ++ [e]) : ∀ x ∈ ini, x.seq ≤ e.seq := fun x hx =>
  (List.pairwise_append.mp (h ▸ b.stagedOn_pairwise f l a)).2.2 x hx e (List.mem_singleton_self e)

theorem Block.forwardByte_of_none_staged (h : ∀ e ∈ b.teller, ¬ e.OwnOn f l (f.va + i)) : b.forwardByte f l i = none := by
  have hnil : b.stagedOn f l (f.va + i) = [] := List.eq_nil_iff_forall_not_mem.mpr fun e he =>
    h e (mem_stagedOn.mp he).1 (mem_stagedOn.mp he).2
  rw [forwardByte, hnil]
  rfl

theorem Block.forwardByte_of_store_last (h : b.stagedOn f l (f.va + i) = ini ++ [e]) (hstore : e.kind = .store) :
    b.forwardByte f l i = some (e.byteAt (f.va + i)) := by
  simp only [forwardByte, h, List.getLast?_concat, if_pos hstore]

/-- An atomic last leaves nothing, or the byte of the latest store before it (log entry 9). -/
theorem Block.forwardByte_of_atomic_last (h : b.stagedOn f l (f.va + i) = ini ++ [e]) (hatomic : e.kind ≠ .store) :
    b.forwardByte f l i = none ∨ ∃ y ∈ ini, y.kind = .store ∧ (∀ z ∈ ini, z.kind = .store → z.seq ≤ y.seq) ∧
      b.forwardByte f l i = some (y.byteAt (f.va + i)) := by
  have hstores : (ini ++ [e]).filter (fun x => x.kind == .store) = ini.filter (fun x => x.kind == .store) := by simp [hatomic]
  have hsorted : (ini.filter (fun x => x.kind == .store)).Pairwise (fun x y => x.seq ≤ y.seq) :=
    (List.pairwise_append.mp (h ▸ b.stagedOn_pairwise f l _)).1.filter _
  simp only [forwardByte, h, List.getLast?_concat, if_neg hatomic, hstores]
  cases hlast : (ini.filter (fun x => x.kind == .store)).getLast? with
  | none => exact Or.inl rfl
  | some y =>
    obtain ⟨earlier, hsplit⟩ := List.getLast?_eq_some_iff.mp hlast
    have hmem : ∀ z, z ∈ earlier ∨ z = y ↔ z ∈ ini ∧ z.kind = .store := fun z => by
      rw [← List.mem_singleton, ← List.mem_append, ← hsplit, List.mem_filter, beq_iff_eq]
    have hlatest : ∀ z ∈ ini, z.kind = .store → z.seq ≤ y.seq := fun z hz hzstore =>
      ((hmem z).mpr ⟨hz, hzstore⟩).elim
        (fun hearlier => (List.pairwise_append.mp (hsplit ▸ hsorted)).2.2 z hearlier y (List.mem_singleton_self y)) (fun hzy => hzy ▸ Nat.le_refl _)
    obtain ⟨hy, hystore⟩ := (hmem y).mp (Or.inr rfl)
    dsimp only
    split
    · exact Or.inr ⟨y, hy, hystore, hlatest, rfl⟩
    · exact Or.inl rfl

end
end Sys2Proof.Machine
end

section
/-! SUPPORT. The checks of R108 where every access reaches memory: no walk faults, no leaf refuses, and no byte that is read fails. -/
namespace Sys2Proof.Machine

/-- A run that holds the first and the last byte of a granule of package memory holds it whole. -/
theorem Spot.meets_granule {x : Spot} {n granule : Nat} :
    (x.meets n (.vm (.pkg (granule * 32))) 1 && x.meets n (.vm (.pkg (granule * 32 + 31))) 1) = true ↔
      ∃ a, x = .vm (.pkg a) ∧ a ≤ 32 * granule ∧ 32 * granule + 32 ≤ a + n := by
  cases x with
  | ds c a => simp [Spot.meets]
  | rs a => simp [Spot.meets]
  | vm l =>
    cases l with
    | peer m a => simp [Spot.meets]
    | host a => simp [Spot.meets]
    | pkg a =>
      simp only [Spot.meets, Bool.and_eq_true, runsMeet_iff, Spot.vm.injEq, Loc.pkg.injEq]
      constructor
      · rintro ⟨hfirst, hlast⟩
        exact ⟨a, rfl, by omega, by omega⟩
      · rintro ⟨a, rfl, hlow, hhigh⟩
        exact ⟨by omega, by omega⟩

theorem Ctx.mends_granule {c : Ctx} {lanes : LaneBits} {granule : Nat} :
    c.g.mends lanes (.vm (.pkg (granule * 32))) 32 = true ↔ c.Mended lanes granule := by
  simp only [Gang.mends, Mended, List.any_eq_true, Spot.plus, Loc.plus, Bool.and_assoc]
  refine exists_congr fun o => and_congr_right fun _ => exists_congr fun y => and_congr_right fun _ => ?_
  rw [Bool.and_eq_true, Bool.and_eq_true, bne_iff_ne, Spot.meets_granule]

section
variable {c : Ctx} {s : State}

theorem Ctx.badByte_eq_none {lanes : LaneBits} {own : VAcc → Nat → Bool} {a : VAcc} {loc : Loc}
    (h : ∀ i, i < a.n → own a i = false → ¬ c.Fails s lanes loc i) : s.badByte c.g lanes own a loc = none := by
  cases loc with
  | peer m p => rfl
  | host p => rfl
  | pkg p =>
    refine Option.map_eq_none_iff.mpr (List.find?_eq_none.mpr fun i hi hbad => ?_)
    simp only [Bool.and_eq_true, Bool.not_eq_true', List.contains_iff_mem, ← Bool.not_eq_true, mends_granule] at hbad
    obtain ⟨⟨hfail, hown⟩, hkept⟩ := hbad
    exact h i (List.mem_range.mp hi) (Bool.not_eq_true _ ▸ hown) ⟨p, rfl, hfail, hkept⟩

theorem faultWalks_eq_nil {k : AccKind} {ws : List (VAcc × Walk)} (h : ∀ p ∈ ws, ∃ loc leaf, p.2 = .ok loc leaf) : faultWalks k ws = [] := by
  unfold faultWalks
  induction ws with
  | nil => rfl
  | cons p r ih =>
    obtain ⟨⟨loc, leaf, hp⟩, hr⟩ := List.forall_mem_cons.mp h
    rw [List.foldl_cons, hp]
    exact ih hr

/-- The checks give every access its place; `ln` and `bits` name its lane, and the lanes in whose program order it stands. -/
theorem Ctx.translateAll_of_reaches {k : AccKind} {home : Loc → Bool} {reads : Bool} {n : Nat} {ls : List Nat} {ea : Nat → Nat}
    {loc : Nat → Loc × Bool} {own : Nat → Nat → Bool} {bits : Nat → LaneBits} {supplied : VAcc → Nat → Bool} {order : Nat → LaneBits} (ln : Nat → Nat)
    (h : c.Reaches s k home reads n ls ea loc own bits) (hown : ∀ l i, supplied ⟨ln l, ea l, n⟩ i = own l i) (hbits : ∀ l, order (ln l) = bits l) :
    c.translateAll s k home reads (ls.map (fun l => ⟨ln l, ea l, n⟩)) supplied order = .ok (ls.map loc) := by
  have hleaves (l : Nat) : ∃ leaf : Leaf, l ∈ ls → walk s (c.tlb s) c.blk.cfg.asid (ea l) = .ok (loc l).1 leaf ∧
      leaf.allows c.blk.cfg.smode k = true ∧ leaf.ms = (loc l).2 := by
    by_cases hl : l ∈ ls
    · obtain ⟨-, -, ⟨leaf, hleaf⟩, -⟩ := h l hl
      exact ⟨leaf, fun _ => hleaf⟩
    · exact ⟨leafOf 0, fun hl' => absurd hl' hl⟩
  obtain ⟨leaf, hwalk⟩ := Classical.skolem.mp hleaves
  have hwalks : (ls.map (fun l => (⟨ln l, ea l, n⟩ : VAcc))).map (fun a => (a, walk s (c.tlb s) c.blk.cfg.asid a.addr)) =
      ls.map (fun l => (⟨ln l, ea l, n⟩, .ok (loc l).1 (leaf l))) := by
    rw [List.map_map]
    exact List.map_congr_left fun l hl => congrArg (Prod.mk _) (hwalk l hl).1
  have hfault : faultWalks k (ls.map (fun l => (⟨ln l, ea l, n⟩, .ok (loc l).1 (leaf l)))) = [] :=
    faultWalks_eq_nil (List.forall_mem_map.mpr fun l _ => ⟨_, _, rfl⟩)
  have hleaf : (ls.map (fun l => ((⟨ln l, ea l, n⟩ : VAcc), Walk.ok (loc l).1 (leaf l)))).find? (fun p => !step5 c.blk.cfg.smode k home p.2) = none := by
    refine find?_map_eq_none fun l hl => ?_
    rw [step5, (hwalk l hl).2.1, (h l hl).2.2.2.1]
    rfl
  have hlocs : walkLocs (ls.map (fun l => (⟨ln l, ea l, n⟩, .ok (loc l).1 (leaf l)))) = ls.map (fun l => (⟨ln l, ea l, n⟩, loc l)) := by
    rw [walkLocs, List.filterMap_map]
    refine (congrFun (List.filterMap_eq_map (f := fun l => ((⟨ln l, ea l, n⟩ : VAcc), (loc l).1, (leaf l).ms))) ls).trans ?_
    exact List.map_congr_left fun l hl => congrArg (fun ms => (_, (loc l).1, ms)) (hwalk l hl).2.2
  rw [translateAll, hwalks, hfault, hleaf, hlocs]
  dsimp only
  split
  next hreads =>
    have hgood : (ls.map (fun l => ((⟨ln l, ea l, n⟩ : VAcc), loc l))).findSome?
        (fun p => s.badByte c.g (order p.1.lane) supplied p.1 p.2.1) = none := by
      refine List.findSome?_eq_none_iff.mpr (List.forall_mem_map.mpr fun l hl => badByte_eq_none fun i hi hi' => ?_)
      rw [hbits]
      exact (h l hl).2.2.2.2 hreads i hi (hown l i ▸ hi')
    rw [step6, hgood, List.map_map]
    rfl
  next => rw [List.map_map]; rfl

end
end Sys2Proof.Machine
end

section
/-! SUPPORT. The reduce-adds of a `tcommit` (R118, R147, R208). -/
namespace Sys2Proof.Machine

section
variable {c : Ctx} {s : State} {a : Src} {loc : Nat → Loc × Bool}

/-- The reduce-adds stand at the places that their blocks have, in staging order. -/
theorem Ctx.reduceAccs_eq (c : Ctx) (s : State) (bs : List (Nat × Nat)) (loc : Nat → Loc × Bool) :
    c.reduceAccs (c.tlb s) bs ((List.range bs.length).map loc) = c.via s ((List.range bs.length).map (fun j =>
      planeAccess c.low c.iss.active (loc j) (.reduce (8 * (bs.getD j (0, 0)).1)))) (bs.map (fun b => (c.low, b.2))) := by
  refine List.ext_getElem (by simp [reduceAccs, via]) fun j hj _ => ?_
  have hlt : j < bs.length := by simpa [reduceAccs] using hj
  simp [reduceAccs, via, planeAccess, hlt, Ctx.tlb]

theorem exec_tcommit_past {t : BitVec 32} (hc : ctx? s = some c) (hok : c.Ok [a]) (ht : (c.read c.low a).setWidth 32 = t)
    (hle : t.toNat ≤ c.g.tlast.toNat) : exec (.tcommit a) s = .next (s.retire (({ c.g with commit := [] } : Gang).addOp
      { c.outstanding [] [] with isWrite := true, asid := none })) := by
  subst ht
  exact (checkedWord_ok hc hok).trans (if_pos hle)

theorem exec_tcommit_later {t : BitVec 32} (hc : ctx? s = some c) (hok : c.Ok [a]) (ht : (c.read c.low a).setWidth 32 = t)
    (hlt : c.g.tlast.toNat < t.toNat) : exec (.tcommit a) s = c.goCommit s t := by
  subst ht
  exact (checkedWord_ok hc hok).trans (if_neg (Nat.not_le.mpr hlt))

theorem Ctx.goCommit_of_reaches {t : BitVec 32}
    (h : c.Reaches s .both Loc.isPkg true 2048 (List.range (commitBlocks c.g.commit).length) (fun j => ((commitBlocks c.g.commit).getD j (0, 0)).2)
      loc (lanes := fun _ => c.iss.active)) :
    c.goCommit s t = .next (s.retire (({ c.g with commit := [], tlast := t } : Gang).addOp
      { c.outstanding (c.reduceAccs (c.tlb s) (commitBlocks c.g.commit) ((List.range (commitBlocks c.g.commit).length).map loc)) []
        with isWrite := true })) := by
  have hblocks : (commitBlocks c.g.commit).map (fun p => (⟨c.low, p.2, 2048⟩ : VAcc)) =
      (List.range (commitBlocks c.g.commit).length).map (fun j => ⟨c.low, ((commitBlocks c.g.commit).getD j (0, 0)).2, 2048⟩) := by
    refine List.ext_getElem (by simp) fun j hj _ => ?_
    have hlt : j < (commitBlocks c.g.commit).length := by simpa using hj
    rw [List.getElem_map, List.getElem_map, List.getElem_range, getD_of_lt hlt]
  have hchecks := Ctx.translateAll_of_reaches (supplied := fun _ _ => false) (order := fun _ => c.iss.active) (fun _ => c.low) h
    (fun _ _ => rfl) (fun _ => rfl)
  rw [goCommit, hblocks, hchecks]
  rfl

end
end Sys2Proof.Machine
end

section
/-! PROOFS. Staged stores seen by their own lane's loads, and tiles that commit (R151, R208). -/
namespace Sys2Proof
open Machine

/-- Settles O40: what a load takes turns on the last of its lane's own staged entries, which stand in staging order; a `tcommit` of a
higher number has its staged blocks checked, which all reach memory, and leaves their reduce-adds outstanding. -/
theorem stagedStoresAreSeenAndTilesCommitOnce : Obligations.StagedStoresAreSeenAndTilesCommitOnce := by
  refine ⟨fun b f lane i => ⟨fun hnone => ?none, fun ini e hmine => ?last⟩, rfl, fun s c a loc hc hok => ⟨fun hle => ?past, fun hlt hreach => ?later⟩⟩
  case none =>
    refine Block.forwardByte_of_none_staged fun e he hown => ?_
    obtain ⟨hgang, hlane, hseq, hlow, hhigh⟩ := hown
    exact absurd (hnone e he hgang hlane hseq) (by omega)
  case last =>
    have hmine : b.stagedOn f lane (f.va + i) = ini ++ [e] := hmine
    obtain ⟨-, -, -, -, hlow, -⟩ := (Block.mem_of_stagedOn_eq hmine).mp (Or.inr rfl)
    refine ⟨Block.le_of_stagedOn_eq hmine, fun x => (Block.mem_of_stagedOn_eq hmine).trans ?_, Block.forwardByte_of_store_last hmine,
      Block.forwardByte_of_atomic_last hmine⟩
    simp only [TellerEntry.OwnOn, hlow, true_and]
  case past => exact exec_tcommit_past hc hok rfl hle
  case later =>
    refine (exec_tcommit_later hc hok rfl hlt).trans ((Ctx.goCommit_of_reaches hreach).trans ?_)
    rw [Ctx.reduceAccs_eq]
    rfl

end Sys2Proof
end

section
/-! SUPPORT. Reading a run of cells in one pass (R110), and values as the words say them. -/
namespace Sys2Proof.Machine

section
variable {w : Nat}

theorem cellGetList_eq_map (c : List (Nat × BitVec w)) (a n : Nat) : cellGetList c a n = (List.range n).map (fun i => cellGet c (a + i)) := by
  induction n generalizing a with
  | zero => rfl
  | succ n ih =>
    rw [cellGetList, ih, List.range_succ_eq_map, List.map_cons, List.map_map]
    exact congrArg _ (List.map_congr_left fun i _ => by rw [Function.comp_apply, Nat.succ_eq_add_one, Nat.add_right_comm, Nat.add_assoc])

@[simp] theorem length_cellGetList (c : List (Nat × BitVec w)) (a n : Nat) : (cellGetList c a n).length = n := by
  rw [cellGetList_eq_map, List.length_map, List.length_range]

/-- Entries below a run do not show in it. -/
theorem cellGetList_cons_below {k a : Nat} (v : BitVec w) (r : List (Nat × BitVec w)) (n : Nat) (h : k < a) :
    cellGetList ((k, v) :: r) a n = cellGetList r a n := by
  rw [cellGetList_eq_map, cellGetList_eq_map]
  exact List.map_congr_left fun i _ => by rw [cellGet, if_neg (by omega), if_neg (by omega)]

theorem cellsRun_eq {c : List (Nat × BitVec w)} {a : Nat} (h : cellsWfFrom a c = true) (n : Nat) : cellsRun c a n = cellGetList c a n := by
  induction n generalizing c a with
  | zero => cases c <;> rfl
  | succ n ih =>
    cases c with
    | nil => rw [cellsRun, ih rfl]; rfl
    | cons p r =>
      obtain ⟨k, v⟩ := p
      obtain ⟨hk, hv, hr⟩ := cellsWfFrom_cons.mp h
      rw [cellsRun, cellGetList, cellGet]
      split
      next hka =>
        subst hka
        rw [ih hr, if_pos rfl, cellGetList_cons_below v r n (Nat.lt_succ_self k)]
      next hka =>
        rw [ih (cellsWfFrom_cons.mpr ⟨by omega, hv, hr⟩), if_neg (Ne.symm hka), if_pos (by omega)]

theorem cellsRun_dropWhile {c : List (Nat × BitVec w)} {lo : Nat} (h : cellsWfFrom lo c = true) (a n : Nat) :
    cellsRun (c.dropWhile (fun p => decide (p.1 < a))) a n = cellGetList c a n := by
  induction c generalizing lo with
  | nil => exact cellsRun_eq rfl n
  | cons p r ih =>
    obtain ⟨k, v⟩ := p
    obtain ⟨-, hv, hr⟩ := cellsWfFrom_cons.mp h
    rw [List.dropWhile_cons]
    split
    next hka => exact (ih hr).trans (cellGetList_cons_below v r n (of_decide_eq_true hka)).symm
    next hka => exact cellsRun_eq (cellsWfFrom_cons.mpr ⟨by simpa using hka, hv, hr⟩) n

theorem cellsToList_eq {c : List (Nat × BitVec w)} (h : cellsWf c = true) (a n : Nat) : cellsToList c a n = cellGetList c a n :=
  cellsRun_dropWhile h a n

end

/-- The planes of a run of the residue scratchpad, byte by byte (R94, R105). -/
theorem planeBytes_eq {rs : Memory} (h : rs.wf = true) (ret : Option Nat) (o n : Nat) :
    planeBytes rs ret o n = (List.range n).map (fun i => if ret = some ((o + i) / 256 % 8) then 0 else cellGet rs (o + i)) := by
  rw [planeBytes, cellsToList_eq h, cellGetList_eq_map]
  refine List.ext_getElem (by simp) fun i _ _ => ?_
  simp [eq_comm]

@[simp] theorem State.length_readLoc (s : State) (loc : Loc) (n : Nat) : (s.readLoc loc n).length = n := by
  cases loc <;> exact length_cellGetList _ _ _

theorem planeAdd_eq {old new : List Byte} {n : Nat} (o : Nat) (hold : old.length = n) (hnew : new.length = n) :
    planeAdd o old new = (List.range n).map (fun i =>
      BitVec.ofNat 8 (((old.getD i 0).toNat + (new.getD i 0).toNat) % Config.moduli.getD ((o + i) / 256) 255)) := by
  refine List.ext_getElem (by simp [planeAdd, hold, hnew]) fun i hi _ => ?_
  have hlt : i < n := by simpa [planeAdd, hold, hnew] using hi
  simp [planeAdd, hold, hnew, hlt]

theorem loaded_eq (w : Width) (sgn : Bool) (bs : List Byte) : loaded w sgn bs =
    if sgn then (BitVec.ofNat w.bits (ofLeBytes bs)).signExtend 64 else BitVec.ofNat 64 (ofLeBytes bs) := by
  have hsint : sintN w.bits (ofLeBytes bs) = (BitVec.ofNat w.bits (ofLeBytes bs)).toInt := by
    rw [← sintN_eq _ _ (Width.bits_pos w), BitVec.toNat_ofNat, sintN, sintN, Nat.mod_mod]
  rw [loaded, hsint, lowBits_eq, BitVec.ofNat_toNat, BitVec.setWidth_eq]
  rfl

theorem Op.addReg_eq (o : Op) (lane : Nat) (reg : Option Nat) (v : Word) :
    o.addReg lane reg v = { o with regs := o.regs ++ reg.toList.map (fun r => { lane := lane, reg := r, value := v }) } := by
  cases reg with
  | none => simp [addReg]
  | some r => rfl

end Sys2Proof.Machine
end

section
/-! SUPPORT. Accesses performed where nothing stands between the lanes and the homes (R111, R113, R119, R131, R141): the core's L1 holds no
line, no tower a copy of one, no update is on its way, and no store is posted. -/
namespace Sys2Proof.Machine

/-- No tower holds a copy of a line or has posted a store, and no update is on its way to one. -/
def State.NoCopies (s : State) : Prop := ∀ t ∈ s.towers, t.copies = [] ∧ t.inbox = [] ∧ t.posted = []

/-- What the lanes of a core read and write is what the homes hold. -/
structure State.Direct (s : State) (core : Nat) : Prop where
  l1 : (s.core core).l1 = []
  noCopies : s.NoCopies

section
variable {s t : State}

theorem State.NoCopies.of_towers (h : s.NoCopies) (ht : t.towers = s.towers) : t.NoCopies := by
  unfold State.NoCopies
  rwa [ht]

theorem State.NoCopies.tower (h : s.NoCopies) (n : Nat) : (s.tower n).copies = [] ∧ (s.tower n).inbox = [] ∧ (s.tower n).posted = [] := by
  rw [State.tower, List.getD_eq_getElem?_getD]
  cases hn : s.towers[n]? with
  | none => exact ⟨rfl, rfl, rfl⟩
  | some x => exact h x (List.mem_of_getElem? hn)

theorem State.NoCopies.copied (h : s.NoCopies) : s.copied = false :=
  List.any_eq_false.mpr fun x hx => by rw [(h x hx).1]; exact Bool.false_ne_true

theorem State.NoCopies.modTower (h : s.NoCopies) (n : Nat) {f : Tower → Tower}
    (hf : ∀ x, (f x).copies = x.copies ∧ (f x).inbox = x.inbox ∧ (f x).posted = x.posted) : (s.modTower n f).NoCopies := by
  intro x hx
  obtain hx | rfl := List.mem_or_eq_of_mem_set hx
  · exact h x hx
  · obtain ⟨hcopies, hinbox, hposted⟩ := hf (s.tower n)
    rw [hcopies, hinbox, hposted]
    exact h.tower n

theorem State.NoCopies.pumpN (h : s.NoCopies) (n : Nat) : (State.pumpN n s).NoCopies := by
  induction n generalizing s with
  | zero => exact h
  | succ n ih =>
    rw [State.pumpN]
    split
    · split
      · exact ih (h.of_towers rfl)
      · split
        · exact h
        next m _ _ =>
          have hdropped : (s.modTower m (fun x => { x with errlog := x.errlog.drop 1 })).NoCopies := h.modTower m fun _ => ⟨rfl, rfl, rfl⟩
          exact ih (hdropped.of_towers rfl)
    · exact h

theorem State.NoCopies.log (h : s.NoCopies) (n : Nat) (e : LogEntry) : (s.log n e).NoCopies :=
  (h.modTower n fun x => by unfold Tower.logEvent; split <;> exact ⟨rfl, rfl, rfl⟩).pumpN _

theorem State.NoCopies.foldl {α : Type} {f : State → α → State} (hf : ∀ (s : State) (x : α), s.NoCopies → (f s x).NoCopies) (l : List α)
    (h : s.NoCopies) : (l.foldl f s).NoCopies := by
  induction l generalizing s with
  | nil => exact h
  | cons x r ih => exact ih (hf s x h)

theorem State.NoCopies.storeHome (h : s.NoCopies) (loc : Loc) (bs : List Byte) : (s.storeHome loc bs).NoCopies := by
  cases loc with
  | pkg a => exact State.NoCopies.foldl (fun _ _ hs => hs.log _ _) _ (h.of_towers rfl)
  | peer m a => exact h.of_towers rfl
  | host a => exact h.of_towers rfl

theorem State.NoCopies.writeHome (h : s.NoCopies) (loc : Loc) (bs : List Byte) : (s.writeHome loc bs).NoCopies := by
  refine State.NoCopies.storeHome ?_ loc bs
  rw [State.noteWrite_eq]
  exact h.of_towers rfl

theorem State.NoCopies.storeDs (h : s.NoCopies) (core o : Nat) (bs : List Byte) : (s.storeDs core o bs).NoCopies := by
  unfold State.storeDs
  split
  · exact h
  · refine State.NoCopies.foldl (fun s _ hs => ?_) _ (h.of_towers rfl)
    have hcounted : ({ s with freshCount := s.freshCount + 1 } : State).NoCopies := hs.of_towers rfl
    exact hcounted.log _ _

theorem State.NoCopies.unpost (h : s.NoCopies) (core gi id : Nat) (x : Access) : s.unpost core gi id x = s := by
  rw [State.unpost, (h.tower _).2.2]
  rfl

theorem State.NoCopies.homeRead (h : s.NoCopies) (n : Nat) (loc : Loc) (len : Nat) : s.homeRead n loc len = (s, s.readLoc loc len) := by
  cases loc <;> simp [State.homeRead, Tower.overPosted, h.copied, (h.tower n).2.2]

theorem State.core_writeHome (s : State) (loc : Loc) (bs : List Byte) (n : Nat) : (s.writeHome loc bs).core n = s.core n := by
  rw [State.writeHome, State.noteWrite_eq]
  cases loc with
  | pkg a => rw [storeHome, State.reports_writePkg]; rfl
  | peer m a => rfl
  | host a => rfl

variable {core gi : Nat}

theorem State.Direct.writeHome (h : s.Direct core) (loc : Loc) (bs : List Byte) : (s.writeHome loc bs).Direct core where
  l1 := by rw [s.core_writeHome]; exact h.l1
  noCopies := h.noCopies.writeHome loc bs

theorem State.Direct.dropL1 (h : s.Direct core) (p : Nat → Bool) : s.dropL1 core p = s := by
  rw [State.dropL1, h.l1]
  rfl

theorem State.Direct.dropRun (h : s.Direct core) (loc : Loc) (n : Nat) : s.dropRun core loc n = s := by
  cases loc with
  | pkg a => rw [State.dropRun, h.dropL1]
  | peer m a => rfl
  | host a => rfl

theorem State.Direct.acquireOn (h : s.Direct core) (scope : Scope) (more : List Nat) : s.acquireOn core scope more = s := by
  obtain ⟨hcopies, hinbox, -⟩ := h.noCopies.tower (towerOf core)
  have hlearn : s.towerAcquire (towerOf core) scope more = s := by simp [State.towerAcquire, State.learn, hcopies, hinbox]
  rw [State.acquireOn, hlearn, h.dropL1, ite_self]

theorem State.Direct.afterAcquire (h : s.Direct core) (m : MemOrder) (sp : Spot) : s.afterAcquire core m sp = s := by
  unfold State.afterAcquire
  split
  · split <;> exact h.acquireOn _ _
  · rfl

theorem State.Direct.laneRead (h : s.Direct core) (lanes : LaneBits) (l1 direct : Bool) (loc : Loc) (n : Nat) :
    s.laneRead (core, gi, lanes) l1 direct loc n = (s, s.readLoc loc n) := by
  simp [State.laneRead, h.noCopies.homeRead, h.l1, h.noCopies.copied, (h.noCopies.tower (towerOf core)).2.2]

theorem State.Direct.laneWrite (h : s.Direct core) (lanes : LaneBits) (m : MemOrder) (loc : Loc) (bs : List Byte) :
    s.laneWrite (core, gi, lanes) m loc bs = s.writeHome loc bs := by
  have hhome : s.towerWrite (towerOf core) (some (core, gi, lanes)) m loc bs = s.writeHome loc bs := by
    rw [State.towerWrite, h.noCopies.copied]
    rfl
  rw [State.laneWrite, hhome, State.writeThrough_of_no_copy (h.writeHome loc bs).noCopies.copied (h.writeHome loc bs).l1]

/-! ### Each access (R118, R131, R185, R189, R193 to R196) -/

variable {x : Access} {o : Op} {loc : Loc}

theorem State.Direct.readSpot_vm (h : s.Direct core) (hspot : x.spot = .vm loc) : s.readSpot core gi x = (s, s.readLoc loc x.n) := by
  rw [State.readSpot, hspot]
  exact h.laneRead _ _ _ _ _

theorem State.readSpot_ds {c a : Nat} {y : Block} (hspot : x.spot = .ds c a) (hy : s.block? c = some y) :
    s.readSpot core gi x = (s, cellGetList y.ds a x.n) := by
  simp only [State.readSpot, hspot, hy, Option.elim_some]

theorem State.Direct.writeSpot_vm (h : s.Direct core) (bs : List Byte) : s.writeSpot core gi x (.vm loc) bs = s.writeHome loc bs :=
  h.laneWrite _ _ _ _

theorem State.Direct.performOne_load {w : Width} {sgn : Bool} {reg : Option Nat} {own : Option Forward} {b : Block} {bs : List Byte}
    (h : s.Direct core) (hact : x.act = .load w sgn reg own) (hb : s.block? core = some b) (hread : s.readSpot core gi x = (s, bs)) :
    State.performOne core gi (s, o) x = (s, o.addReg x.lane reg (loaded w sgn (b.forwarded own x.lane bs))) := by
  simp only [State.performOne, hact, hread, h.afterAcquire, hb, Option.elim_some]

theorem State.performOne_leaf {rank e : Nat} {bs : List Byte} (hact : x.act = .leaf rank e) (hread : s.readSpot core gi x = (s, bs)) :
    State.performOne core gi (s, o) x =
      (s, { o with group := o.group.map (fun j => { j with leaves := j.leaves ++ [(x.lane, e, rank, ofLeBytes bs)] }) }) := by
  simp only [State.performOne, hact, hread]

theorem State.Direct.performOne_store_vm {bs : List Byte} (h : s.Direct core) (hact : x.act = .store bs) (hspot : x.spot = .vm loc) :
    State.performOne core gi (s, o) x = (s.writeHome loc bs, o) := by
  simp only [State.performOne, hact, hspot, h.writeSpot_vm, (h.writeHome loc bs).noCopies.unpost]

theorem State.NoCopies.performOne_store_ds {bs : List Byte} {c a : Nat} (h : s.NoCopies) (hact : x.act = .store bs) (hspot : x.spot = .ds c a) :
    State.performOne core gi (s, o) x = (s.storeDs c a bs, o) := by
  simp only [State.performOne, hact, hspot, State.writeSpot, State.writeScratch, (h.storeDs c a bs).unpost]

theorem State.Direct.atomicAt (h : s.Direct core) (lanes : LaneBits) (m : MemOrder) (loc : Loc) (op : AtomOp) (w : Width) (v k : Word) :
    s.atomicAt (core, gi, lanes) m loc op w v k = (s.writeHome loc (leBytes w.bytes (atomNew op w.bits (ofLeBytes (s.readLoc loc w.bytes))
      (v.toNat % 2 ^ w.bits) (k.toNat % 2 ^ w.bits))), ofLeBytes (s.readLoc loc w.bytes)) := by
  simp only [State.atomicAt, h.noCopies.homeRead, h.laneWrite, (h.writeHome _ _).dropRun]

theorem State.Direct.performOne_atomic {op : AtomOp} {w : Width} {reg : Option Nat} {v k : Word} (h : s.Direct core)
    (hact : x.act = .atomic op w reg v k) (hspot : x.spot = .vm loc) :
    State.performOne core gi (s, o) x =
      (s.writeHome loc (leBytes w.bytes (atomNew op w.bits (ofLeBytes (s.readLoc loc w.bytes)) (v.toNat % 2 ^ w.bits) (k.toNat % 2 ^ w.bits))),
        let o1 := o.addReg x.lane reg (BitVec.ofNat 64 (ofLeBytes (s.readLoc loc w.bytes)))
        if op = .aaddb then { o1 with masks := o1.masks ++ [aaddbMask x.lane w (ofLeBytes (s.readLoc loc w.bytes)) v k] } else o1) := by
  simp only [State.performOne, hact, hspot, h.atomicAt, (h.writeHome _ _).afterAcquire]

theorem State.Direct.performOne_fill {r : Nat} {b : Block} (h : s.Direct core) (hact : x.act = .fill r) (hspot : x.spot = .vm loc)
    (hb : s.block? core = some b) :
    State.performOne core gi (s, o) x = (s.setBlock core (b.rsStore (retiredChannel s core) r (s.readLoc loc x.n)), o) := by
  have hread : s.readSpot core gi x = (s, s.readLoc loc x.n) := h.readSpot_vm hspot
  simp only [State.performOne, hact, hread, hspot, h.dropRun, State.writeSpot, State.writeScratch, State.modBlock, hb]

theorem State.Direct.performOne_spill {r : Nat} {b : Block} (h : s.Direct core) (hact : x.act = .spill r) (hspot : x.spot = .vm loc)
    (hb : s.block? core = some b) :
    State.performOne core gi (s, o) x = (s.writeHome loc (planeBytes b.rs (retiredChannel s core) r x.n), o) := by
  simp only [State.performOne, hact, hspot, hb, Option.elim_some, h.writeSpot_vm]

theorem State.Direct.performOne_reduce {r : Nat} {b : Block} (h : s.Direct core) (hact : x.act = .reduce r) (hspot : x.spot = .vm loc)
    (hb : s.block? core = some b) :
    State.performOne core gi (s, o) x =
      (s.writeHome loc (planeAdd (loc.addr % 2048) (s.readLoc loc x.n) (planeBytes b.rs (retiredChannel s core) r x.n)), o) := by
  simp only [State.performOne, hact, hspot, hb, Option.elim_some, h.laneWrite]

/-- The bytes of a load, each with what the lane's own staged entries supply in its place (R151). -/
theorem Block.forwarded_eq (b : Block) (own : Option Forward) (l : Nat) (bs : List Byte) :
    b.forwarded own l bs = bs.mapIdx (fun i v => (own.bind (fun f => b.forwardByte f l i)).getD v) := by
  cases own with
  | some f => rfl
  | none => exact (List.mapIdx_eq_iff.mpr fun i => Option.map_id'.symm).symm

end
end Sys2Proof.Machine
end

section
/-! SUPPORT. What an access waits for (R132, R143, R144, R361), and what a turn and a completion do with the accesses of an operation (R185,
R186). -/
namespace Sys2Proof.Machine

/-! ### What orders accesses -/

/-- Two accesses touch a byte in common (R132 item 1). -/
def Access.Shares (x y : Access) : Prop := ∃ p ∈ x.spots, ∃ q ∈ y.spots, p.meets x.n q y.n = true

/-- Neither access is of peer or host memory (R144). -/
def Access.BothNear (x y : Access) : Prop := x.spot.far = false ∧ y.spot.far = false

/-- The access `y`, earlier in the program order of a lane they have in common, is ordered before `x` (R132, R143, R144). -/
def Access.Precedes (y x : Access) : Prop :=
  (∃ l, y.lanes.getLsbD l = true ∧ x.lanes.getLsbD l = true) ∧
    (y.Shares x ∨ (y.inScratch = true ∧ x.inScratch = true) ∨ (y.ord.acq = true ∧ (y.ord.scope = .dom ∨ y.BothNear x)) ∨
      (x.ord.rel = true ∧ (x.ord.scope = .dom ∨ y.BothNear x)))

/-- An operation that issued before the one numbered `id` has still to perform an access that is ordered before `x` (R132). -/
def Gang.StillPrecedes (g : Gang) (id : Nat) (x : Access) : Prop := ∃ p ∈ g.ops, p.id < id ∧ ∃ y ∈ p.todo, y.Precedes x

/-- The tower has an older request, of another operation, to the same 256-byte line of a peer (R361). -/
def State.OlderRequest (s : State) (n gi id : Nat) (x : Access) : Prop :=
  ∃ d b h i q y m a e, d / 32 = n / 32 ∧ s.block? d = some b ∧ b.gangs[i]? = some h ∧ q ∈ h.openOps ∧ ¬ (d = n ∧ i = gi ∧ q.id = id) ∧
    y ∈ q.todo ∧ y.turn < x.turn ∧ x.spot = .vm (.peer m a) ∧ y.spot = .vm (.peer m e) ∧
    a / 256 * 256 < e + y.n ∧ e / 256 * 256 < a + x.n

/-- The access writes bytes to which the tower has posted a store of another operation (R132 item 1). -/
def State.PostedThere (s : State) (n gi id : Nat) (x : Access) : Prop :=
  x.writes = true ∧ ∃ p ∈ (s.tower (n / 32)).posted, ¬ (p.core = n ∧ p.gang = gi ∧ p.op = id) ∧ p.acc.Shares x

theorem Access.meets_iff (x y : Access) : x.meets y = true ↔ x.Shares y := by simp only [meets, Shares, List.any_eq_true]

theorem and_ne_zero_iff {n : Nat} {x y : BitVec n} : (x &&& y != 0) = true ↔ ∃ l, x.getLsbD l = true ∧ y.getLsbD l = true := by
  have hzero : x &&& y = 0 ↔ ∀ l, ¬ (x.getLsbD l = true ∧ y.getLsbD l = true) := by
    constructor
    · intro hand l hboth
      have hbit : (x &&& y).getLsbD l = true := by rw [BitVec.getLsbD_and, hboth.1, hboth.2]; rfl
      simp [hand] at hbit
    · exact fun hnone => BitVec.eq_of_getLsbD_eq fun l _ => by simpa using hnone l
  rw [bne_iff_ne, ne_eq, hzero, Classical.not_forall_not]

theorem Access.before_iff (y x : Access) : y.before x = true ↔ y.Precedes x := by
  simp only [before, Precedes, BothNear, Bool.and_eq_true, Bool.or_eq_true, and_ne_zero_iff, meets_iff, MemOrder.dom, beq_iff_eq, Bool.not_eq_true',
    or_assoc]

theorem Gang.blocked_iff (g : Gang) (id : Nat) (x : Access) : g.blocked id x = true ↔ g.StillPrecedes id x := by
  simp only [blocked, StillPrecedes, List.any_eq_true, Bool.and_eq_true, decide_eq_true_eq, Access.before_iff]

theorem Access.sameLine_iff (y x : Access) : y.sameLine x = true ↔
    ∃ m a e, x.spot = .vm (.peer m a) ∧ y.spot = .vm (.peer m e) ∧ a / 256 * 256 < e + y.n ∧ e / 256 * 256 < a + x.n := by
  unfold sameLine
  split
  next m e k a hy hx =>
    have hline (z : Nat) (len : Nat) : z / 256 * 256 + (z % 256 + len) = z + len := by omega
    simp only [hx, hy, Bool.and_eq_true, beq_iff_eq, runsMeet_iff, l2Line, hline, Spot.vm.injEq, Loc.peer.injEq]
    constructor
    · rintro ⟨rfl, hlow, hhigh⟩
      exact ⟨m, a, e, ⟨rfl, rfl⟩, ⟨rfl, rfl⟩, hhigh, hlow⟩
    · rintro ⟨m', a', e', ⟨rfl, rfl⟩, ⟨rfl, rfl⟩, hhigh, hlow⟩
      exact ⟨rfl, hlow, hhigh⟩
  next hnone =>
    refine iff_of_false Bool.false_ne_true ?_
    rintro ⟨m, a, e, hx, hy, -⟩
    exact hnone m e m a hy hx

theorem State.queuedBehind_iff (s : State) (n gi id : Nat) (x : Access) : s.queuedBehind n gi id x = true ↔ s.OlderRequest n gi id x := by
  simp only [queuedBehind, OlderRequest, Bool.and_eq_true, List.any_eq_true, List.mem_range, Option.any_eq_true, Bool.not_eq_true',
    Bool.and_eq_false_iff, decide_eq_true_eq, Access.sameLine_iff, towerOf, Prod.exists, List.mk_mem_zipIdx_iff_getElem?]
  constructor
  · rintro ⟨-, i, hi, b, hb, h, j, hj, q, hq, hother, y, hy, hturn, m, a, e, hx, hye, hlow, hhigh⟩
    refine ⟨32 * (n / 32) + i, b, h, j, q, y, m, a, e, by omega, hb, hj, hq, ?_, hy, hturn, hx, hye, hlow, hhigh⟩
    rintro ⟨hd, hj, hid⟩
    simp [hd, hj, hid] at hother
  · rintro ⟨d, b, h, j, q, y, m, a, e, hd, hb, hj, hq, hother, hy, hturn, hx, hye, hlow, hhigh⟩
    have hcore : 32 * (n / 32) + d % 32 = d := by omega
    refine ⟨by rw [hx]; rfl, d % 32, by omega, b, by rw [hcore]; exact hb, h, j, hj, q, hq, ?_, y, hy, hturn, m, a, e, hx, hye, hlow, hhigh⟩
    rw [hcore]
    simpa only [beq_eq_false_iff_ne, ne_eq, ← Decidable.not_and_iff_not_or_not, and_assoc] using hother

theorem State.behindPosted_iff (s : State) (n gi id : Nat) (x : Access) : s.behindPosted n gi id x = true ↔ s.PostedThere n gi id x := by
  simp only [behindPosted, PostedThere, Bool.and_eq_true, List.any_eq_true, Access.meets_iff, towerOf, Bool.not_eq_true', ← Bool.not_eq_true,
    beq_iff_eq, and_assoc]

theorem State.mustWait_iff (s : State) (n gi : Nat) (g : Gang) (id : Nat) (x : Access) :
    s.mustWait n gi g id x = true ↔ g.StillPrecedes id x ∨ s.OlderRequest n gi id x ∨ s.PostedThere n gi id x := by
  rw [mustWait, Bool.or_eq_true, Bool.or_eq_true, Gang.blocked_iff, queuedBehind_iff, behindPosted_iff, or_assoc]

/-! ### What is performed -/

theorem Op.addReg_id (o : Op) (lane : Nat) (reg : Option Nat) (v : Word) : (o.addReg lane reg v).id = o.id := by rw [addReg_eq]

theorem State.performOne_id (core gi : Nat) (p : State × Op) (x : Access) : (State.performOne core gi p x).2.id = p.2.id := by
  cases hact : x.act with
  | load w sgn reg own => simp only [State.performOne, hact, Op.addReg_id]
  | atomic op w reg v k =>
    cases hspot : x.spot with
    | vm loc =>
      simp only [State.performOne, hact, hspot]
      split <;> exact Op.addReg_id _ _ _ _
    | ds c a => simp only [State.performOne, hact, hspot]
    | rs a => simp only [State.performOne, hact, hspot]
  | reduce r => cases hspot : x.spot <;> simp only [State.performOne, hact, hspot]
  | store bs => simp only [State.performOne, hact]
  | fill r => simp only [State.performOne, hact]
  | spill r => simp only [State.performOne, hact]
  | leaf rank e => simp only [State.performOne, hact]

theorem State.foldl_performOne_id (core gi : Nat) (xs : List Access) (p : State × Op) : (xs.foldl (State.performOne core gi) p).2.id = p.2.id := by
  induction xs generalizing p with
  | nil => rfl
  | cons x r ih => exact (ih _).trans (performOne_id core gi p x)

/-- The state in which some accesses of an operation are performed: a release at domain scope among them has the stores that its tower has
posted for other operations performed first (R138, R144). -/
def State.flushedFor (s : State) (core gi id : Nat) (xs : List Access) : State :=
  if xs.any Access.domRelease then s.flushPosted (towerOf core) (fun p => p.core == core && p.gang == gi && p.op == id) else s

theorem State.performAll_eq (s : State) (core gi : Nat) (o : Op) (xs : List Access) : s.performAll core gi o xs =
    ((xs.foldl (State.performOne core gi) (s.flushedFor core gi o.id xs, o)).1,
      { (xs.foldl (State.performOne core gi) (s.flushedFor core gi o.id xs, o)).2 with todo := o.todo.filter (fun x => !xs.contains x) }) := rfl

section
variable {s : State} {n gi id k : Nat} {g : Gang} {o : Op} {x : Access}

theorem step_perform {r : List Turn} (hsecond : s.second = none) (honce : atOnce s = none) (hturns : s.turns = .perform n gi id k :: r) :
    step s = .next (({ s with turns := r } : State).performTurn n gi id k) := by
  rw [step, stepBody, hsecond, honce, hturns]
  rfl

theorem State.performTurn_eq (hg : s.gang? n gi = some g) (ho : g.openOps.find? (·.id == id) = some o) (hx : o.todo[k]? = some x) :
    s.performTurn n gi id k =
      if (o.groupOf x).any (s.mustWait n gi g id) then s else (s.performIn n gi o (o.groupOf x)).wakeGang n gi := by
  simp only [performTurn, hg, ho, hx, Option.bind_some, Option.map_some]

/-- A turn that performs an access changes nothing while one of those performed with it has to wait. -/
theorem State.performTurn_of_wait (hg : s.gang? n gi = some g) (ho : g.openOps.find? (·.id == id) = some o) (hx : o.todo[k]? = some x)
    (h : ∃ y ∈ o.groupOf x, s.mustWait n gi g id y = true) : s.performTurn n gi id k = s := by
  rw [performTurn_eq hg ho hx, if_pos (List.any_eq_true.mpr h)]

theorem State.performTurn_of_ready (hg : s.gang? n gi = some g) (ho : g.openOps.find? (·.id == id) = some o) (hx : o.todo[k]? = some x)
    (h : ∀ y ∈ o.groupOf x, ¬ s.mustWait n gi g id y = true) :
    s.performTurn n gi id k = (s.performIn n gi o (o.groupOf x)).wakeGang n gi := by
  rw [performTurn_eq hg ho hx, if_neg (mt List.any_eq_true.mp fun ⟨y, hy, hwait⟩ => h y hy hwait)]

theorem Op.groupOf_of_read (h : x.writes = false) : o.groupOf x = [x] := by rw [groupOf, h]; rfl
theorem Op.groupOf_of_write (h : x.writes = true) : o.groupOf x = o.todo.filter (·.meets x) := by rw [groupOf, h]; rfl

theorem Gang.find?_ops_of_openOps (ho : g.openOps.find? (·.id == id) = some o) (hmem : o ∈ g.ops) : g.ops.find? (·.id == id) = some o := by
  have hid : (o.id == id) = true := List.find?_some (p := fun p : Op => p.id == id) ho
  rw [Gang.openOps, List.find?_append] at ho
  cases hfind : g.ops.find? (·.id == id) with
  | none => exact absurd hid (List.find?_eq_none.mp hfind o hmem)
  | some p => rwa [hfind] at ho

/-- The completion of a memory operation is that of `finishOp` (R185). -/
theorem exec_memoryOperationComplete (hg : s.gang? n gi = some g) (ho : g.ops.find? (·.id == id) = some o) (hkind : o.kind = .memory) :
    exec (.memoryOperationComplete n gi id) s = happens s (s.finishOp n gi g o) := by
  refine (show exec (.memoryOperationComplete n gi id) s = happens s (tryMemoryOperationComplete n gi id s) from rfl).trans ?_
  simp only [tryMemoryOperationComplete, hg, ho, hkind, Option.bind_some]

theorem State.finishOp_of_wait (h : ∃ x ∈ o.todo, s.mustWait n gi g o.id x = true) : s.finishOp n gi g o = none := by
  rw [finishOp, if_pos (List.any_eq_true.mpr h)]

theorem State.finishOp_of_ready (h : ∀ x ∈ o.todo, ¬ s.mustWait n gi g o.id x = true) : s.finishOp n gi g o =
    some (((s.performAll n gi o o.todo).1.modGang n gi (·.closeOp (s.performAll n gi o o.todo).2)).wakeGang n gi) := by
  rw [finishOp, if_neg (mt List.any_eq_true.mp fun ⟨x, hx, hwait⟩ => h x hx hwait)]

end
end Sys2Proof.Machine
end

section
/-! PROOFS. Accesses performed one by one, in the order that R132 and R143 give (R130, R131, R185, R186). -/
namespace Sys2Proof
open Machine

/-- Settles O41: each access does at its home what its kind says; a turn and a completion perform accesses of an operation unless the
conditions that order them hold, which are those of the statement. -/
theorem accessesArePerformedOneByOneInOrder : Obligations.AccessesArePerformedOneByOneInOrder := by
  refine ⟨fun s core lane lanes b o loc n ord direct async grain gi turn via hb hwf hl1 htowers => ?access,
    fun s n gi id g o hg ho => ?order⟩
  case access =>
    have hdirect : s.Direct core := ⟨hl1, htowers⟩
    intro acc does gets ret planes
    have hgets (reg : Option Nat) (v : Word) : o.addReg lane reg v = gets reg v := by
      rw [Op.addReg_eq]
      cases reg <;> rfl
    have hplanes (r : Nat) : planeBytes b.rs ret r n = planes r := planeBytes_eq hwf ret r n
    refine ⟨fun w sgn reg own => ?load, fun bs => ⟨hdirect.performOne_store_vm rfl rfl, fun m x => hdirect.noCopies.performOne_store_ds rfl rfl⟩,
      fun op w reg v k => ?atomic, fun r => ⟨hdirect.performOne_fill rfl rfl hb, ?spill, ?reduce⟩,
      fun m y x rank e hy => State.performOne_leaf rfl (State.readSpot_ds rfl hy)⟩
    case load =>
      intro value _
      have hvalue (bs : List Byte) : loaded w sgn (b.forwarded own lane bs) = value bs := by
        have hbyte (i : Nat) (v : Byte) : (own.bind (fun f => b.forwardByte f lane i)).getD v =
            match own.bind (fun f => b.forwardByte f lane i) with | some x => x | none => v := by
          cases own.bind (fun f => b.forwardByte f lane i) <;> rfl
        simp only [loaded_eq, Block.forwarded_eq, hbyte]
        rfl
      have hload {sp : Spot} {bs : List Byte} (hread : s.readSpot core gi (acc sp (.load w sgn reg own)) = (s, bs)) :
          does sp (.load w sgn reg own) s (gets reg (value bs)) := by
        rw [← hgets, ← hvalue]
        exact hdirect.performOne_load rfl hb hread
      exact ⟨hload (hdirect.readSpot_vm rfl), fun m y x hy => hload (State.readSpot_ds rfl hy)⟩
    case atomic =>
      refine (hdirect.performOne_atomic rfl rfl).trans (congrArg (Prod.mk _) ?_)
      dsimp only [acc]
      rw [hgets]
      rfl
    case spill =>
      rw [← hplanes]
      exact hdirect.performOne_spill rfl rfl hb
    case reduce =>
      refine (hdirect.performOne_reduce rfl rfl hb).trans ?_
      dsimp only [acc]
      rw [hplanes, planeAdd_eq _ (s.length_readLoc loc n) (by simp [planes])]
      rfl
  case order =>
    intro share near before older posted waits own flushed
    have hwait (x : Access) : s.mustWait n gi g id x = true ↔ waits x := s.mustWait_iff n gi g id x
    obtain rfl : o.id = id := by simpa using List.find?_some ho
    refine ⟨fun k x r hx hsecond honce hturns => ?turn, fun hkind hmem => ?completion⟩
    case turn =>
      intro s'
      have hstep : step s = .next (s'.performTurn n gi o.id k) := step_perform hsecond honce hturns
      have hg' : s'.gang? n gi = some g := hg
      have hstays (h : ∃ y ∈ o.groupOf x, waits y) : step s = .next s' := by
        rw [hstep, State.performTurn_of_wait hg' ho hx (h.imp fun y => And.imp_right (hwait y).mpr)]
      have hperforms (h : ∀ y ∈ o.groupOf x, ¬ waits y) : step s = .next ((s'.performIn n gi o (o.groupOf x)).wakeGang n gi) := by
        rw [hstep, State.performTurn_of_ready hg' ho hx fun y hy => mt (hwait y).mp (h y hy)]
      refine ⟨fun hread hw => ?_, fun hread hw => ?_, fun hwrite => ?_⟩
      · rw [Op.groupOf_of_read hread] at hstays
        exact hstays ⟨x, List.mem_singleton_self x, hw⟩
      · rw [Op.groupOf_of_read hread] at hperforms
        rw [hperforms (List.forall_mem_singleton.mpr hw)]
        simp only [State.performIn, State.performAll_eq, List.contains_cons, List.contains_nil, Bool.or_false]
        rfl
      · rw [Op.groupOf_of_write hwrite] at hstays hperforms
        exact ⟨hstays, hperforms⟩
    case completion =>
      have hexec := exec_memoryOperationComplete hg (Gang.find?_ops_of_openOps ho hmem) hkind
      refine ⟨fun h => ?_, fun h => ?_⟩
      · rw [hexec, State.finishOp_of_wait (h.imp fun x => And.imp_right (hwait x).mpr)]
        rfl
      · rw [hexec, State.finishOp_of_ready fun x hx => mt (hwait x).mp (h x hx), State.performAll_eq]
        simp only [Gang.closeOp, State.foldl_performOne_id]
        rfl

end Sys2Proof
end
